-- ==== Sys2Proof/Word.lean ====
section
/-!
DEFINITION. The word types of the Gathal and the canonical sparse map that holds its memories and register files.
Chapter 00 (R5): every multi-byte field is little-endian, so a word is assembled from bytes in one place
(`bytesToNat`), lowest address first.
-/
namespace Sys2Proof

/-- One byte of memory. -/
abbrev Byte := BitVec 8

/-- A 32-bit lane word, stage operand or k entry. -/
abbrev Word32 := BitVec 32

/-- A 64-bit register, scalar-core or descriptor word. -/
abbrev Word := BitVec 64

/-- A sparse map from natural keys, held as (key, value) pairs. -/
abbrev NMap (α : Type) := List (Nat × α)

/-- What the map holds at `k`; an unlisted key reads as its default `d k`. -/
def mget {α : Type} (d : Nat → α) : NMap α → Nat → α
  | [], k => d k
  | p :: m, k => if p.1 = k then p.2 else mget d m k

/-- The map with every entry at `k` removed. -/
def merase {α : Type} (m : NMap α) (k : Nat) : NMap α := m.filter (fun p => p.1 ≠ k)

/-- Insert before the first larger key. -/
def minsert {α : Type} : NMap α → Nat → α → NMap α
  | [], k, v => [(k, v)]
  | p :: m, k, v => if k < p.1 then (k, v) :: p :: m else p :: minsert m k v

/-- Write `v` at `k`, keeping the canonical form: keys rising, no entry equal to its default. -/
def mput {α : Type} [DecidableEq α] (d : Nat → α) (m : NMap α) (k : Nat) (v : α) : NMap α :=
  if v = d k then merase m k else minsert (merase m k) k v

/-- The canonical form of a sparse map: keys strictly rising and no entry equal to what its key reads as by default. -/
def mwf {α : Type} [DecidableEq α] (d : Nat → α) : NMap α → Bool
  | [] => true
  | p :: m => decide (p.2 ≠ d p.1) && (m.all fun q => decide (p.1 < q.1)) && mwf d m

/-- Little-endian value of a byte list (R5): the first byte is the least significant. -/
def bytesToNat : List Byte → Nat
  | [] => 0
  | b :: bs => b.toNat + 256 * bytesToNat bs

/-- The `n` little-endian bytes of `v` (R5). -/
def natToBytes : Nat → Nat → List Byte
  | 0, _ => []
  | n + 1, v => BitVec.ofNat 8 v :: natToBytes n (v / 256)

end Sys2Proof
end

