-- ==== Sys2Proof/Machine/Parts/Gleaner.lean ====
section
/-!
DEFINITION. State of the gleaner and its sieve (chapters 11 and 12): requests, prefix handles, models and their steps,
output waiting to be written, histograms.
-/
namespace Sys2Proof.Machine
open Sys2Proof

/-- A node of a speculation tree (R397, R398): token, parent + 1 (0 the root), depth. -/
structure TreeNode where
  tok : Nat
  par : Nat
  depth : Nat
deriving DecidableEq, Repr

/-- An entry of the request table (R345, R348 to R356). `st`: 0 FREE, 1 QUEUED, 2 PREFILL, 3 DECODE, 4 DRAINING, 5 ENDED.
`q`, `ent`, `cid`, `fn` name the entry it came from; `pages` are the pool pages of its table in order, those below
`shared` lent by a prefix; the last `tent` pages are tentative, `tentRsv` of them from the reservation `rsv`; `lender` the
handle it borrows, `build` the handle it builds; `copying` a copy under R355 is outstanding, `copyBad` the status that
failed it; `toks` its committed generated tokens, `wrote` how many were written out; `gst` its grammar state; `tree` its next tree; `due` the step number it
must be passed for an ENDED entry to be freed. -/
structure Req where
  st : Nat
  q : Nat
  ent : Nat
  cid : Nat
  fn : Nat
  model : Nat
  cls : Nat
  prefixOnly : Bool
  desc : List Byte
  seed : Nat
  acceptAt : Nat
  no : Nat
  admitNo : Nat
  len : Nat
  toks : List Nat
  wrote : Nat
  lastAt : Nat
  ws : Nat
  ad : Option Nat
  rsv : Nat
  pages : List Nat
  shared : Nat
  tent : Nat
  tentRsv : Nat
  lender : Option Nat
  build : Option Nat
  copying : Bool
  copyBad : Nat
  missed : Bool
  pfxTok : Nat
  gst : Nat
  tree : List TreeNode
  due : Nat
deriving DecidableEq, Repr

def Req.reset : Req :=
  ⟨0, 0, 0, 0, 0, 0, 0, false, [], 0, 0, 0, 0, 0, [], 0, 0, 0, none, 0, [], 0, 0, 0, none, none, false, 0, false, 0, 0, [], 0⟩

/-- A prefix handle (R354 to R357). `st`: 0 free, 1 building, 2 READY, 3 RELEASED; `marked` a release asked for while it
is building; `up` the lender whose reference passed to it; `lentAt` its last lending or its creation. -/
structure Pfx where
  st : Nat
  pin : Bool
  gen : Nat
  model : Nat
  fn : Nat
  ws : Nat
  ad : Option Nat
  len : Nat
  refs : Nat
  pages : List Nat
  shared : Nat
  up : Option Nat
  marked : Bool
  lentAt : Nat
deriving DecidableEq, Repr

def Pfx.reset : Pfx := ⟨0, false, 0, 0, 0, 0, none, 0, 0, [], 0, none, false, 0⟩

/-- The sieve's result of a segment (R384): tokens, grammar state after them, end flag (0 none, 1 stop, 2 dead end), rows
chosen so far of a segment of several, the node the walk stands at + 1, and the accepted nodes in order. -/
structure SegRes where
  toks : List Nat
  gst : Nat
  fin : Nat
  rows : Nat
  at_ : Nat
  path : List Nat
  done : Bool
deriving DecidableEq, Repr

def SegRes.reset : SegRes := ⟨[], 0, 0, 0, 0, [], false⟩

/-- A candidate token with its mass (R385). -/
structure Cand where
  tok : Nat
  val : Nat
deriving DecidableEq, Repr

/-- A segment of a plan (Table 11.5): request, kind, SPEC, first position, positions, the draft tokens of draft mode with
the distributions they were drawn from, and the draft passes it has seen. -/
structure Seg where
  req : Nat
  kind : Nat
  spec : Nat
  pos : Nat
  ntok : Nat
  drafts : List Nat
  qs : List (List Cand)
  pass : Nat
  res : SegRes
deriving DecidableEq, Repr

/-- The step of a model. `stage`: 0 none, 1 planned or in flight, 2 committed and its boundary due, 3 abandoned and its
boundary due. `retry` RETRY of the plan; `siva`, `sivb` the sieve's registers in force (R404); `phase` the running phase + 1,
`phases` those that wait; `faulted` a sieve access failed; `commit` the COMMIT waiting (core, ticket) with its time;
`compact` copies are outstanding; `allReady` every member has reported it is ready (R366); `again` RETRY of the next plan (R365). -/
structure GStep where
  stage : Nat
  no : Nat
  retry : Bool
  segs : List Seg
  siva : Word
  sivb : Word
  phase : Nat
  phases : List Nat
  faulted : Bool
  commit : Option (Nat × Nat)
  commitAt : Nat
  compact : Bool
  allReady : Bool
  again : Bool
deriving DecidableEq, Repr

def GStep.reset : GStep := ⟨0, 0, false, [], 0, 0, 0, [], false, none, 0, false, false, false⟩

/-- A CANCEL or prefix entry that waits for a boundary: queue pair, entry, opcode, stamp (R373, R357). -/
structure GWait where
  q : Nat
  ent : Nat
  op : Nat
  stamp : Nat
deriving DecidableEq, Repr

/-- A model as the gleaner sees it: its step, entries waiting, functions of a forced cancel waiting (R375), and whether an
idle boundary is due (R359). -/
structure GModel where
  step : GStep
  waits : List GWait
  forced : List Nat
  due : Bool
deriving DecidableEq, Repr

def GModel.reset : GModel := ⟨.reset, [], [], false⟩

/-- Output that follows a commit point (R347): request index, function, tokens with their first address, progress word
(address, value), completion (queue pair, entry, status, RESULT). -/
structure GOut where
  req : Nat
  fn : Nat
  addr : Nat
  toks : List Nat
  prog : Nat
  progVal : Nat
  cpl : Option (Nat × Nat × Nat × Nat)
deriving DecidableEq, Repr

/-- A segment of a plan that the leader sent (R366): as Table 11.5, with the address of its input tokens. -/
structure PlanSeg where
  req : Nat
  kind : Nat
  spec : Nat
  pos : Nat
  ntok : Nat
  ws : Nat
  ad : Nat
  tokAddr : Nat
deriving DecidableEq, Repr

/-- What a commit record says of a request (R366): its committed length, its last token when it has one, and whether it
ended. -/
structure MemRec where
  req : Nat
  len : Nat
  tok : Option Nat
  ended : Bool
deriving DecidableEq, Repr

/-- The gleaner. Histograms are keyed by ((class x 3 + kind) x 2 + bank) x 128 + bin; `bank` is the bank that counts,
`swap` a swap that waits; `notices` the completions it has been notified of, by page-mover, winnower or fabric ring (R283). -/
structure GlnSt where
  reqs : NMap Req
  pfx : NMap Pfx
  models : NMap GModel
  out : List GOut
  hist : NMap Nat
  bank : NMap Nat
  swap : NMap Bool
  lastFail : NMap Nat
  no : Nat
  notices : NMap Nat
deriving DecidableEq, Repr

def GlnSt.reset : GlnSt := ⟨[], [], [], [], [], [], [], [], 0, []⟩

end Sys2Proof.Machine
end

