-- ==== Sys2Proof/Machine/Parts/Haywain.lean ====
section
/-!
DEFINITION. State of the haywain (chapter 14): packets, ports, gateway tags, reductions and rack time; and of the riddle
(chapter 13).
-/
namespace Sys2Proof.Machine
open Sys2Proof

/-- A packet (Table 14.5). `own` names the ring entry it belongs to: (ring + 1, entry), or (0, 0). -/
structure Pkt where
  typ : Nat
  cls : Nat
  set : Bool
  tr : Bool
  slice : Nat
  dst : Nat
  src : Nat
  len : Nat
  tag : Nat
  status : Nat
  win : Nat
  gen : Nat
  group : Nat
  rop : Nat
  addr : Nat
  rid : Nat
  chunk : Nat
  data : List Byte
  own : Nat × Nat
deriving DecidableEq, Repr

/-- A flit in a replay store: SEQ, KIND, FIRST, whether it has been resent, bytes 0x04 to 0xFB. -/
structure HFlit where
  seq : Nat
  kind : Nat
  first : Bool
  again : Bool
  body : List Byte
deriving DecidableEq, Repr

/-- A fabric port (R434 to R444). `adv` keeps the depths the far end advertised (R440), `sent` the packets whose last flit is
in the replay store, with its SEQ (R463), `seen` that an identity record came since the lanes aligned (R442). Queues and credits
are keyed by queue 1 to 9 of Table 14.1. -/
structure HPort where
  light : Bool
  lightAt : Nat
  holding : Bool
  topo : Nat
  txKey : List Byte
  rxKey : List Byte
  keygen : Nat
  cr : NMap Nat
  crBack : NMap Nat
  owed : NMap Nat
  given : NMap Nat
  queues : NMap (List Pkt)
  ptr : Nat
  tptr : Nat
  txSeq : Nat
  replay : List HFlit
  open_ : List (List Byte)
  txBlock : Nat
  rxSeq : Nat
  ackSeq : Nat
  nak : Bool
  badSeq : Option Nat
  block : List (Bool × List Byte)
  rxBlock : Nat
  tagBad : Bool
  part : List Byte
  rxq : List Pkt
  echo : Nat × Nat
  adv : NMap Nat
  sent : List (Nat × Pkt)
  seen : Bool
deriving DecidableEq, Repr

def HPort.reset : HPort :=
  ⟨false, 0, false, 0, [], [], 0, [], [], [], [], [], 0, 0, 0, [], [], 0, 0, 1023, false, none, [], 0, false, [], [], (0, 0), [], [], false⟩

/-- A chunk of a reduction on this chip (R459, R460): contributions still expected from ports (24 the local one), the
FP32 values so far. -/
structure RChunk where
  idx : Nat
  from_ : List Nat
  vals : List Nat
deriving DecidableEq, Repr

/-- A reduction block (R460). -/
structure RBlock where
  group : Nat
  rid : Nat
  rop : Nat
  chunks : List RChunk
deriving DecidableEq, Repr

/-- A REDUCE of a ring (R461, R462): ring, entry, group, RID, ROP, source, destination, length, the chunks whose
local contribution waits for a block, the chunks written. -/
structure RedOp where
  ring : Nat
  ent : Nat
  fn : Nat
  group : Nat
  rid : Nat
  rop : Nat
  src : Nat
  dst : Nat
  len : Nat
  waits : List Nat
  wrote : List Nat
deriving DecidableEq, Repr

/-- An outstanding remote request of the gateway (R451): tag, unit, generator, request, write. -/
structure GwTag where
  tag : Nat
  unit : Nat
  gen : Nat
  req : Nat
deriving DecidableEq, Repr

/-- An outstanding remote access of a core (R27, R451): tag, core, destination register, bytes, whether the load sign-extends,
whether it is the single repeat, and the packet that asked for it. -/
structure CoreTag where
  tag : Nat
  core : Nat
  reg : Nat
  n : Nat
  sext : Bool
  again : Bool
  pkt : Pkt
deriving DecidableEq, Repr

/-- A message an engine has handed to the fabric: engine (Table 14.5), group or member index + 64, slice context, numbers
and bytes. Its layout in packets is not stated. -/
structure FabMsg where
  eng : Nat
  to_ : Nat
  ctx : Nat
  nums : List Nat
  bytes : List Byte
deriving DecidableEq, Repr

/-- The haywain. `buckets` of transit grants by grant x 2 + side, in 1/64 flit, with the time they were last filled;
`ref` counts REF ticks; `frame` the next frame number, `edgeAt` the tick of the last accepted edge + 1, `dev` the deviation
being worked off, `samples` the deviations of mode 1. -/
structure HaySt where
  ports : NMap HPort
  tags : List GwTag
  ctags : List CoreTag
  orig : List Pkt
  msgs : List FabMsg
  inbox : List Pkt
  buckets : NMap (Nat × Nat)
  blocks : List RBlock
  reds : List RedOp
  ref : Nat
  frame : Nat
  edgeAt : Nat
  dev : Int
  samples : List Int
deriving DecidableEq, Repr

def HaySt.reset : HaySt := ⟨[], [], [], [], [], [], [], [], [], 0, 0, 0, 0, []⟩

/-! ### Riddle -/

/-- The identity of a job (R414): STEP, LAYER, OP, E, K, CF_Q8. -/
structure JobId where
  step : Nat
  layer : Nat
  op : Nat
  e : Nat
  k : Nat
  cf : Nat
deriving DecidableEq, Repr

/-- A routing record (R414): token, expert, choice, gate score and combine weight as FP32 bits. -/
structure RRec where
  g : Nat
  e : Nat
  j : Nat
  score : Nat
  weight : Nat
deriving DecidableEq, Repr

/-- A riddle message: routing records of a member (with the count its header gives), a dispatch or combine header, a
dispatched row (expert, row, activation bytes, scale bytes), a combine row (token, choice, bytes). -/
inductive RdlBody where
  | records (count : Nat) (recs : List RRec)
  | header (rows : Nat)
  | row (e r : Nat) (data scale : List Byte)
  | crow (g j : Nat) (data : List Byte)
deriving DecidableEq, Repr

structure RdlMsg where
  job : JobId
  member : Nat
  body : RdlBody
deriving DecidableEq, Repr

/-- A job in flight (R408 to R425). `stage` 0 waits for records, 1 for rows, 2 has its count area written; `recs` the
records of each member, `acc` the accepted assignments with their row, `hdrs` the headers received (member, rows), `rows`
the rows landed from each member, `drop` that its step was abandoned. -/
structure RdlJob where
  no : Nat
  ctx : Nat
  core : Nat
  ticket : Nat
  desc : List Byte
  stage : Nat
  recs : List (Nat × List RRec)
  acc : List (RRec × Nat)
  hdrs : List (Nat × Nat)
  rows : NMap Nat
  inbox : List RdlMsg
  drop : Bool
deriving DecidableEq, Repr

/-- Counts staged for a step (R425, R428, R429), per slice context and serving core; per-expert counts by expert x 2 +
(0 accepted, 1 overflowed). -/
structure RdlLed where
  ctx : Nat
  core : Nat
  step : Nat
  assign : Nat
  disp : Nat
  ovf : Nat
  recv : Nat
  ret : Nat
  exp : NMap Nat
  closed : Bool
deriving DecidableEq, Repr

/-- What a ROUTE decided (R416, R417), kept for the COMBINE of its layer: context, job, accepted assignments with their
rows, and every member's records. -/
structure RMap where
  ctx : Nat
  job : JobId
  acc : List (RRec × Nat)
  recs : List (Nat × List RRec)
deriving DecidableEq, Repr

/-- The riddle. -/
structure RdlSt where
  no : Nat
  jobs : List RdlJob
  early : NMap (List RdlMsg)
  ended : NMap (List JobId)
  leds : List RdlLed
  maps : List RMap
deriving DecidableEq, Repr

def RdlSt.reset : RdlSt := ⟨0, [], [], [], [], []⟩

end Sys2Proof.Machine
end

