-- ==== Sys2Proof/Syntax.lean ====
section
/-!
DEFINITION. The commands: one constructor of `Instr` per row of spec/opcode_table.json, with the row's operands. An
operand is what comes from outside the block or what the manual leaves to time or to chance: which unit, a written
value, a received message, whether a check failed. Everything else a row needs is in State.
-/
namespace Sys2Proof

/-- Who makes a CSR access or sends a command word (Table 17.1): PL0 firmware, a binder's program in its own context,
a PCIe function, the tray manager, or the wicket. -/
inductive Agent where
  | firmware
  | core (c : Fin 64)
  | func (f : Fin 128)
  | tray
  | wicket
deriving DecidableEq, Repr

/-- Who sends a remote access or token to a bin (R532). -/
inductive Sender where
  | plot (p : Fin 16)
  | slice (x : Fin 16)
  | core (c : Fin 64)
  | gleaner
  | riddle
  | firmware
deriving DecidableEq, Repr

/-- What the check bits of one bank access find (R130, chapter 16): nothing, a corrected error, a detected error whose
single repeat succeeds, or one whose repeat fails too, with the 4-byte granule of the bank word. -/
inductive Ecc where
  | clean
  | corrected (g : Fin 16)
  | transient (g : Fin 16)
  | lasting (g : Fin 16)
deriving DecidableEq, Repr

/-- Who else asks for a bin bank in the same cycle (Table 04.1): the write-back of a corrected word, the seeder's
configuration accesses, a data requester by index, patrol scrub. -/
inductive BankReq where
  | writeBack
  | config
  | data (i : Fin 6)
  | scrub
deriving DecidableEq, Repr

/-- A requester that asks at an arbitration point in the same cycle (Table 05.8): its index or number, its priority class (R180: 0 error, 1 configuration, 2 data, 3 scrub
and telemetry), and the plot it asks for, if it asks for one. -/
structure Rival where
  idx : Nat
  cls : Fin 4
  plot : Option (Fin 16)
deriving DecidableEq, Repr

/-- The plot a rival asks for. -/
def Rival.plotNo (r : Rival) : Option Nat := r.plot.map Fin.val

/-- How a request is answered: served (the bytes are those the addressed memory holds), served by another chip with
these bytes, answered with a detected error, or refused with a status. -/
inductive Resp where
  | ok
  | data (bytes : List Byte)
  | error
  | refused (status : BitVec 16)
deriving DecidableEq, Repr

/-- A remote window access: a write of bytes, or a read of a number of bytes. -/
inductive WinAcc where
  | write (bytes : List Byte)
  | read (n : Nat)
deriving DecidableEq, Repr

/-- Which read of host memory an answer belongs to (R247): one of a queue pair's, or any other of a 4 KiB bus page. -/
inductive HostRead where
  | queue (q : Fin 16384)
  | page (p : Nat)
deriving DecidableEq, Repr

/-- Where a key command comes from (R544): the oldest SEND to firmware of a queue pair, or a core's write of HSP_KCMD. -/
inductive KeySrc where
  | queue (q : Fin 16384)
  | core (c : Fin 64) (off : BitVec 25)
deriving DecidableEq, Repr

/-- What a step of the power-on sequence finds broken (Table 18.3): a thresher, a bin, a bank row by a byte of it, a core, a
line of control SRAM (64) or of a core's local memory, a laser input, a steering unit, a silo stack. -/
inductive BootBad where
  | thresher (unit : Fin 16896)
  | bin (unit : Fin 16896)
  | row (unit : Fin 16896) (addr : Fin 262144)
  | core (c : Fin 64)
  | line (space : Fin 65) (line : Fin 524288)
  | laser (f : Fin 16)
  | steer (inst : Fin 33792)
  | stack (k : Fin 8)
deriving DecidableEq, Repr

/-- The commands of the Gathal. -/
inductive Instr where
  /-- RC_READ (R8): A read of an RC field samples and clears the field in one cycle of the register's clock; an event set in that cycle reads as 1 afterwards. -/
  | rcRead (who : Agent) (addr : BitVec 48) (bytes : Nat) (set : BitVec 64)
  /-- REGISTER_WRITE (R7): A write to a register that has no row of its own acts as its access code defines. -/
  | registerWrite (who : Agent) (addr : BitVec 48) (bytes : Nat) (value : BitVec 64) (set : BitVec 64)
  /-- CROSSING_DELIVERY (R18): An item written into a dual-clock FIFO, or a signal entering a two-flop synchroniser, is delivered in the destination domain after the crossing latency. -/
  | crossingDelivery (path : Fin 17)
  /-- SR_SEED_WRITE (R48): A write to CU_SR_SEED reseeds all 16 lane LFSRs in the array cycle after it reaches the thresher. -/
  | srSeedWrite (unit : Fin 16896) (atSwitch : Bool)
  /-- SECTION_FLAGS_VISIBLE (R61): The section-wide flag word becomes visible in SEED_PLOT_FLAGS and the run completion within 64 cycles of the last thresher's end-of-section. -/
  | sectionFlagsVisible (plot : Fin 16)
  /-- NOP (R81): Stage word that does nothing. -/
  | nop (unit : Fin 16896) (stage : Fin 4)
  /-- MOV (R81): Stage word copying SRC1 to DST. -/
  | mov (unit : Fin 16896) (stage : Fin 4)
  /-- LROT (R81): Stage word rotating SRC1 across lanes by IMM[3:0]. -/
  | lrot (unit : Fin 16896) (stage : Fin 4)
  /-- LBC (R81): Stage word broadcasting one lane of SRC1 to every lane. -/
  | lbc (unit : Fin 16896) (stage : Fin 4)
  /-- PTOI (R81): Stage word writing 1 or 0 per lane from predicate PSEL. -/
  | ptoi (unit : Fin 16896) (stage : Fin 4)
  /-- ITOP (R81): Stage word setting predicate PD where SRC1 is nonzero. -/
  | itop (unit : Fin 16896) (stage : Fin 4)
  /-- STAGE_FADD (R81): Stage word float addition rounded once in RM. -/
  | stageFadd (unit : Fin 16896) (stage : Fin 4)
  /-- STAGE_FSUB (R81): Stage word float subtraction rounded once in RM. -/
  | stageFsub (unit : Fin 16896) (stage : Fin 4)
  /-- STAGE_FMUL (R81): Stage word float multiplication rounded once in RM. -/
  | stageFmul (unit : Fin 16896) (stage : Fin 4)
  /-- STAGE_FFMA (R81): Stage word fused multiply-add with one rounding. -/
  | stageFfma (unit : Fin 16896) (stage : Fin 4)
  /-- STAGE_FMIN (R83): Stage word float minimum with canonical NaN and -0 below +0. -/
  | stageFmin (unit : Fin 16896) (stage : Fin 4)
  /-- STAGE_FMAX (R83): Stage word float maximum with canonical NaN and -0 below +0. -/
  | stageFmax (unit : Fin 16896) (stage : Fin 4)
  /-- FABS (R81): Stage word clearing the sign, exact and flagless. -/
  | fabs (unit : Fin 16896) (stage : Fin 4)
  /-- FNEG (R81): Stage word inverting the sign, exact and flagless. -/
  | fneg (unit : Fin 16896) (stage : Fin 4)
  /-- STAGE_FDIV (R81): Stage word correctly rounded float division. -/
  | stageFdiv (unit : Fin 16896) (stage : Fin 4)
  /-- IADD (R81): Stage word integer addition, low 32 bits. -/
  | iadd (unit : Fin 16896) (stage : Fin 4)
  /-- ISUB (R81): Stage word integer subtraction, low 32 bits. -/
  | isub (unit : Fin 16896) (stage : Fin 4)
  /-- IMUL (R81): Stage word integer multiplication, low 32 bits. -/
  | imul (unit : Fin 16896) (stage : Fin 4)
  /-- IMIN (R81): Stage word signed integer minimum. -/
  | imin (unit : Fin 16896) (stage : Fin 4)
  /-- IMAX (R81): Stage word signed integer maximum. -/
  | imax (unit : Fin 16896) (stage : Fin 4)
  /-- STAGE_AND (R81): Stage word bitwise AND. -/
  | stageAnd (unit : Fin 16896) (stage : Fin 4)
  /-- STAGE_OR (R81): Stage word bitwise OR. -/
  | stageOr (unit : Fin 16896) (stage : Fin 4)
  /-- STAGE_XOR (R81): Stage word bitwise XOR. -/
  | stageXor (unit : Fin 16896) (stage : Fin 4)
  /-- STAGE_SHL (R81): Stage word shift left by SRC2[4:0]. -/
  | stageShl (unit : Fin 16896) (stage : Fin 4)
  /-- STAGE_SHR (R81): Stage word logical shift right. -/
  | stageShr (unit : Fin 16896) (stage : Fin 4)
  /-- STAGE_SAR (R81): Stage word arithmetic shift right. -/
  | stageSar (unit : Fin 16896) (stage : Fin 4)
  /-- DOTF (R85): Stage word adding a float group dot product into an accumulator. -/
  | dotf (unit : Fin 16896) (stage : Fin 4)
  /-- DOTI (R51): Stage word adding an integer group dot product into an INT32 accumulator, wrapping. -/
  | doti (unit : Fin 16896) (stage : Fin 4)
  /-- DOTMX (R86): Stage word accumulating a microscaled block partial and, with IMM[1], scaling it into the accumulator. -/
  | dotmx (unit : Fin 16896) (stage : Fin 4)
  /-- CVT (R81): Stage word converting SRC1 between formats. -/
  | cvt (unit : Fin 16896) (stage : Fin 4)
  /-- MXSC (R40): Stage word computing an MX block scale from 32 values. -/
  | mxsc (unit : Fin 16896) (stage : Fin 4)
  /-- MXQ (R41): Stage word quantising to an MX element format with saturation. -/
  | mxq (unit : Fin 16896) (stage : Fin 4)
  /-- MXDQ (R81): Stage word dequantising an MX element by its scale. -/
  | mxdq (unit : Fin 16896) (stage : Fin 4)
  /-- FCMPEQ (R81): Stage word writing float equality into a predicate. -/
  | fcmpeq (unit : Fin 16896) (stage : Fin 4)
  /-- FCMPLT (R81): Stage word writing float less-than into a predicate. -/
  | fcmplt (unit : Fin 16896) (stage : Fin 4)
  /-- FCMPLE (R81): Stage word writing float less-or-equal into a predicate. -/
  | fcmple (unit : Fin 16896) (stage : Fin 4)
  /-- FCMPUN (R81): Stage word writing unordered comparison into a predicate. -/
  | fcmpun (unit : Fin 16896) (stage : Fin 4)
  /-- ICMPEQ (R81): Stage word writing integer equality into a predicate. -/
  | icmpeq (unit : Fin 16896) (stage : Fin 4)
  /-- ICMPLT (R81): Stage word writing signed integer less-than into a predicate. -/
  | icmplt (unit : Fin 16896) (stage : Fin 4)
  /-- ICMPLTU (R81): Stage word writing unsigned integer less-than into a predicate. -/
  | icmpltu (unit : Fin 16896) (stage : Fin 4)
  /-- SEL (R81): Stage word selecting SRC1 or SRC2 by predicate PSEL. -/
  | sel (unit : Fin 16896) (stage : Fin 4)
  /-- PAND (R81): Stage word predicate AND. -/
  | pand (unit : Fin 16896) (stage : Fin 4)
  /-- POR (R81): Stage word predicate OR. -/
  | por (unit : Fin 16896) (stage : Fin 4)
  /-- PXOR (R81): Stage word predicate XOR. -/
  | pxor (unit : Fin 16896) (stage : Fin 4)
  /-- PNOT (R81): Stage word predicate NOT. -/
  | pnot (unit : Fin 16896) (stage : Fin 4)
  /-- EXP2 (R56): Special-function stage word computing exp2. -/
  | exp2 (unit : Fin 16896) (stage : Fin 4)
  /-- LOG2 (R56): Special-function stage word computing log2. -/
  | log2 (unit : Fin 16896) (stage : Fin 4)
  /-- RCP (R56): Special-function stage word computing a reciprocal. -/
  | rcp (unit : Fin 16896) (stage : Fin 4)
  /-- RSQRT (R56): Special-function stage word computing a reciprocal square root. -/
  | rsqrt (unit : Fin 16896) (stage : Fin 4)
  /-- TANH (R56): Special-function stage word computing tanh. -/
  | tanh (unit : Fin 16896) (stage : Fin 4)
  /-- SIGM (R56): Special-function stage word computing sigmoid. -/
  | sigm (unit : Fin 16896) (stage : Fin 4)
  /-- COMPRESS (R93): Stage word packing selected active lanes into the pack buffer and sending full groups. -/
  | compress (unit : Fin 16896) (stage : Fin 4)
  /-- EXPAND (R94): Stage word distributing packed values to selected active lanes. -/
  | expand (unit : Fin 16896) (stage : Fin 4)
  /-- LSUM (R87): Stage word summing active lanes by a fixed pairwise tree. -/
  | lsum (unit : Fin 16896) (stage : Fin 4)
  /-- LMAX (R87): Stage word taking the maximum over active lanes. -/
  | lmax (unit : Fin 16896) (stage : Fin 4)
  /-- ISUM (R81): Stage word wrapping INT32 sum over active lanes. -/
  | isum (unit : Fin 16896) (stage : Fin 4)
  /-- PCOUNT (R81): Stage word counting lanes whose predicate is true. -/
  | pcount (unit : Fin 16896) (stage : Fin 4)
  /-- AZERO (R81): Stage word zeroing an accumulator. -/
  | azero (unit : Fin 16896) (stage : Fin 4)
  /-- AREAD (R81): Stage word reading an accumulator out converted to FMT_D. -/
  | aread (unit : Fin 16896) (stage : Fin 4)
  /-- AWRITE (R81): Stage word writing raw bits into an accumulator. -/
  | awrite (unit : Fin 16896) (stage : Fin 4)
  /-- AADD (R81): Stage word adding SRC1 into an accumulator. -/
  | aadd (unit : Fin 16896) (stage : Fin 4)
  /-- AREADZ (R81): Stage word reading an accumulator out and zeroing it in the same cycle. -/
  | areadz (unit : Fin 16896) (stage : Fin 4)
  /-- MATRIX_WORD (R99): Matrix-mode issue computing one 16 x 16 output tile over KB blocks across the four stages. -/
  | matrixWord (unit : Fin 16896)
  /-- MATRIX_TILE_READOUT (R100): Readout of a captured tile begins once its sixteenth capture and the previous readout are done. -/
  | matrixTileReadout (unit : Fin 16896)
  /-- PASS_START (R89): A stage begins a pass at word 0, reading the loop limits. -/
  | passStart (unit : Fin 16896) (stage : Fin 4)
  /-- THRESHER_RUN_END (R91): At a pass start a stage finds end-of-section on all its inputs, forwards it and ends the run. -/
  | thresherRunEnd (unit : Fin 16896) (stage : Fin 4)
  /-- BROADCAST_WRITE_ARRIVAL (R75): A broadcast write reaches a thresher and lands in its staged k bank, after any same-cycle switch copy. -/
  | broadcastWriteArrival (unit : Fin 16896) (atSwitch : Bool)
  /-- STREAM_ACTIVATE (R109): When an active stream ends the queued descriptor becomes active in the next cycle. -/
  | streamActivate (unit : Fin 16896) (gen : Fin 4)
  /-- READ_ELEMENT (R115): A READ stream accesses one element from its bank and puts it on the link two cycles later. -/
  | readElement (unit : Fin 16896) (gen : Fin 4) (ecc : Ecc) (rivals : List BankReq)
  /-- WRITE_ELEMENT (R115): A WRITE stream takes a beat from its link input and writes its elements to the bank. -/
  | writeElement (unit : Fin 16896) (gen : Fin 4) (rivals : List BankReq)
  /-- FETCH_REQUEST (R116): A FETCH stream issues a read request of up to 256 bytes over the cartway. -/
  | fetchRequest (unit : Fin 16896) (gen : Fin 4)
  /-- FLUSH_WRITE (R116): A FLUSH stream reads its buffer and sends a write over the cartway. -/
  | flushWrite (unit : Fin 16896) (gen : Fin 4) (ecc : Ecc) (rivals : List BankReq)
  /-- FETCH_RESPONSE (R117): A fetch response reaches bin ingress and its bytes land in the buffer at their ring position. -/
  | fetchResponse (unit : Fin 16896) (gen : Fin 4) (req : Nat) (epoch : BitVec 8) (res : Resp) (rivals : List BankReq)
  /-- FLUSH_ACK (R128): An acknowledgement or NACK of a FLUSH write returns its credit; a stale one faults nothing. -/
  | flushAck (unit : Fin 16896) (gen : Fin 4) (req : Nat) (epoch : BitVec 8) (res : Resp)
  /-- EPOCH_REUSE_RELEASE (R126): A generator held for epoch reuse resumes issue once requests four epochs back have returned. -/
  | epochReuseRelease (unit : Fin 16896) (gen : Fin 4)
  /-- TASK_ABORT (R131): A lasting error, refusal or slot fault reaches the seeder, which cancels every stream of the section and drains it. -/
  | taskAbort (plot : Fin 16)
  /-- SLOT_TIMEOUT (R140): A TAGGED access held by one tag check for 2^TLOG2 cycles ends the task with SLOT_TIMEOUT. -/
  | slotTimeout (unit : Fin 16896) (gen : Fin 4)
  /-- MU_SLOTFAULT_CLEAR (R141): Writing 1 to MU_SLOTFAULT.VALID clears the whole register. -/
  | muSlotfaultClear (who : Agent) (unit : Fin 16896)
  /-- REMOTE_WINDOW_ACCESS (R144): A remote read or write reaching a bin is checked against protection and the named window. -/
  | remoteWindowAccess (unit : Fin 16896) (sender : Sender) (win : Fin 8) (gen : BitVec 16) (off : BitVec 18) (acc : WinAcc) (rivals : List BankReq)
  /-- WINDOW_CLOSE (R146): A write changing a window's OPEN from 1 to 0 closes it and advances GEN. -/
  | windowClose (who : Agent) (unit : Fin 16896) (win : Fin 8)
  /-- WINDOW_CLOSE_COMPLETE (R146): The closing CSR write completes once every write accepted before the close has landed. -/
  | windowCloseComplete (unit : Fin 16896) (win : Fin 8)
  /-- LINK_TRANSFER (R153): A link transfer reaches its terminating queue after its hops and seam cycles. -/
  | linkTransfer (inst : Fin 33792) (out : Fin 18)
  /-- CREDIT_RETURN (R155): A returned credit reaches the route origin F cycles after its transfer left the queue. -/
  | creditReturn (inst : Fin 33792) (out : Fin 18)
  /-- LINK_RESEND (R152): A receiver detects an uncorrectable transfer and the sender resends it once from its replay store. -/
  | linkResend (inst : Fin 33792) (out : Fin 18) (again : Bool)
  /-- JOIN_PAIR (R164): A join pairs the head token with the head data transfer and sends the data to the selected destination. -/
  | joinPair (inst : Fin 33792) (join : Fin 2)
  /-- SIGNAL_TOKEN_AT_SINK (R169): A SIGNAL token at the signal sink increments LNK_SIGNALS and records its value. -/
  | signalTokenAtSink (inst : Fin 33792)
  /-- TOKEN_INJECTION (R170): A cartway TOKEN packet reaches a memory tile and is checked and queued, or NACKed. -/
  | tokenInjection (unit : Fin 16896) (sender : Sender) (token : BitVec 16)
  /-- CARTWAY_PACKET_ARRIVAL (R176): A cartway packet arrives at a node and moves on or is delivered. -/
  | cartwayPacketArrival (node : BitVec 16) (header : BitVec 256) (payload : List (BitVec 256)) (corr bad : Fin 10)
  /-- CARTWAY_TIMEOUT (R179): A cartway request unanswered for 2^TLOG2 CWY cycles is treated as failed and counted. -/
  | cartwayTimeout (unit : Fin 16896) (gen : Fin 4) (req : Nat)
  /-- LOAD (R190): Seeder command checking a sheaf and writing it into the plot's shadow slots, optionally arming it. -/
  | load (core : Fin 64)
  /-- SHADOW_LOAD_COMPLETE (R190): The last word of a shadow configuration lands and the shadow becomes valid. -/
  | shadowLoadComplete (inst : Fin 33792) (ecc : Ecc)
  /-- ARM (R234): Seeder command arming an earlier unarmed LOAD. -/
  | arm (core : Fin 64)
  /-- CLOSE (R197): Seeder command sending a close marker to every bin of a section. -/
  | close (core : Fin 64)
  /-- BIN_SEND_EOS (R197): After a close marker a bin sends end-of-section on each route once its generators are idle. -/
  | binSendEos (unit : Fin 16896)
  /-- TILE_SWITCH (R194): A tile whose switch conditions all hold makes its shadow configuration active. -/
  | tileSwitch (inst : Fin 33792)
  /-- ABORT_DRAIN_COMPLETE (R199): The last unit of an aborted section drains and the task completes with its fault status. -/
  | abortDrainComplete (plot : Fin 16)
  /-- SEED_PLOT_BOUNDS_WRITE (R202): A write to a plot's bounds is refused on overlap, or aborts a task whose tiles it removes. -/
  | seedPlotBoundsWrite (who : Agent) (plot : Fin 16) (value : BitVec 64)
  /-- REMAP_APPLY (R207): Once affected plots are saved the seeder applies SEED_REMAP and restores them. -/
  | remapApply
  /-- REMAP_FORCED (R207): A plot reaching no cheap point within REMAP_WAIT is aborted with REMAP_FORCED. -/
  | remapForced (plot : Fin 16)
  /-- PREEMPT_SAVE (R208): A save request binds to the plot's next cheap-point run. -/
  | preemptSave (who : Agent) (plot : Fin 16) (value : BitVec 64)
  /-- PREEMPT_RESTORE (R212): A restore request checks a save area and writes its ranges back into an idle plot. -/
  | preemptRestore (who : Agent) (plot : Fin 16) (value : BitVec 64)
  /-- PREEMPT_WITHDRAW (R208): A withdraw request cancels a save not yet bound to a held plot. -/
  | preemptWithdraw (who : Agent) (plot : Fin 16) (value : BitVec 64)
  /-- PLOT_HELD_SAVE (R209): With every unit held and no request outstanding the seeder discards shadows and writes the save area. -/
  | plotHeldSave (plot : Fin 16)
  /-- SAVE_COMPLETE (R210): The save area is written, tiles get the idle configuration and the request completes with STATE 6. -/
  | saveComplete (plot : Fin 16)
  /-- RESTORE_COMPLETE (R212): A restore finishes writing ranges and k bank and completes OK. -/
  | restoreComplete (plot : Fin 16)
  /-- PREEMPT_FORCED (R211): The bound run has not ended by DEADLINE, so the task aborts and the save completes with PREEMPT_FORCED. -/
  | preemptForced (plot : Fin 16)
  /-- INTERFERENCE_WINDOW_END (R215): At the end of each window of 2^INTF_WIN frames the PPM fields are computed. -/
  | interferenceWindowEnd
  /-- SEED_LOAD_FAULT_CLEAR (R189): Writing 1 to SEED_LOAD_FAULT.VALID clears the register. -/
  | seedLoadFaultClear (who : Agent)
  /-- ADD (R223): Ramnak-C integer addition. -/
  | add (core : Fin 64) (d a b : Fin 32)
  /-- SUB (R223): Ramnak-C integer subtraction. -/
  | sub (core : Fin 64) (d a b : Fin 32)
  /-- AND (R223): Ramnak-C bitwise AND. -/
  | and (core : Fin 64) (d a b : Fin 32)
  /-- OR (R223): Ramnak-C bitwise OR. -/
  | or (core : Fin 64) (d a b : Fin 32)
  /-- XOR (R223): Ramnak-C bitwise XOR. -/
  | xor (core : Fin 64) (d a b : Fin 32)
  /-- SHL (R223): Ramnak-C shift left by B[5:0]. -/
  | shl (core : Fin 64) (d a b : Fin 32)
  /-- SHR (R223): Ramnak-C logical shift right. -/
  | shr (core : Fin 64) (d a b : Fin 32)
  /-- SAR (R223): Ramnak-C arithmetic shift right. -/
  | sar (core : Fin 64) (d a b : Fin 32)
  /-- SLT (R223): Ramnak-C signed set-less-than. -/
  | slt (core : Fin 64) (d a b : Fin 32)
  /-- SLTU (R223): Ramnak-C unsigned set-less-than. -/
  | sltu (core : Fin 64) (d a b : Fin 32)
  /-- MIN (R223): Ramnak-C signed minimum. -/
  | min (core : Fin 64) (d a b : Fin 32)
  /-- MAX (R223): Ramnak-C signed maximum. -/
  | max (core : Fin 64) (d a b : Fin 32)
  /-- MINU (R223): Ramnak-C unsigned minimum. -/
  | minu (core : Fin 64) (d a b : Fin 32)
  /-- MAXU (R223): Ramnak-C unsigned maximum. -/
  | maxu (core : Fin 64) (d a b : Fin 32)
  /-- MUL (R223): Ramnak-C low 64-bit product. -/
  | mul (core : Fin 64) (d a b : Fin 32)
  /-- MULHU (R223): Ramnak-C high 64 bits of the unsigned product. -/
  | mulhu (core : Fin 64) (d a b : Fin 32)
  /-- MULH (R223): Ramnak-C high 64 bits of the signed product. -/
  | mulh (core : Fin 64) (d a b : Fin 32)
  /-- DIV (R223): Ramnak-C signed division with defined results for zero and overflow. -/
  | div (core : Fin 64) (d a b : Fin 32)
  /-- DIVU (R223): Ramnak-C unsigned division. -/
  | divu (core : Fin 64) (d a b : Fin 32)
  /-- REM (R223): Ramnak-C signed remainder. -/
  | rem (core : Fin 64) (d a b : Fin 32)
  /-- REMU (R223): Ramnak-C unsigned remainder. -/
  | remu (core : Fin 64) (d a b : Fin 32)
  /-- POPC (R223): Ramnak-C population count. -/
  | popc (core : Fin 64) (d a : Fin 32)
  /-- CLZ (R223): Ramnak-C count of leading zeros. -/
  | clz (core : Fin 64) (d a : Fin 32)
  /-- CTZ (R223): Ramnak-C count of trailing zeros. -/
  | ctz (core : Fin 64) (d a : Fin 32)
  /-- FADD (R223): Ramnak-C FP32 addition with RNE. -/
  | fadd (core : Fin 64) (d a b : Fin 32)
  /-- FSUB (R223): Ramnak-C FP32 subtraction with RNE. -/
  | fsub (core : Fin 64) (d a b : Fin 32)
  /-- FMUL (R223): Ramnak-C FP32 multiplication with RNE. -/
  | fmul (core : Fin 64) (d a b : Fin 32)
  /-- FDIV (R223): Ramnak-C FP32 division with RNE. -/
  | fdiv (core : Fin 64) (d a b : Fin 32)
  /-- FMIN (R83): Ramnak-C FP32 minimum. -/
  | fmin (core : Fin 64) (d a b : Fin 32)
  /-- FMAX (R83): Ramnak-C FP32 maximum. -/
  | fmax (core : Fin 64) (d a b : Fin 32)
  /-- FFMA (R223): Ramnak-C FP32 fused multiply-add into D. -/
  | ffma (core : Fin 64) (d a b : Fin 32)
  /-- FSQRT (R223): Ramnak-C correctly rounded FP32 square root. -/
  | fsqrt (core : Fin 64) (d a : Fin 32)
  /-- FEQ (R223): Ramnak-C FP32 equality test. -/
  | feq (core : Fin 64) (d a b : Fin 32)
  /-- FLT (R223): Ramnak-C FP32 less-than test. -/
  | flt (core : Fin 64) (d a b : Fin 32)
  /-- FLE (R223): Ramnak-C FP32 less-or-equal test. -/
  | fle (core : Fin 64) (d a b : Fin 32)
  /-- FCVTSL (R223): Ramnak-C conversion of a signed 64-bit integer to FP32. -/
  | fcvtsl (core : Fin 64) (d a : Fin 32)
  /-- FCVTLS (R223): Ramnak-C saturating conversion of FP32 to a signed 64-bit integer. -/
  | fcvtls (core : Fin 64) (d a : Fin 32)
  /-- FCVTBS (R223): Ramnak-C conversion of FP32 to BF16. -/
  | fcvtbs (core : Fin 64) (d a : Fin 32)
  /-- FCVTSB (R223): Ramnak-C conversion of BF16 to FP32. -/
  | fcvtsb (core : Fin 64) (d a : Fin 32)
  /-- ADDI (R223): Ramnak-C add immediate. -/
  | addi (core : Fin 64) (d a : Fin 32) (imm : BitVec 16)
  /-- ANDI (R223): Ramnak-C AND with zero-extended immediate. -/
  | andi (core : Fin 64) (d a : Fin 32) (imm : BitVec 16)
  /-- ORI (R223): Ramnak-C OR with zero-extended immediate. -/
  | ori (core : Fin 64) (d a : Fin 32) (imm : BitVec 16)
  /-- XORI (R223): Ramnak-C XOR with zero-extended immediate. -/
  | xori (core : Fin 64) (d a : Fin 32) (imm : BitVec 16)
  /-- SLTI (R223): Ramnak-C signed set-less-than immediate. -/
  | slti (core : Fin 64) (d a : Fin 32) (imm : BitVec 16)
  /-- SLTIU (R223): Ramnak-C unsigned set-less-than immediate. -/
  | sltiu (core : Fin 64) (d a : Fin 32) (imm : BitVec 16)
  /-- SHLI (R223): Ramnak-C shift left by immediate. -/
  | shli (core : Fin 64) (d a : Fin 32) (sh : Fin 64)
  /-- SHRI (R223): Ramnak-C logical shift right by immediate. -/
  | shri (core : Fin 64) (d a : Fin 32) (sh : Fin 64)
  /-- SARI (R223): Ramnak-C arithmetic shift right by immediate. -/
  | sari (core : Fin 64) (d a : Fin 32) (sh : Fin 64)
  /-- LIZ (R223): Ramnak-C load of a shifted zero-extended immediate. -/
  | liz (core : Fin 64) (d : Fin 32) (h : Fin 4) (imm : BitVec 16)
  /-- LIK (R223): Ramnak-C insertion of an immediate into one 16-bit field. -/
  | lik (core : Fin 64) (d : Fin 32) (h : Fin 4) (imm : BitVec 16)
  /-- LD1 (R224): Ramnak-C zero-extended 1-byte load. -/
  | ld1 (core : Fin 64) (d a : Fin 32) (imm : BitVec 16) (ecc : Ecc) (rivals : List Rival)
  /-- LD2 (R224): Ramnak-C zero-extended 2-byte load. -/
  | ld2 (core : Fin 64) (d a : Fin 32) (imm : BitVec 16) (ecc : Ecc) (rivals : List Rival)
  /-- LD4 (R224): Ramnak-C zero-extended 4-byte load. -/
  | ld4 (core : Fin 64) (d a : Fin 32) (imm : BitVec 16) (ecc : Ecc) (rivals : List Rival)
  /-- LD8 (R224): Ramnak-C 8-byte load. -/
  | ld8 (core : Fin 64) (d a : Fin 32) (imm : BitVec 16) (ecc : Ecc) (rivals : List Rival)
  /-- LDS1 (R224): Ramnak-C sign-extended 1-byte load. -/
  | lds1 (core : Fin 64) (d a : Fin 32) (imm : BitVec 16) (ecc : Ecc) (rivals : List Rival)
  /-- LDS2 (R224): Ramnak-C sign-extended 2-byte load. -/
  | lds2 (core : Fin 64) (d a : Fin 32) (imm : BitVec 16) (ecc : Ecc) (rivals : List Rival)
  /-- LDS4 (R224): Ramnak-C sign-extended 4-byte load. -/
  | lds4 (core : Fin 64) (d a : Fin 32) (imm : BitVec 16) (ecc : Ecc) (rivals : List Rival)
  /-- ST1 (R225): Ramnak-C 1-byte store. -/
  | st1 (core : Fin 64) (b a : Fin 32) (imm : BitVec 16) (rivals : List Rival)
  /-- ST2 (R225): Ramnak-C 2-byte store. -/
  | st2 (core : Fin 64) (b a : Fin 32) (imm : BitVec 16) (rivals : List Rival)
  /-- ST4 (R225): Ramnak-C 4-byte store. -/
  | st4 (core : Fin 64) (b a : Fin 32) (imm : BitVec 16) (rivals : List Rival)
  /-- ST8 (R225): Ramnak-C 8-byte store. -/
  | st8 (core : Fin 64) (b a : Fin 32) (imm : BitVec 16) (rivals : List Rival)
  /-- XADD (R223): Ramnak-C indivisible fetch-and-add in control SRAM or local memory. -/
  | xadd (core : Fin 64) (d a b : Fin 32) (wide : Bool) (ecc : Ecc) (rivals : List Rival)
  /-- XCAS (R223): Ramnak-C indivisible compare-and-swap. -/
  | xcas (core : Fin 64) (d a b : Fin 32) (wide : Bool) (ecc : Ecc) (rivals : List Rival)
  /-- BEQ (R223): Ramnak-C branch if equal. -/
  | beq (core : Fin 64) (a b : Fin 32) (imm : BitVec 16)
  /-- BNE (R223): Ramnak-C branch if not equal. -/
  | bne (core : Fin 64) (a b : Fin 32) (imm : BitVec 16)
  /-- BLT (R223): Ramnak-C branch if signed less. -/
  | blt (core : Fin 64) (a b : Fin 32) (imm : BitVec 16)
  /-- BGE (R223): Ramnak-C branch if signed greater or equal. -/
  | bge (core : Fin 64) (a b : Fin 32) (imm : BitVec 16)
  /-- BLTU (R223): Ramnak-C branch if unsigned less. -/
  | bltu (core : Fin 64) (a b : Fin 32) (imm : BitVec 16)
  /-- BGEU (R223): Ramnak-C branch if unsigned greater or equal. -/
  | bgeu (core : Fin 64) (a b : Fin 32) (imm : BitVec 16)
  /-- JAL (R223): Ramnak-C jump and link. -/
  | jal (core : Fin 64) (d : Fin 32) (imm : BitVec 21)
  /-- JALR (R223): Ramnak-C register jump and link. -/
  | jalr (core : Fin 64) (d a : Fin 32) (imm : BitVec 16)
  /-- FENCE (R226): Ramnak-C wait until every earlier memory access has completed. -/
  | fence (core : Fin 64)
  /-- WFE (R223): Ramnak-C wait until CC_EVT and CC_EVTMASK share a set bit. -/
  | wfe (core : Fin 64)
  /-- RET (R227): Ramnak-C return from monitor mode to program mode at CC_EPC. -/
  | ret (core : Fin 64)
  /-- MFC (R228): Ramnak-C read of a core control register. -/
  | mfc (core : Fin 64) (d n : Fin 32)
  /-- MTC (R228): Ramnak-C write of a core control register. -/
  | mtc (core : Fin 64) (n a : Fin 32)
  /-- TRAP (R227): Ramnak-C instruction raising a TRAP trap with a code. -/
  | trap (core : Fin 64) (imm : BitVec 16)
  /-- ACMD (R229): Ramnak-C enqueue of one array command, returning its ticket. -/
  | acmd (core : Fin 64) (d a : Fin 32)
  /-- ALIST (R229): Ramnak-C enqueue of a list of array commands. -/
  | alist (core : Fin 64) (d a b : Fin 32)
  /-- AWAIT (R229): Ramnak-C wait for a ticket's completion word. -/
  | await (core : Fin 64) (d a : Fin 32)
  /-- APOLL (R229): Ramnak-C read of a ticket's completion word or zero. -/
  | apoll (core : Fin 64) (d a : Fin 32)
  /-- LOCAL_MEMORY_WINDOW_ACCESS (R218): A PL0 access to a halted core's local memory through the BND window. -/
  | localMemoryWindowAccess (who : Agent) (core : Fin 64) (off : BitVec 17) (acc : WinAcc)
  /-- BND_RUN_START (R221): Writing GO = 1 starts a halted core in monitor mode at PC. -/
  | bndRunStart (who : Agent) (core : Fin 64) (pc : BitVec 17)
  /-- BND_RUN_HALT (R221): Writing GO = 0 halts a running core at the next instruction boundary. -/
  | bndRunHalt (who : Agent) (core : Fin 64)
  /-- CQ_RESUME (R237): Writing 1 to BND_STATUS.CQ_HALT in monitor mode resumes a halted command queue. -/
  | cqResume (core : Fin 64)
  /-- TCMP_REACHED (R227): CC_TIME reaches CC_TCMP, setting CC_EVT[4] and raising WATCHDOG when enabled. -/
  | tcmpReached (core : Fin 64)
  /-- COMMAND_ACCEPT (R232): A command's target accepts it, in order with earlier commands of the core to that target. -/
  | commandAccept (core : Fin 64)
  /-- COMMAND_COMPLETION (R231): A command's completion arrives, becomes readable and sets CC_EVT[0]. -/
  | commandCompletion (core : Fin 64)
  /-- ACCEPT_TIMEOUT (R237): A command not accepted within 2^ACC_TLOG2 HUB cycles completes with ACCEPT_TIMEOUT. -/
  | acceptTimeout (core : Fin 64)
  /-- BCAST (R235): Seeder command writing k entries into the staged bank of every thresher of the plot. -/
  | bcast (core : Fin 64)
  /-- ISSUE (R233): Bin command placing a stream into a generator, or holding it for the armed shadow. -/
  | issue (core : Fin 64)
  /-- STREAM_CANCEL (R123): Bin command advancing a generator's epoch and discarding its descriptors. -/
  | streamCancel (core : Fin 64)
  /-- SIGNAL_TOKEN (R170): SIGNAL command injecting a control token into a logical bin. -/
  | signalToken (core : Fin 64)
  /-- SIGNAL_EVENT (R229): SIGNAL command ORing software bits into another core's CC_EVT. -/
  | signalEvent (core : Fin 64)
  /-- WAIT_TICKET (R232): WAIT command of kind 0 holding later commands until ticket REF completes. -/
  | waitTicket (core : Fin 64)
  /-- WAIT_ALL (R232): WAIT command of kind 1 holding later commands until every earlier one completes. -/
  | waitAll (core : Fin 64)
  /-- WAIT_SIGNALS (R232): WAIT command of kind 2 polling LNK_SIGNALS of a bin until it reaches a count. -/
  | waitSignals (core : Fin 64)
  /-- WAIT_TIMEOUT (R237): A WAIT reaching its timeout completes with WAIT_TIMEOUT and halts the queue. -/
  | waitTimeout (core : Fin 64)
  /-- MATRIX (R238): Seeder command broadcasting KB and MT, re-running a matrix section, issuing its streams and closing it. -/
  | matrix (core : Fin 64)
  /-- COMMIT (R362): Gleaner command committing the model's next step once sieve and riddle results are in. -/
  | commit (core : Fin 64)
  /-- PCIE_LINK_UP (R241): The PCIe link trains to the best common rate and width, degraded when outside the supported set. -/
  | pcieLinkUp (rate : Fin 7) (width : Fin 5)
  /-- PCIE_LINK_DOWN (R261): Loss of the data link applies function reset to every function and blocks host writes. -/
  | pcieLinkDown
  /-- HOT_RESET (R261): A PCIe Hot Reset applies function reset to every function. -/
  | hotReset
  /-- FUNCTION_LEVEL_RESET (R260): An FLR stops the function's queues, cancels its requests and disables its queue pairs. -/
  | functionLevelReset (fn : Fin 128)
  /-- D3HOT_ENTRY (R260): Entry to D3hot acts on the function's queue pairs as a Function Level Reset does. -/
  | d3hotEntry (fn : Fin 128)
  /-- SQ_TAIL (R253): Doorbell write adding submission entries to a queue pair. -/
  | sqTail (fn : Fin 128) (q : Fin 16384) (index : BitVec 16)
  /-- CQ_HEAD (R253): Doorbell write releasing completion entries of a queue pair. -/
  | cqHead (fn : Fin 128) (q : Fin 16384) (index : BitVec 16)
  /-- FETCH_GRANT (R259): The fetch engine grants one eligible queue pair a fetch of up to QWEIGHT+1 entries. -/
  | fetchGrant
  /-- ENTRY_FETCHED (R249): A fetch read returns an entry, which is counted and handed to its consumer. -/
  | entryFetched (q : Fin 16384)
  /-- COMPLETION_WRITE (R257): A finished command's 16-byte completion is written to the CQ after its data. -/
  | completionWrite (q : Fin 16384)
  /-- INTERRUPT_TIMER (R258): The oldest pending completion reaching TIME µs triggers the vector. -/
  | interruptTimer (q : Fin 16384)
  /-- QP_ENABLE (R249): HOP_QP_CTL.ENABLE makes a valid DISABLED queue pair ACTIVE. -/
  | qpEnable (who : Agent) (q : Fin 16384)
  /-- QP_DISABLE (R249): HOP_QP_CTL.DISABLE takes a queue pair to DISABLED once in-flight entries complete. -/
  | qpDisable (who : Agent) (q : Fin 16384)
  /-- QP_OWNER_WRITE (R262): Changing FUNC or CLASS of an active queue pair disables it and detaches its in-flight work. -/
  | qpOwnerWrite (who : Agent) (q : Fin 16384) (value : BitVec 64)
  /-- CPOST (R252): The bound core's write of HOP_QP_CPOST1 posts a command-class completion. -/
  | cpost (who : Agent) (q : Fin 16384) (value : BitVec 64)
  /-- STAGEHEAD_WRITE (R252): The bound core frees staging slots by writing HOP_QP_STAGEHEAD. -/
  | stageheadWrite (who : Agent) (q : Fin 16384) (value : BitVec 64)
  /-- BAR4_ACCESS (R245): A host access through BAR4 reaches the silo after a region ownership check. -/
  | bar4Access (fn : Fin 128) (off : BitVec 36) (acc : WinAcc)
  /-- HOST_MEMORY_READ_RESPONSE (R247): A host-memory read completes or fails; a failure is repeated once before HOSTMEM_FAULT. -/
  | hostMemoryReadResponse (src : HostRead) (good : Bool)
  /-- CREATE_QP (R250): Admin command configuring and enabling a queue pair. -/
  | createQp (q : Fin 16384)
  /-- DELETE_QP (R250): Admin command disabling a queue pair. -/
  | deleteQp (q : Fin 16384)
  /-- SET_MOD (R250): Admin command setting interrupt moderation for the next completion. -/
  | setMod (q : Fin 16384)
  /-- IDENTIFY (R250): Admin command writing owned queue pairs, vectors, BAR sizes and firmware version. -/
  | identify (q : Fin 16384)
  /-- COPY (R250): Bulk command copying bytes between local addresses. -/
  | copy (q : Fin 16384)
  /-- FILL (R250): Bulk command filling a range with an 8-byte pattern. -/
  | fill (q : Fin 16384)
  /-- SEND (R251): Message command delivering a 48-byte payload to the destination's oldest RECV. -/
  | send (q : Fin 16384)
  /-- RECV (R251): Message command posting a buffer to receive a SEND. -/
  | recv (q : Fin 16384)
  /-- MSG_NO_RECEIVER (R251): A SEND waiting 10 ms with no RECV completes with MSG_NO_RECEIVER. -/
  | msgNoReceiver (q : Fin 16384)
  /-- SILO_INTAKE_ACCESS (R266): A silo stack performs a line access passing its intake. -/
  | siloIntakeAccess (addr : BitVec 40) (acc : WinAcc) (first again : List (Fin 36)) (plot : Option (Fin 16)) (rivals : List Rival)
  /-- PATROL_SCRUB_READ (R273): Silo patrol scrub reads a line in an idle channel cycle, poisoning on a lasting error. -/
  | patrolScrubRead (line : Fin 10737418240) (first again : List (Fin 36)) (busy : Bool)
  /-- BANK_REFRESH (R274): A silo bank refresh slot refreshes rows, including targeted refresh of hammered neighbours. -/
  | bankRefresh (bank : Fin 65536)
  /-- ROW_REPAIR_COMPLETE (R275): The repair copy ends and the row is remapped and entered in the fence map. -/
  | rowRepairComplete (row : Fin 671088640)
  /-- PMQ_TAIL_DOORBELL (R277): A SILO_PMQ_DB write with CQH = 0 adds page-mover entries. -/
  | pmqTailDoorbell (who : Agent) (ring : Fin 64) (index : BitVec 16)
  /-- PMQ_HEAD_DOORBELL (R277): A SILO_PMQ_DB write with CQH = 1 releases page-mover completions. -/
  | pmqHeadDoorbell (who : Agent) (ring : Fin 64) (index : BitVec 16)
  /-- PMQ_ENABLE (R589): Setting EN of a ring resets its pointers and clears its error. -/
  | pmqEnable (who : Agent) (ring : Fin 64) (value : BitVec 64)
  /-- PMQ_DISABLE (R589): Clearing EN of a ring stops fetching; fetched entries run to completion under BUSY. -/
  | pmqDisable (who : Agent) (ring : Fin 64) (value : BitVec 64)
  /-- PMQ_ENTRY_FETCH (R278): The front end fetches the next ring entry in order and starts it. -/
  | pmqEntryFetch (ring : Fin 64)
  /-- PM_COPY (R278): Page-mover COPY between non-overlapping ranges. -/
  | pmCopy (ring : Fin 64)
  /-- GATHER (R279): Page-mover gather of listed pages into a contiguous destination. -/
  | gather (ring : Fin 64)
  /-- SCATTER (R279): Page-mover scatter of contiguous pages to listed destinations. -/
  | scatter (ring : Fin 64)
  /-- CONVERT (R281): Page-mover format conversion under RNE or RTZ. -/
  | convert (ring : Fin 64)
  /-- PM_FILL (R278): Page-mover FILL with an 8-byte pattern. -/
  | pmFill (ring : Fin 64)
  /-- DIRTY_GET (R287): Page-mover read of dirty bits into a bitmap, optionally clearing them. -/
  | dirtyGet (ring : Fin 64)
  /-- WRITEBACK (R286): Page-mover copy of dirty pages, clearing each bit as it starts. -/
  | writeback (ring : Fin 64)
  /-- CLOOKUP (R303): Cache lookup pinning a frame for a key, or taking a frame and starting a fill. -/
  | clookup (ring : Fin 64) (rivals : List Rival)
  /-- CUNPIN (R307): Cache unpin of a frame. -/
  | cunpin (ring : Fin 64)
  /-- CINVAL (R306): Cache invalidation marking frames of an object version STALE. -/
  | cinval (ring : Fin 64)
  /-- PM_PIECE_DONE (R280): A base die finishes a 64 KiB piece of page-mover work. -/
  | pmPieceDone (ring : Fin 64) (k piece line : Nat) (first again : List (Fin 36)) (fail : Option (BitVec 16)) (dies : List Nat)
  /-- CACHE_FILL_DONE (R303): A cache fill ends; the frame becomes VALID and waiting lookups complete, or the frame is freed on failure. -/
  | cacheFillDone (k : Nat) (fail : BitVec 16)
  /-- GRANARY_PORT_LOCK (R288): A granary port's lanes lock and it sends HELLO. -/
  | granaryPortLock (port : Fin 4)
  /-- HELLO_RSP (R288): The appliance's HELLO_RSP arrives; the port negotiates version and enters UP or is refused. -/
  | helloRsp (port : Fin 4) (major minor : BitVec 8) (msgCr : BitVec 16) (dataCr : BitVec 32) (id : BitVec 64) (cap : BitVec 32)
  /-- GRANARY_GROUP_RECEIVE (R294): A granary flit group arrives and is checked, acknowledged or NACKed. -/
  | granaryGroupReceive (port : Fin 4) (ctl : List Byte) (data : List (List Byte))
  /-- GRANARY_CONTROL_TIMEOUT (R294): No intact control flit for 100 µs takes the port DOWN. -/
  | granaryControlTimeout (port : Fin 4)
  /-- GRANARY_IDLE_FLIT (R294): An idle port sends a control flit at least every 1 µs. -/
  | granaryIdleFlit (port : Fin 4)
  /-- GRANARY_REQUEST_SEND (R293): A granary port sends RD or WR once it holds a tag and credits. -/
  | granaryRequestSend (port : Fin 4) (who : Fin 4) (raddr : BitVec 56) (units : Fin 16) (data : Option (List Byte)) (plot : Option (Fin 16)) (rivals : List Rival)
  /-- GRANARY_RESPONSE (R295): A granary response returns data or an error status to its requester. -/
  | granaryResponse (port : Fin 4) (tag : Fin 4096) (status : Fin 3) (data : List Byte)
  /-- GRANARY_TIMEOUT (R296): A request without response within TMO is failed and its tag quarantined. -/
  | granaryTimeout (port : Fin 4) (tag : Fin 4096)
  /-- GRANARY_RETRAIN (R294): GRN_PORT_CTL.RETRAIN restarts bring-up of a port. -/
  | granaryRetrain (who : Agent) (port : Fin 4)
  /-- OPEN_PAGE (R310): Winnower inbound page operation: decrypt, decode and write 64 KiB to the silo. -/
  | openPage (ring : Fin 16) (rivals : List Rival)
  /-- SEAL_PAGE (R314): Winnower outbound page operation: encode, encrypt and write a sealed page. -/
  | sealPage (ring : Fin 16) (rivals : List Rival)
  /-- INBOUND_PAGE_VERIFIED (R310): A sealed page has arrived whole, verified and decoded, and its plaintext is written. -/
  | inboundPageVerified (k : Nat) (fail : BitVec 16)
  /-- OUTBOUND_PAGE_DONE (R308): An outbound page has been written to its lower tier. -/
  | outboundPageDone (k : Nat) (fail : BitVec 16)
  /-- SWITCH (R334): Winnower operation loading a new weight set and switching a model to it. -/
  | switch (ring : Fin 16) (base : Option (BitVec 24))
  /-- ADAPTER_LOAD (R338): Winnower operation loading an adapter and binding it at the next step. -/
  | adapterLoad (ring : Fin 16) (base : Option (BitVec 24))
  /-- ADAPTER_UNBIND (R340): Winnower operation removing an adapter binding at the next step. -/
  | adapterUnbind (ring : Fin 16)
  /-- UNLOAD (R337): Winnower operation closing admission and retiring every set of a model. -/
  | unload (ring : Fin 16)
  /-- SHARD_COMPLETE (R329): A shard's pages are written and its digest checked. -/
  | shardComplete (load : Nat) (shard : Nat) (readFailed : Bool)
  /-- SHARD_TIMEOUT (R330): A shard not complete 50 ms after its clock started fails its attempt. -/
  | shardTimeout (load : Nat) (shard : Nat)
  /-- LOAD_COMPLETE (R334): The last shard of a load completes and the pending set is ready to become current. -/
  | loadComplete (load : Nat)
  /-- BROADCAST_SHARD_RECEIVE (R332): A member receives a shard's stored bytes multicast by its reader. -/
  | broadcastShardReceive (load : Nat) (shard : Nat) (bytes : List Byte)
  /-- WIN_RING_DOORBELL (R322): A WIN_Q_DB write adds entries or releases completions of a winnower ring. -/
  | winRingDoorbell (who : Agent) (ring : Fin 16) (value : BitVec 64)
  /-- SUBMIT (R345): Request opcode reading a descriptor and queueing a request. -/
  | submit (q : Fin 16384)
  /-- CANCEL (R373): Request opcode stamping a cancel of a request for resolution at a boundary. -/
  | cancel (q : Fin 16384)
  /-- PREFIX_CREATE (R354): Request opcode running a prefill-only request that becomes a prefix handle. -/
  | prefixCreate (q : Fin 16384)
  /-- PREFIX_RELEASE (R357): Request opcode marking a prefix handle RELEASED. -/
  | prefixRelease (q : Fin 16384)
  /-- PREFIX_PIN (R357): Request opcode pinning or unpinning a prefix handle. -/
  | prefixPin (q : Fin 16384)
  /-- STEP_BOUNDARY (R359): A model's boundary after a commit: releases, cancels, weight changes, admission and the next plan. -/
  | stepBoundary (model : Fin 256)
  /-- IDLE_BOUNDARY (R359): With no step in flight an event runs stages 2 to 6 of a boundary. -/
  | idleBoundary (model : Fin 256)
  /-- QWAIT_EXPIRY (R369): A queued request's QWAIT_MS elapses and it ends with ADMIT_QUEUED_TIMEOUT. -/
  | qwaitExpiry (req : Fin 65536)
  /-- COMMIT_POINT (R364): A step's results become visible together in one HUB cycle. -/
  | commitPoint (model : Fin 256)
  /-- COMMIT_WAIT_EXPIRY (R362): Sieve or riddle results missing COMMIT_WAIT µs after COMMIT end it with STEP_INCOMPLETE. -/
  | commitWaitExpiry (model : Fin 256)
  /-- OUTPUT_WRITE (R347): After a commit the gleaner writes tokens, progress word and completion for each request. -/
  | outputWrite (req : Fin 65536)
  /-- PREFIX_COPY_DONE (R355): The copy of a lent prefix's last block completes, or fails and ends the request. -/
  | prefixCopyDone (req : Fin 65536) (fail : BitVec 16)
  /-- HISTOGRAM_SWAP (R372): Writing SWAP exchanges the histogram banks at the next commit point or within 10 µs when idle. -/
  | histogramSwap (who : Agent) (cls : Fin 16) (value : BitVec 64)
  /-- PLAN_RECEIVED (R366): A member chip receives the leader's plan and applies it to its pages. -/
  | planReceived (model : Fin 256) (step : Nat) (retry : Bool) (segs : List Machine.PlanSeg)
  /-- COMMIT_RECORD_RECEIVED (R366): A member applies the leader's commit or abandon record. -/
  | commitRecordReceived (model : Fin 256) (status : BitVec 16) (recs : List Machine.MemRec)
  /-- STEP_READY_REPORT (R366): The leader receives a member's step-ready report. -/
  | stepReadyReport (model : Fin 256) (ok last : Bool)
  /-- SIV_KICK (R382): The serving core writes SIV_KICK to start a sieve phase. -/
  | sivKick (who : Agent) (model : Fin 256) (value : BitVec 64)
  /-- ROW_CHOICE (R383): A row engine delivers the choice for a logit row. -/
  | rowChoice (model : Fin 256) (row : Nat) (fail : Bool)
  /-- KV_COMPACTION_DONE (R400): The page-mover copies moving accepted tree nodes' KV entries complete. -/
  | kvCompactionDone (model : Fin 256) (fail : Bool)
  /-- SIV_TREE_WRITE (R405): A write to a tree template node is checked and may clear higher nodes. -/
  | sivTreeWrite (who : Agent) (model : Fin 256) (node : Fin 64) (value : BitVec 64)
  /-- ROUTE (R411): Riddle job scoring tokens, exchanging routing records and dispatching accepted rows. -/
  | route (core : Fin 64)
  /-- COMBINE (R424): Riddle job returning expert output rows to their tokens' chips. -/
  | combine (core : Fin 64)
  /-- ROUTING_RECORDS_RECEIVED (R414): Every member's header and records have arrived and the job continues. -/
  | routingRecordsReceived (ctx : Fin 16)
  /-- DISPATCH_HEADER_ARRIVAL (R419): A member's dispatch header announcing its row count arrives. -/
  | dispatchHeaderArrival (ctx : Fin 16)
  /-- DISPATCH_ROW_ARRIVAL (R418): A dispatched activation row lands in its expert's input buffer. -/
  | dispatchRowArrival (ctx : Fin 16)
  /-- ROUTE_COMPLETE (R421): A ROUTE job completes once weights, counts and row acknowledgements are in. -/
  | routeComplete (ctx : Fin 16)
  /-- COMBINE_ROW_ARRIVAL (R424): A combine row lands at its token's slot; the last completes the job. -/
  | combineRowArrival (ctx : Fin 16)
  /-- RIDDLE_MESSAGE_ARRIVAL (R426): A riddle message arrives, is held early, matched to its job or discarded as stale. -/
  | riddleMessageArrival (ctx : Fin 16) (msg : Machine.RdlMsg)
  /-- RDL_PEER_TIMEOUT (R427): A member's header or rows missing TMO µs after acceptance end the job. -/
  | rdlPeerTimeout (ctx : Fin 16)
  /-- PORT_ENABLE (R441): Setting HAY_PORT_CTL.EN takes a disabled port to TRAIN; clearing it to DISABLED. -/
  | portEnable (who : Agent) (port : Fin 24) (on : Bool)
  /-- LIGHT_DETECT (R441): Light on every lane takes a DARK port to TRAIN. -/
  | lightDetect (port : Fin 24)
  /-- LOSS_OF_LIGHT (R441): Loss of light on any lane takes a port to DARK. -/
  | lossOfLight (port : Fin 24)
  /-- LANE_ALIGNMENT (R433): Codeword alignment completes and the port enters IDENT. -/
  | laneAlignment (port : Fin 24)
  /-- TRAIN_TIMEOUT (R587): A port still in TRAIN 200 ms after light reads CAUSE 4. -/
  | trainTimeout (port : Fin 24)
  /-- IDENTITY_FLIT_SEND (R442): In IDENT a port sends its identity record every 10 µs. -/
  | identityFlitSend (port : Fin 24)
  /-- IDENTITY_FLIT_RECEIVE (R442): A peer identity record arrives and the port enters KEYING, HOLD or REFUSED. -/
  | identityFlitReceive (port : Fin 24) (record : List Byte)
  /-- ACCEPT (R443): ACCEPT on a holding port accepts the link as found, swapping a swap pair's tables. -/
  | accept (who : Agent) (port : Fin 24)
  /-- RETRAIN (R441): RETRAIN restarts training of a REFUSED or DOWN port. -/
  | retrain (who : Agent) (port : Fin 24)
  /-- EXPECT_WRITE (R442): Rewriting HAY_PORT_EXPECT takes a holding port back to IDENT. -/
  | expectWrite (who : Agent) (port : Fin 24) (value : BitVec 64)
  /-- KEYING_COMPLETE (R441): Link keys are agreed and the port enters UP, or DOWN on failure. -/
  | keyingComplete (port : Fin 24) (keys : Option (List Byte × List Byte)) (depths : List Nat)
  /-- LINK_FLIT_RECEIVE (R436): A fabric flit arrives and is checked, acknowledged or NAKed. -/
  | linkFlitReceive (port : Fin 24) (flit : List Byte) (corrected : Nat) (lost : Bool)
  /-- CONTROL_FLIT_TIMEOUT (R441): No intact control flit for 100 µs takes an UP port DOWN with cause 7. -/
  | controlFlitTimeout (port : Fin 24)
  /-- CONTROL_FLIT_SEND (R441): An idle UP port sends a control flit at least every 1 µs. -/
  | controlFlitSend (port : Fin 24)
  /-- PACKET_ROUTE (R447): A packet header arriving or originated is routed by its slice's table, delivered or dropped. -/
  | packetRoute (ingress : Option (Fin 24))
  /-- GATEWAY_TAG_TIMEOUT (R451): A remote request tag without response after GTMO is freed. -/
  | gatewayTagTimeout (tag : Fin 4096)
  /-- REDUCE_CONTRIBUTION (R459): A reduction contribution arrives and is combined; the last sends the chunk up or as RESULT. -/
  | reduceContribution (port : Fin 24)
  /-- RESULT_ARRIVAL (R459): A RESULT chunk arriving on UPPORT is forwarded down and written locally. -/
  | resultArrival (port : Fin 24)
  /-- MCAST_SEND (R461): Haywain ring operation multicasting a silo range to a group. -/
  | mcastSend (ring : Fin 16)
  /-- REDUCE (R461): Haywain ring operation performing a tree reduction into the silo. -/
  | reduce (ring : Fin 16)
  /-- REDUCE_TIMEOUT (R462): A REDUCE not complete after RTMO completes with REDUCE_TIMEOUT. -/
  | reduceTimeout (ring : Fin 16)
  /-- HAY_RING_DOORBELL (R461): A HAY_Q_DB write adds entries or releases completions of a haywain ring. -/
  | hayRingDoorbell (who : Agent) (ring : Fin 16) (value : BitVec 64)
  /-- RACKTICK_EDGE (R467): An accepted RACKTICK edge compares the counter with the frame and corrects it. -/
  | racktickEdge (phase : BitVec 16)
  /-- HAY_TIME_FRAME_WRITE (R466): Writing HAY_TIME_FRAME sets the number of the next frame edge. -/
  | hayTimeFrameWrite (who : Agent) (value : BitVec 64)
  /-- REF_LOSS (R470): Loss of REF fails over to the recovered port or enters holdover. -/
  | refLoss (refclk : Bool)
  /-- TICK_LOST (R470): No accepted edge for 3 frames sets TICK_LOST and the counter runs free. -/
  | tickLost
  /-- POWER_SAMPLE (R480): Each 1 µs input-power sample is compared with the effective cap and the throttle adjusts. -/
  | powerSample (watts : BitVec 13) (rise : Fin 4)
  /-- DVFS_TICK (R475): Every 1 ms the power service selects the highest step within the cap and ceiling. -/
  | dvfsTick (dyn oth : BitVec 13)
  /-- STEP_CHANGE_COMPLETE (R474): A clock and voltage step change completes and the throttle is released. -/
  | stepChangeComplete
  /-- PCAP_CHANGE (R482): A PCAP value stable for 1 µs selects a fast cap level. -/
  | pcapChange (level : Fin 8)
  /-- HEARTBEAT (R486): A write to PWR_HB is a heartbeat and ends the orphaned state. -/
  | heartbeat (who : Agent)
  /-- ORPHANED (R486): No heartbeat for 1 s makes the module orphaned and applies the orphan cap. -/
  | orphaned
  /-- INPUT_VOLTAGE_AVERAGE (R487): Each 10 µs input average is judged for sag, sag end and halt thresholds. -/
  | inputVoltageAverage (mv : BitVec 17)
  /-- COOLANT_HOT (R489): Inlet above 45 °C for 1 s raises COOLANT_HOT. -/
  | coolantHot
  /-- COOLANT_FLOW_LOW (R489): Flow below 2.5 L/min for 1 s raises COOLANT_FLOW_LOW. -/
  | coolantFlowLow
  /-- THERMAL_LADDER_EVAL (R490): Every 100 µs the ladder step is re-evaluated from Tj max. -/
  | thermalLadderEval
  /-- THERMTRIP (R492): A trip reading switches off every rail but management and asserts THERMTRIP#. -/
  | thermtrip
  /-- DEEP_IDLE_REQUEST (R494): Writing 2 to PWR_IDLE.REQ while idle enters deep idle. -/
  | deepIdleRequest (who : Agent)
  /-- DEEP_IDLE_EXIT (R495): Writing 0 to PWR_IDLE.REQ, a doorbell or a wake message ends deep idle. -/
  | deepIdleExit (who : Agent)
  /-- DEEP_IDLE_READY (R495): Array, silo and optics are ready within 50 ms of a wake and IDLE reads 0. -/
  | deepIdleReady
  /-- ERROR_RECORD_APPEND (R512): The append point takes one record per HUB cycle into the ring, store or drop. -/
  | errorRecordAppend
  /-- ERROR_INTERRUPT_TIMER (R514): MOD_US after the oldest unsignalled record the chaff sends its vector. -/
  | errorInterruptTimer
  /-- UNIT_SELF_TEST (R503): After a parity fault and drain the chaff runs the thresher's self-test. -/
  | unitSelfTest (unit : Fin 16896)
  /-- SELF_TEST_END (R503): The self-test ends, keeping the unit or fencing it and pending a remap. -/
  | selfTestEnd (unit : Fin 16896) (pass : Bool)
  /-- FENCE_PERSIST (R516): A new or changed fence-map entry is written to the persistent store. -/
  | fencePersist
  /-- FENCE_PENDING_CLEAR (R517): A PL1 write of PENDING_CLEAR schedules a fence entry's removal. -/
  | fencePendingClear (who : Agent) (inst : Fin 65536)
  /-- BIN_SCRUB_READ (R518): Bin patrol scrub reads a granule in an idle bank cycle; an overrun pass is recorded. -/
  | binScrubRead (unit : Fin 16896) (addr : Fin 262144) (ecc : Ecc) (rivals : List BankReq)
  /-- LEDGER_CHECK (R519): A ledger balance is evaluated at its quiescent point. -/
  | ledgerCheck (led : Fin 6) (inst : Fin 65536)
  /-- RING_ENABLE (R511): Setting CHF_RING_CFG.EN moves held records from the store into the ring. -/
  | ringEnable (who : Agent) (value : BitVec 64)
  /-- PROTECTION_TABLE_WRITE (R527): A protection-table write is distributed to every checker holding the entry. -/
  | protectionTableWrite (who : Agent) (addr : BitVec 48) (bytes : Nat) (value : BitVec 64)
  /-- PROTECTION_WRITE_COMPLETE (R528): Every checker has applied the write and its completion fence passes. -/
  | protectionWriteComplete
  /-- HSP_LOCK (R526): Writing 1 to HSP_LOCK.LOCK locks every RWL register. -/
  | hspLock (who : Agent) (value : BitVec 64)
  /-- GET_VERSION (R540): SPDM request for supported versions. -/
  | getVersion (doe : Bool) (req : List Byte)
  /-- GET_CAPABILITIES (R540): SPDM request for capabilities. -/
  | getCapabilities (doe : Bool) (req : List Byte)
  /-- NEGOTIATE_ALGORITHMS (R540): SPDM request negotiating P-256 and SHA-256. -/
  | negotiateAlgorithms (doe : Bool) (req : List Byte)
  /-- GET_DIGESTS (R540): SPDM request for certificate chain digests. -/
  | getDigests (doe : Bool) (req : List Byte)
  /-- GET_CERTIFICATE (R540): SPDM request for the slot 0 certificate chain. -/
  | getCertificate (doe : Bool) (req : List Byte)
  /-- CHALLENGE (R540): SPDM challenge signed by Alias1. -/
  | challenge (doe : Bool) (req : List Byte)
  /-- GET_MEASUREMENTS (R541): SPDM request returning the measurements, computing 8 to 10 on demand. -/
  | getMeasurements (doe : Bool) (req : List Byte)
  /-- SPDM_UNSUPPORTED_REQUEST (R540): KEY_EXCHANGE, PSK or session requests answer ERROR UnsupportedRequest. -/
  | spdmUnsupportedRequest (doe : Bool) (req : List Byte)
  /-- UNWRAP (R545): Key command unwrapping a data key into a slot by ECDH and AES key wrap. -/
  | unwrap (src : KeySrc)
  /-- LOAD_PUB (R545): Key command loading a P-256 public key into a slot. -/
  | loadPub (src : KeySrc)
  /-- CLEAR (R545): Key command emptying a slot. -/
  | clear (src : KeySrc)
  /-- RB_COMMIT (R537): Key command raising an anti-rollback counter to the running image's SVN. -/
  | rbCommit (src : KeySrc)
  /-- DEBUG_CHALLENGE (R548): Reading HSP_DBG_CHAL0 returns a fresh nonce. -/
  | debugChallenge (who : Agent)
  /-- DEBUG_UNLOCK (R549): Writing HSP_DBG_RESP8 checks the signature and sets the debug level, emptying the key store. -/
  | debugUnlock (who : Agent) (value : BitVec 64)
  /-- COLD_RESET (R550): A cold reset returns every register and memory to reset and reruns the power-on sequence. -/
  | coldReset (cause : Fin 4)
  /-- WARM_RESET (R550): A warm reset keeps the silo, fences and RWS fields and reruns steps 3 to 10. -/
  | warmReset (cause : Fin 4)
  /-- INPUT_RISE (R472): The input rising above 35 V turns on VDD_MGMT and starts a cold reset. -/
  | inputRise (slot : Fin 4)
  /-- INPUT_LOSS (R472): The input falling below 35 V stops conversion. -/
  | inputLoss
  /-- MRESET_ASSERT (R551): MRESET# held low for 100 µs holds the chip in cold reset. -/
  | mresetAssert
  /-- MRESET_RELEASE (R551): MRESET# rising starts step 2 of the sequence. -/
  | mresetRelease
  /-- PERST_ASSERT (R553): PERST# asserted is a warm reset, or a Hot Reset with PERST_MODE 1. -/
  | perstAssert
  /-- PERST_RELEASE (R554): PERST# rising sets the anchor A and releases step 3. -/
  | perstRelease
  /-- LOFT_RESET_COLD (R552): LOFT_RESET with COLD and the confirm code starts a cold reset. -/
  | loftResetCold (who : Agent)
  /-- LOFT_RESET_WARM (R552): LOFT_RESET with WARM and the confirm code starts a warm reset. -/
  | loftResetWarm (who : Agent)
  /-- POWER_GOOD (R554): Rails are sequenced up and step 2 ends. -/
  | powerGood
  /-- BOOT_STEP_COMPLETE (R554): A step of the power-on sequence completes and the next begins. -/
  | bootStepComplete (step : Fin 10) (bad : List BootBad)
  /-- READY (R558): Step 10 is reached; admin queues accept and the ready event is sent. -/
  | ready
  /-- BOOT_DEADLINE (R556): Ready not reached by A + 25 s records a FATAL BOOT_FAULT. -/
  | bootDeadline
  /-- INPUT_LOW_TIMEOUT (R557): Input not at 40 V by t0 + 1 s leaves the loft in step 1 with INPUT_LOW. -/
  | inputLowTimeout
  /-- MCTP_CONTROL (R559): MCTP control message, such as endpoint ID assignment by the bus owner. -/
  | mctpControl (code : BitVec 8) (data : List (BitVec 8))
  /-- PLDM_DISCOVERY (R559): PLDM type 0 discovery request. -/
  | pldmDiscovery (code : BitVec 8) (data : List (BitVec 8))
  /-- PLDM_SENSOR_READING (R565): PLDM type 2 request reading a numeric sensor. -/
  | pldmSensorReading (id : BitVec 16)
  /-- POLL_FOR_PLATFORM_EVENT_MESSAGE (R563): PLDM request reading the next queued platform event. -/
  | pollForPlatformEventMessage
  /-- QUERY_DEVICE_IDENTIFIERS (R564): PLDM type 5 request returning the device descriptors. -/
  | queryDeviceIdentifiers
  /-- FIRMWARE_UPDATE_TRANSFER (R564): PLDM type 5 transfer writing an image into the copy that did not boot. -/
  | firmwareUpdateTransfer (typ : Fin 4) (bytes : List (BitVec 8)) (last : Bool)
  /-- ACTIVATE_FIRMWARE (R564): PLDM request activating a checked image at the next warm reset. -/
  | activateFirmware
  /-- KZ_CSR_READ (R561): Kuavazar message reading a CSR. -/
  | kzCsrRead (addr : BitVec 48) (width : Nat)
  /-- KZ_CSR_WRITE (R561): Kuavazar message writing a tray-writable register. -/
  | kzCsrWrite (addr : BitVec 48) (width : Nat) (value : BitVec 64)
  /-- KZ_WAKE (R495): Kuavazar message ending deep idle. -/
  | kzWake
  /-- KZ_LOG_READ (R568): Kuavazar message reading persistent-log records. -/
  | kzLogRead (first : BitVec 64) (count : Nat)
  /-- KZ_HEALTH (R559): Kuavazar message returning the four status words. -/
  | kzHealth
  /-- SMBUS_SCL_TIMEOUT (R560): SCL held low over 25 ms abandons the transaction and releases the bus. -/
  | smbusSclTimeout
  /-- SENSOR_SAMPLE (R565): A sensor is sampled and its calibrated value stored. -/
  | sensorSample (inst : Fin 768) (raw : BitVec 32) (valid : Bool)
  /-- CALIBRATION_WRITE (R566): A write to LOFT_CAL_Ui is clamped and applied at the next sample. -/
  | calibrationWrite (who : Agent) (item : Fin 528) (value : BitVec 32)
  /-- CAL_SAVE (R567): LOFT_CAL_CTL.SAVE writes the user table to the persistent store. -/
  | calSave (who : Agent)
  /-- CAL_REVERT (R567): LOFT_CAL_CTL.REVERT sets every offset to 0. -/
  | calRevert (who : Agent)
  /-- WICKET_ID (R570): Wicket ID command printing identity. -/
  | wicketId
  /-- WICKET_BAUD (R569): Wicket BAUD command changing the UART rate after its OK. -/
  | wicketBaud (rate : Nat)
  /-- WICKET_CHAL (R548): Wicket CHAL command printing the debug nonce. -/
  | wicketChal
  /-- WICKET_UNLOCK (R548): Wicket UNLOCK command performing the debug response exchange. -/
  | wicketUnlock (level : Nat) (sig : List (BitVec 8))
  /-- WICKET_STATUS (R570): Wicket STATUS command printing status words. -/
  | wicketStatus
  /-- WICKET_SENS (R570): Wicket SENS command printing sensor values. -/
  | wicketSens (first count : Nat)
  /-- WICKET_RING (R570): Wicket RING command printing error-ring records. -/
  | wicketRing (first count : Nat)
  /-- WICKET_FMAP (R570): Wicket FMAP command printing fence-map entries. -/
  | wicketFmap (first count : Nat)
  /-- WICKET_LOG (R570): Wicket LOG command printing persistent-log records. -/
  | wicketLog (first count : Nat)
  /-- WICKET_RD (R570): Wicket RD command reading addresses at debug level 2. -/
  | wicketRd (addr : BitVec 64) (width count : Nat)
  /-- WICKET_WR (R571): Wicket WR command writing a value outside the change rule. -/
  | wicketWr (addr : BitVec 64) (width : Nat) (value : BitVec 64)
  /-- WICKET_HALT (R570): Wicket HALT command halting a binder. -/
  | wicketHalt (core : Fin 64)
  /-- WICKET_GO (R570): Wicket GO command starting a binder at a pc. -/
  | wicketGo (core : Fin 64) (pc : BitVec 17)
  /-- WICKET_REGS (R570): Wicket REGS command printing a core's registers. -/
  | wicketRegs (core : Fin 64)
  /-- WICKET_RESET_WARM (R570): Wicket RESET WARM command starting a warm reset. -/
  | wicketResetWarm
  /-- WICKET_RESET_COLD (R570): Wicket RESET COLD command starting a cold reset. -/
  | wicketResetCold
  /-- INPUT_OVERCURRENT (R582): Input current at 125 A opens the electronic fuse within 10 µs. -/
  | inputOvercurrent
  /-- REVERSED_INPUT (R584): An input below -5 V for 1 ms stores a reversal flag reported at the next power-on. -/
  | reversedInput
  /-- PIN_READBACK_CHECK (R581): Every 1 ms output pin levels are compared with their drive; a 10 ms mismatch sets PIN_READBACK. -/
  | pinReadbackCheck (pin : Fin 41) (bad : Bool)
  /-- LASER_INPUT_LOW (R585): A laser input below 60 mW for 10 ms sets LASER_INPUT_LOW and darkens its ports. -/
  | laserInputLow (fibre : Fin 16)
  /-- LIGHT_ON_DATA_FIBRE (R588): Unmodulated light above 20 mW on a data fibre darkens its port with cause 3. -/
  | lightOnDataFibre (lane : Fin 256)
  /-- REF3V3_LIMIT (R583): 3V3_REF in current limit for 10 ms sets REF3V3_LIMIT. -/
  | ref3v3Limit
  /-- ILLEGAL_INSTRUCTION (R222): A core issues a word that fails R222, which raises an ILLEGAL trap with no effect. -/
  | illegalInstruction (core : Fin 64)
  /-- PCIE_COMPLETION_TIMEOUT (R247): A host-memory read receives no completion within the Completion Timeout and is repeated once, then fails with HOSTMEM_FAULT. -/
  | pcieCompletionTimeout (src : HostRead)
  /-- MSIX_VECTOR_UNMASK (R258): The host unmasks an MSI-X vector whose PBA bit is set, and one message is sent. -/
  | msixVectorUnmask (fn : Fin 128) (vector : Fin 1032)
  /-- REF_RETURN (R470): REF returns after a loss, holdover ends and alignment resumes under R467. -/
  | refReturn
  /-- SMB_SDA_STUCK (R583): SMB_SDA held low for more than 25 ms sets MGMT_BUS_STUCK. -/
  | smbSdaStuck
  /-- SCRUB_PASS_BEHIND (R273): A silo patrol-scrub pass falls more than 10 % behind its schedule, setting SCRUB_BEHIND and recording TRANSIENT. -/
  | scrubPassBehind (stack : Fin 8)
  /-- BIN_SCRUB_PASS_OVERRUN (R518): A bin scrub pass not ended 1.1 x BSCRUB_MS after it began appends one TRANSIENT record. -/
  | binScrubPassOverrun (unit : Fin 16896)
deriving DecidableEq, Repr

end Sys2Proof
end

