-- ==== Sys2Proof/Config.lean ====
section
/-!
DEFINITION. What the manual leaves open. Each free value is an opaque constant applied to a counter that the step
advances (State.free), so that nothing can be proved of the value itself.
-/
namespace Sys2Proof

/-- A 64-bit value the manual does not state. -/
opaque Config.freeWord : Nat → BitVec 64

/-- A natural number the manual does not bound. -/
opaque Config.freeNat : Nat → Nat

/-- What t0-t15 of a thresher hold after a section switch until they are written (R64): by unit, switch count and
register x 16 + lane. -/
opaque Config.freeLane : Nat → Nat → Nat → BitVec 32

/-- A free byte, by counter and index: contents the manual calls undefined. -/
opaque Config.freeByte : Nat → Nat → BitVec 8

/-- The bits of an FP6 or FP4 element made from a NaN, which those formats cannot hold (R36, R41): by element format code, rounding
mode and scale byte, so that every unit writes the same bits for the same input (R33). -/
opaque Config.nanElem : Nat → Nat → Nat → Nat

/-- A special function's candidate result (R56), by OP code and operand: the manual bounds the error and does not state the bits; the
same operand always gives the same bits (R63). -/
opaque Config.special : Nat → BitVec 32 → BitVec 32

/-- Window number and generation that a stream's request names at a bin (R143), by local address: a descriptor has a field for
neither (log entry 137). -/
opaque Config.streamWin : Nat → BitVec 3
opaque Config.streamGen : Nat → BitVec 16

/-- exp as the sieve evaluates it on FP32 bits (R385): the manual states no accuracy for it. -/
opaque Config.sieveExp : BitVec 32 → BitVec 32

/-- The chip serial (R539), fused at manufacture. -/
opaque Config.serial : BitVec 64

/-- Fused secrets and hashes (R534, R538, R548): the unique device secret, the hashes of K0, K1 and the debug key, and the
digest of the boot ROM. -/
opaque Config.uds : List (BitVec 8)
opaque Config.k0Hash : List (BitVec 8)
opaque Config.k1Hash : List (BitVec 8)
opaque Config.dbgKeyHash : List (BitVec 8)
opaque Config.romDigest : List (BitVec 8)

/-- The debug key itself, whose hash is DBGKEY (R548). -/
opaque Config.dbgPub : List (BitVec 8)

/-- The certificate chain of R539, whose encoding the manual leaves to X.509 and TCG DICE, from CDI0 and CDI1. -/
opaque Config.certChain : List (BitVec 8) → List (BitVec 8) → List (BitVec 8)

/-- The bytes that measurement 6, 7, 8 or 10 digests (Table 17.5), from its content as numbers: the manual gives no
layout for them. -/
opaque Config.measBytes : Nat → List Nat → List (BitVec 8)

/-- DMTF measurement type of an index (R541). -/
opaque Config.measType : Nat → BitVec 8

/-- Whether a hasp firmware image lists a combination of releases as supported (R535). -/
opaque Config.supported : List (BitVec 8) → List Nat → Bool

/-- The images in the boot flash as the module leaves the factory, by type x 2 + copy: header and body (R533). -/
opaque Config.flash : Nat → Option (List (BitVec 8) × List (BitVec 8))

/-- Factory calibration offset of an item (R566). -/
opaque Config.calFactory : Nat → BitVec 32

end Sys2Proof
end

