-- ==== Sys2Proof/Machine/Bits.lean ====
section
/-!
DEFINITION. Bit fields of words, as the register and descriptor tables name them (chapter 00: field[hi:lo], highest
bit first), sign extension and rounding helpers.
-/
namespace Sys2Proof.Machine
open Sys2Proof

/-- Bits [hi:lo] of a natural number. -/
def nbits (v hi lo : Nat) : Nat := (v / 2 ^ lo) % 2 ^ (hi + 1 - lo)

/-- Bit `n` of a natural number. -/
def nbit (v n : Nat) : Bool := (v / 2 ^ n) % 2 = 1

/-- Field [hi:lo] of a word. -/
def fld {w : Nat} (v : BitVec w) (hi lo : Nat) : Nat := nbits v.toNat hi lo

/-- Single bit [n] of a word. -/
def bit {w : Nat} (v : BitVec w) (n : Nat) : Bool := v.getLsbD n

/-- The word with field [hi:lo] replaced by the low bits of `x`. -/
def setFld {w : Nat} (v : BitVec w) (hi lo x : Nat) : BitVec w :=
  let m : BitVec w := BitVec.ofNat w ((2 ^ (hi + 1 - lo) - 1) * 2 ^ lo)
  (v &&& ~~~m) ||| (BitVec.ofNat w (x % 2 ^ (hi + 1 - lo) * 2 ^ lo))

/-- The word with bit [n] set to `b`. -/
def setBit {w : Nat} (v : BitVec w) (n : Nat) (b : Bool) : BitVec w := setFld v n n b.toNat

/-- Field [hi:lo] read as two's complement. -/
def sfld {w : Nat} (v : BitVec w) (hi lo : Nat) : Int :=
  let x := fld v hi lo
  if x < 2 ^ (hi - lo) then (x : Int) else (x : Int) - (2 : Int) ^ (hi + 1 - lo)

/-- A counter advanced by `n`, modulo its width (R12). -/
def addW {w : Nat} (v : BitVec w) (n : Nat) : BitVec w := v + BitVec.ofNat w n

/-- Integer division rounding up. -/
def ceilDiv (a b : Nat) : Nat := (a + b - 1) / b

/-- `a` rounded up to a multiple of `b`. -/
def roundUp (a b : Nat) : Nat := ceilDiv a b * b

/-- Split a list into consecutive groups of `n`, with fuel. -/
def chunks {α : Type} (n : Nat) : Nat → List α → List (List α)
  | 0, _ => []
  | _ + 1, [] => []
  | f + 1, l => l.take n :: chunks n f (l.drop n)

/-- Replace element `i` of a list (out of range: unchanged). -/
def lset {α : Type} (l : List α) (i : Nat) (x : α) : List α := l.set i x

/-- Element `i` of a list, or the default. -/
def lget {α : Type} (l : List α) (i : Nat) (d : α) : α := (l[i]?).getD d

end Sys2Proof.Machine
end

