-- ==== Sys2Proof/Machine/Float.lean ====
section
/-!
DEFINITION. The number formats and the arithmetic of chapter 02: exact values as sign, natural significand and power
of two, ONE rounding operation for every format and mode (R43 to R49), canonical NaNs (R36), flags (Table 02.7), exact
group sums (R50), microscaled blocks (R38 to R42) and the special functions within the bounds of Table 02.5 (R56).
-/
namespace Sys2Proof.Machine
open Sys2Proof

/-- How a format spends its top exponent code (Table 02.1). -/
inductive FmtKind where
  | ieee    -- infinities and NaNs at exponent all ones
  | e4m3    -- one NaN code, no infinity
  | finite  -- neither: FP6 and FP4 elements
deriving DecidableEq, Repr

/-- A binary floating-point format of Table 02.1. -/
structure Fmt where
  ebits : Nat
  mbits : Nat
  bias : Nat
  kind : FmtKind
deriving DecidableEq, Repr

def Fmt.fp32 : Fmt := ⟨8, 23, 127, .ieee⟩
def Fmt.bf16 : Fmt := ⟨8, 7, 127, .ieee⟩
def Fmt.fp16 : Fmt := ⟨5, 10, 15, .ieee⟩
def Fmt.fe4m3 : Fmt := ⟨4, 3, 7, .e4m3⟩
def Fmt.fe5m2 : Fmt := ⟨5, 2, 15, .ieee⟩
def Fmt.fe3m2 : Fmt := ⟨3, 2, 3, .finite⟩
def Fmt.fe2m3 : Fmt := ⟨2, 3, 1, .finite⟩
def Fmt.fe2m1 : Fmt := ⟨2, 1, 1, .finite⟩

/-- Total width of an element. -/
def Fmt.width (f : Fmt) : Nat := 1 + f.ebits + f.mbits

/-- Encoding of the largest finite magnitude. -/
def Fmt.maxMag (f : Fmt) : Nat :=
  match f.kind with
  | .ieee => (2 ^ f.ebits - 1) * 2 ^ f.mbits - 1
  | .e4m3 => 2 ^ (f.ebits + f.mbits) - 2
  | .finite => 2 ^ (f.ebits + f.mbits) - 1

/-- Encoding of infinity, where the format has one. -/
def Fmt.infMag (f : Fmt) : Nat := (2 ^ f.ebits - 1) * 2 ^ f.mbits

/-- The canonical NaN of a destination format (R36). -/
def Fmt.cnan (f : Fmt) : Nat :=
  match f.kind with
  | .ieee => if f.mbits = 2 then 0x7E else f.infMag + 2 ^ (f.mbits - 1)
  | .e4m3 => 0x7F
  | .finite => 2 ^ (f.ebits + f.mbits) - 1

/-- An element's value: a NaN, an infinity, or (-1)^neg x m x 2^e exactly. -/
inductive FVal where
  | nan
  | inf (neg : Bool)
  | num (neg : Bool) (m : Nat) (e : Int)
deriving DecidableEq, Repr

/-- The value an encoding stands for; subnormals are honoured in every format (R35). -/
def Fmt.decode (f : Fmt) (x : Nat) : FVal :=
  let neg := nbit x (f.ebits + f.mbits)
  let ex := nbits x (f.ebits + f.mbits - 1) f.mbits
  let mant := x % 2 ^ f.mbits
  let emin : Int := 1 - (f.bias : Int) - (f.mbits : Int)
  let top := ex = 2 ^ f.ebits - 1
  if f.kind = .ieee ∧ top then (if mant = 0 then .inf neg else .nan)
  else if f.kind = .e4m3 ∧ top ∧ mant = 2 ^ f.mbits - 1 then .nan
  else if ex = 0 then .num neg mant emin
  else .num neg (mant + 2 ^ f.mbits) (emin + (ex : Int) - 1)

/-- The arithmetic flags, bit order as CU_FLAGS (Table 02.9). -/
abbrev Flags := BitVec 5

def Flags.none : Flags := 0
def Flags.invalid : Flags := 1
def Flags.divzero : Flags := 2
def Flags.overflow : Flags := 4
def Flags.underflow : Flags := 8
def Flags.inexact : Flags := 16

/-- The rounding modes of Table 02.3, DEFAULT already resolved. -/
inductive RMode where
  | rne | rtz | sr
deriving DecidableEq, Repr

/-- Table 02.3: the RM field, with CU_NUMCTL.RM_DEFAULT for code 3. -/
def RMode.ofCode (rm dflt : Nat) : RMode :=
  match (if rm = 3 then dflt else rm) with
  | 0 => .rne
  | 1 => .rtz
  | _ => .sr

/-- What a rounding consults besides the value: mode, FTZ32, FP8_SAT, whether the destination is an MX element
(saturates whatever FP8_SAT says, R41), and the lane's 16-bit draw (R46). -/
structure RCtx where
  mode : RMode
  ftz : Bool
  sat : Bool
  mx : Bool
  draw : Nat
deriving DecidableEq, Repr

def RCtx.rne : RCtx := ⟨.rne, false, true, false, 0⟩

/-- Whether the magnitude `q` (plus something below one unit when `sticky`), cut at `2^sh`, rounds away from zero. -/
def roundsUp (c : RCtx) (q sh : Nat) (sticky : Bool) : Bool :=
  let rem := q % 2 ^ sh
  let odd := (q / 2 ^ sh) % 2 = 1
  match c.mode with
  | .rtz => false
  | .rne => decide (2 * rem > 2 ^ sh) || (decide (2 * rem = 2 ^ sh ∧ 0 < sh) && (sticky || odd))
  | .sr => let f := rem * 2 ^ 16 / 2 ^ sh
           decide (f ≠ 0 ∧ c.draw ≥ 2 ^ 16 - f)

/-- What an infinity becomes in the destination (Table 02.4, column "Infinite input"). -/
def Fmt.ofInf (f : Fmt) (c : RCtx) (neg : Bool) : Nat × Flags :=
  let s := if neg then 2 ^ (f.ebits + f.mbits) else 0
  match f.kind with
  | .finite => (s + f.maxMag, Flags.overflow ||| Flags.inexact)
  | .e4m3 =>
    if c.sat || c.mx then (s + f.maxMag, Flags.overflow ||| Flags.inexact) else (f.cnan, Flags.invalid)
  | .ieee =>
    if (c.sat && decide (f.width = 8)) || c.mx then (s + f.maxMag, Flags.overflow ||| Flags.inexact)
    else (s + f.infMag, Flags.none)

/-- What a finite result beyond the largest finite magnitude becomes (R49, Table 02.4). -/
def Fmt.ofOverflow (f : Fmt) (c : RCtx) (neg : Bool) : Nat × Flags :=
  let s := if neg then 2 ^ (f.ebits + f.mbits) else 0
  let fl := Flags.overflow ||| Flags.inexact
  if c.mx || c.mode = .rtz || (c.sat && decide (f.width = 8)) || decide (f.kind = .finite) then (s + f.maxMag, fl)
  else match f.kind with
    | .e4m3 => (f.cnan, fl ||| Flags.invalid)
    | _ => (s + f.infMag, fl)

/-- THE rounding (R44, R46, R49): the magnitude q x 2^e, plus a nonzero amount below one unit of it when `sticky`,
to the format, once. Tininess is judged after rounding (Table 02.7), and FTZ32 flushes an FP32 subnormal to a zero of
its sign (Table 02.8). -/
def Fmt.round (f : Fmt) (c : RCtx) (neg : Bool) (q : Nat) (e : Int) (sticky : Bool) : Nat × Flags :=
  let s := if neg then 2 ^ (f.ebits + f.mbits) else 0
  if q = 0 then (s, if sticky then Flags.inexact ||| Flags.underflow else Flags.none)
  else
    let lead : Int := (Nat.log2 q : Int) + e
    let emin : Int := 1 - (f.bias : Int)
    let tmin : Int := emin - (f.mbits : Int)
    let tfree : Int := lead - (f.mbits : Int)
    let t : Int := max tfree tmin
    let cut (t : Int) : Nat × Bool × Bool :=
      let sh := (t - e).toNat
      let q' := q * 2 ^ (e - t).toNat
      let up := roundsUp c q' sh sticky
      (q' / 2 ^ sh + up.toNat, decide (q' % 2 ^ sh ≠ 0) || sticky, up)
    let (k, inex, _) := cut t
    let (kf, _, _) := cut tfree
    let tiny := decide (tfree < tmin) && decide (lead < emin) && !(decide (lead + 1 = emin) && decide (kf = 2 ^ (f.mbits + 1)))
    let mag := (t - tmin).toNat * 2 ^ f.mbits + k
    let subn := decide (mag < 2 ^ f.mbits) && decide (mag ≠ 0)
    if c.ftz && decide (f.width = 32) && subn then (s, Flags.underflow ||| Flags.inexact)
    else if mag > f.maxMag then f.ofOverflow c neg
    else
      (s + mag, (if inex then Flags.inexact else Flags.none) ||| (if inex && tiny then Flags.underflow else Flags.none))

/-- Write an exact value in a format: canonical NaN, infinity, or one rounding. -/
def Fmt.ofVal (f : Fmt) (c : RCtx) (v : FVal) : Nat × Flags :=
  match v with
  | .nan => (f.cnan, Flags.none)
  | .inf n => f.ofInf c n
  | .num n m e => f.round c n m e false

/-- Signed significand of two values brought to one exponent. -/
def signedAt (neg : Bool) (m : Nat) (e t : Int) : Int :=
  let x : Int := (m * 2 ^ (e - t).toNat : Nat)
  if neg then -x else x

/-- The exact sum; the second part is invalid for infinity minus infinity. An exact zero sum is negative only when both
addends are (DEDUCED: IEEE 754, which Table 02.1 names for the encodings). -/
def FVal.add : FVal → FVal → FVal × Flags
  | .nan, _ => (.nan, Flags.none)
  | _, .nan => (.nan, Flags.none)
  | .inf a, .inf b => if a = b then (.inf a, Flags.none) else (.nan, Flags.invalid)
  | .inf a, .num _ _ _ => (.inf a, Flags.none)
  | .num _ _ _, .inf b => (.inf b, Flags.none)
  | .num n1 m1 e1, .num n2 m2 e2 =>
    let t := min e1 e2
    let x := signedAt n1 m1 e1 t + signedAt n2 m2 e2 t
    if x = 0 then (.num (n1 && n2) 0 t, Flags.none) else (.num (decide (x < 0)) x.natAbs t, Flags.none)

def FVal.neg : FVal → FVal
  | .nan => .nan
  | .inf a => .inf (!a)
  | .num n m e => .num (!n) m e

/-- The exact product; zero times infinity is invalid. -/
def FVal.mul : FVal → FVal → FVal × Flags
  | .nan, _ => (.nan, Flags.none)
  | _, .nan => (.nan, Flags.none)
  | .inf a, .inf b => (.inf (a != b), Flags.none)
  | .inf a, .num n m _ => if m = 0 then (.nan, Flags.invalid) else (.inf (a != n), Flags.none)
  | .num n m _, .inf b => if m = 0 then (.nan, Flags.invalid) else (.inf (n != b), Flags.none)
  | .num n1 m1 e1, .num n2 m2 e2 => (.num (n1 != n2) (m1 * m2) (e1 + e2), Flags.none)

/-- The value scaled by 2^k. -/
def FVal.scale (k : Int) : FVal → FVal
  | .num n m e => .num n m (e + k)
  | v => v

/-- a x b + c with one exact intermediate (invalid only when no operand is a NaN, Table 02.7). -/
def FVal.fma (a b c : FVal) : FVal × Flags :=
  let (p, f1) := a.mul b
  if c = .nan then (.nan, Flags.none)
  else let (r, f2) := p.add c
       (r, f1 ||| f2)

/-- The exact sum of a list of products and its flags (R50). -/
def FVal.sum (l : List (FVal × Flags)) : FVal × Flags :=
  match l with
  | [] => (.num false 0 0, Flags.none)
  | p :: ps =>
    let anyNan := ps.any (fun x => x.1 = .nan && x.2 = Flags.none) || (p.1 = .nan && p.2 = Flags.none)
    let r := ps.foldl (fun (a : FVal × Flags) x => let y := a.1.add x.1; (y.1, a.2 ||| x.2 ||| y.2)) p
    if anyNan then (.nan, Flags.none) else r

/-- Quotient with enough bits for any rounding here; the last part says the division left a remainder. -/
def divDigits (a b : Nat) (ea eb : Int) : Nat × Int × Bool :=
  let k := 80 + Nat.log2 b
  let n := a * 2 ^ k
  (n / b, ea - eb - (k : Int), decide (n % b ≠ 0))

/-- a / b rounded once; a zero divisor raises divide-by-zero (Table 02.7). -/
def Fmt.divide (f : Fmt) (c : RCtx) (a b : FVal) : Nat × Flags :=
  match a, b with
  | .nan, _ => (f.cnan, Flags.none)
  | _, .nan => (f.cnan, Flags.none)
  | .inf _, .inf _ => (f.cnan, Flags.invalid)
  | .inf x, .num n _ _ => f.ofInf c (x != n)
  | .num n _ _, .inf y => (f.round c (n != y) 0 0 false)
  | .num n1 m1 e1, .num n2 m2 e2 =>
    if m2 = 0 then
      if m1 = 0 then (f.cnan, Flags.invalid)
      else let (r, fl) := f.ofInf c (n1 != n2)
           (r, fl ||| Flags.divzero)
    else
      let (q, e, st) := divDigits m1 m2 e1 e2
      f.round c (n1 != n2) q e (st && decide (m1 ≠ 0))

/-- Integer square root by bisection on bits, structurally over the bit count. -/
def isqrtBits : Nat → Nat → Nat → Nat
  | 0, r, _ => r
  | k + 1, r, n => let r' := r + 2 ^ k
                   isqrtBits k (if r' * r' ≤ n then r' else r) n

def isqrt (n : Nat) : Nat := isqrtBits (Nat.log2 n / 2 + 1) 0 n

/-- Square root rounded once; of a negative nonzero number it is invalid. -/
def Fmt.sqrt (f : Fmt) (c : RCtx) (a : FVal) : Nat × Flags :=
  match a with
  | .nan => (f.cnan, Flags.none)
  | .inf true => (f.cnan, Flags.invalid)
  | .inf false => f.ofInf c false
  | .num n m e =>
    if m = 0 then f.round c n 0 0 false
    else if n then (f.cnan, Flags.invalid)
    else
      let k : Nat := 120
      let (m', e') := if e % 2 = 0 then (m * 2 ^ k, e - (k : Int)) else (m * 2 ^ (k + 1), e - (k : Int) - 1)
      let r := isqrt m'
      f.round c false r (e' / 2) (decide (r * r ≠ m'))

/-- The value of an integer. -/
def FVal.ofInt (x : Int) : FVal := .num (decide (x < 0)) x.natAbs 0

/-- Conversion to a signed integer of `w` bits (R45): the selected rounding, saturation at the limits with invalid,
and 0 with invalid for a NaN. Every saturation is inexact too (Table 02.7). -/
def toIntSat (w : Nat) (c : RCtx) (v : FVal) : Int × Flags :=
  let hi : Int := 2 ^ (w - 1) - 1
  let lo : Int := -(2 ^ (w - 1))
  let satF := Flags.invalid ||| Flags.inexact
  match v with
  | .nan => (0, Flags.invalid)
  | .inf n => (if n then lo else hi, satF)
  | .num n m e =>
    let sh := (-e).toNat
    let q := m * 2 ^ e.toNat
    let k := q / 2 ^ sh + (roundsUp c q sh false).toNat
    let x : Int := if n then -(k : Int) else k
    if x > hi then (hi, satF) else if x < lo then (lo, satF)
    else (x, if q % 2 ^ sh = 0 then Flags.none else Flags.inexact)

/-- Order of two non-NaN values: -1, 0 or 1 (zeros compare equal). -/
def FVal.cmp : FVal → FVal → Option Int
  | .nan, _ => none
  | _, .nan => none
  | .inf a, .inf b => some (if a = b then 0 else if a then -1 else 1)
  | .inf a, .num _ _ _ => some (if a then -1 else 1)
  | .num _ _ _, .inf b => some (if b then 1 else -1)
  | .num n1 m1 e1, .num n2 m2 e2 =>
    let t := min e1 e2
    let x := signedAt n1 m1 e1 t - signedAt n2 m2 e2 t
    some (if x < 0 then -1 else if x = 0 then 0 else 1)

/-- Minimum or maximum with a canonical NaN when either operand is a NaN and -0 below +0 (R83). -/
def FVal.minmax (isMax : Bool) (a b : FVal) : FVal :=
  let neg : FVal → Bool := fun v => match v with | .num n _ _ => n | .inf n => n | .nan => false
  match a.cmp b with
  | none => .nan
  | some 0 => if isMax then (if neg a then b else a) else (if neg a then a else b)
  | some x => if decide (x < 0) != isMax then a else b

/-! ### The lane shift register (R46, R48) -/

/-- One Galois step of a lane's LFSR (R46). -/
def lfsrStep (s : Word32) : Word32 :=
  if s.getLsbD 0 then (s >>> 1) ^^^ 0x80200003#32 else s >>> 1

/-- `n` steps. -/
def lfsrSteps : Nat → Word32 → Word32
  | 0, s => s
  | n + 1, s => lfsrSteps n (lfsrStep s)

/-- A lane's LFSR after loading a seed: the seed XOR lane x 0x01010101, zero replaced by 1 (R48). -/
def lfsrLoad (seed : Word32) (lane : Nat) : Word32 :=
  let v := seed ^^^ BitVec.ofNat 32 (lane * 0x01010101)
  if v = 0 then 1 else v

/-! ### Microscaled blocks (R38 to R42) -/

/-- An MX element format of Table 02.2. -/
inductive MxElem where
  | flt (f : Fmt) (emax : Nat)
  | int8
deriving DecidableEq, Repr

/-- Value of one element under no scale. -/
def MxElem.decode (x : MxElem) (v : Nat) : FVal :=
  match x with
  | .flt f _ => f.decode v
  | .int8 => let n := v % 256
             FVal.scale (-6) (FVal.ofInt (if n < 128 then n else (n : Int) - 256))

def MxElem.emax : MxElem → Nat
  | .flt _ e => e
  | .int8 => 0

/-- Bits of one element. -/
def MxElem.width : MxElem → Nat
  | .flt f _ => f.width
  | .int8 => 8

/-- A block element's value under scale byte `e`: 0xFF makes every element a NaN (R39). -/
def mxValue (x : MxElem) (e v : Nat) : FVal :=
  if e = 0xFF then .nan else FVal.scale ((e : Int) - 127) (x.decode v)

/-- floor(log2) of a value's magnitude, for a nonzero finite value. -/
def FVal.flog2 : FVal → Option Int
  | .num _ m e => if m = 0 then none else some ((Nat.log2 m : Int) + e)
  | _ => none

/-- The block scale (R40, R42). -/
def mxScale (x : MxElem) (l : List FVal) : Nat :=
  if l.any (· = .nan) then 0xFF
  else
    match (l.filterMap FVal.flog2).foldl (fun (a : Option Int) b => some (match a with | none => b | some c => max b c)) none with
    | none => 0
    | some fl => (max (-127) (min 127 (fl - (x.emax : Int))) + 127).toNat

/-- Quantise one input under scale byte `e` (R41, R42): divide by 2^(e-127), round, saturate. -/
def mxQuant (x : MxElem) (c : RCtx) (e : Nat) (v : FVal) : Nat × Flags :=
  let q := FVal.scale (127 - (e : Int)) v
  match x with
  | .flt f _ => f.ofVal { c with mx := true } q
  | .int8 =>
    match q with
    | .nan => (0, Flags.invalid)
    | .inf n => (if n then 0x81 else 0x7F, Flags.overflow ||| Flags.inexact)
    | .num n m k =>
      let (i, fl) := toIntSat 40 c (.num n m (k + 6))
      let i' := max (-127) (min 127 i)
      ((i' % 256).toNat, if i' = i then fl else Flags.overflow ||| Flags.inexact)

def RMode.code : RMode → Nat
  | .rne => 0 | .rtz => 1 | .sr => 2

/-- As `mxQuant`, of a NaN into the element format of a code that has none: the manual gives no value, so a free one is written, the
same for the same input, with the invalid flag. -/
def mxQuantNan (code : Nat) (x : MxElem) (c : RCtx) (e : Nat) (v : FVal) : Nat × Flags :=
  match x, v with
  | .flt f _, .nan =>
    if f.kind = .finite then (Config.nanElem code c.mode.code e % 2 ^ f.width, Flags.invalid) else mxQuant x c e v
  | _, _ => mxQuant x c e v

/-! ### Special functions (R56, Table 02.5)

The table fixes special values and a maximum error, not the bits: the result is a FREE VALUE (`cand`, from
Config) accepted when it lies within the bound of a reference computed to more than 60 bits, else the rounded
reference. -/

/-- The special functions. -/
inductive SFun where
  | exp2 | log2 | rcp | rsqrt | tanh | sigm
deriving DecidableEq, Repr

/-- Fixed point with 96 fraction bits. -/
def fxOne : Nat := 2 ^ 96

/-- ln 2 with 96 fraction bits, from the series sum 1/(k 2^k). -/
def ln2Fx : Nat := (List.range 110).foldl (fun a k => a + fxOne / ((k + 1) * 2 ^ (k + 1))) 0

/-- e^x for 0 <= x < 1 in fixed point: Taylor series, 40 terms. -/
def expFx (x : Nat) : Nat :=
  ((List.range 40).foldl (fun (a : Nat × Nat) k => (a.1 + a.2, a.2 * x / fxOne / (k + 1))) (0, fxOne)).1

/-- 2^f for 0 <= f < 1 in fixed point. -/
def exp2Fx (f : Nat) : Nat := expFx (f * ln2Fx / fxOne)

/-- 2^x for a rational x given as numerator over 2^96: (significand, exponent). -/
def exp2Ref (x : Int) : Nat × Int :=
  let i := x / (fxOne : Int)
  let f := (x % (fxOne : Int)).toNat
  (exp2Fx f, i - 96)

/-- Bits of log2 of m in [1,2) by repeated squaring, structurally over the number of bits. -/
def log2Bits : Nat → Nat → Nat → Nat
  | 0, _, acc => acc
  | n + 1, m, acc =>
    let s := m * m / fxOne
    if s ≥ 2 * fxOne then log2Bits n (s / 2) (2 * acc + 1) else log2Bits n s (2 * acc)

/-- A value m x 2^e as a fixed-point integer with 96 fraction bits, truncated toward minus infinity. -/
def toFx (neg : Bool) (m : Nat) (e : Int) : Int :=
  let sh := e + 96
  let x : Int := if sh ≥ 0 then (m * 2 ^ sh.toNat : Nat) else (m / 2 ^ (-sh).toNat : Nat)
  if neg then -x else x

/-- The reference result of a special function for a finite nonzero argument away from the table's special values:
sign, significand, exponent, and whether it is exact. -/
def sfRef (fn : SFun) (neg : Bool) (m : Nat) (e : Int) : Bool × Nat × Int × Bool :=
  match fn with
  | .exp2 =>
    let x := toFx neg m e
    let (q, k) := exp2Ref x
    (false, q, k, decide (e ≥ 0) || decide (m % 2 ^ (-e).toNat = 0))
  | .log2 =>
    let l := Nat.log2 m
    let frac := log2Bits 90 (m * fxOne / 2 ^ l) 0
    let x : Int := ((l : Int) + e) * 2 ^ 90 + (frac : Int)
    (decide (x < 0), x.natAbs, -90, decide (m = 2 ^ l))
  | .rcp =>
    let (q, k, st) := divDigits 1 m 0 e
    (neg, q, k, !st)
  | .rsqrt =>
    let k : Nat := 200
    let (n, e') := if e % 2 = 0 then (2 ^ k / m, -e - (k : Int)) else (2 ^ (k + 1) / m, -e - (k : Int) - 1)
    let r := isqrt n
    (false, r, e' / 2, decide (r * r * m = (if e % 2 = 0 then 2 ^ k else 2 ^ (k + 1))))
  | .tanh =>
    -- tanh |x| = (1 - t) / (1 + t) with t = e^(-2|x|) = 2^(-2|x| log2 e)
    let a := (toFx false m e).toNat
    let (q, k) := exp2Ref (-((2 * a * fxOne / ln2Fx : Nat) : Int))
    let t := q / 2 ^ (-(k + 96)).toNat
    (neg, (fxOne - t) * fxOne / (fxOne + t), -96, false)
  | .sigm =>
    let a := (toFx false m e).toNat
    let (q, k) := exp2Ref (-((a * fxOne / ln2Fx : Nat) : Int))
    let t := q / 2 ^ (-(k + 96)).toNat
    let r := if neg then t * fxOne / (fxOne + t) else fxOne * fxOne / (fxOne + t)
    (false, r, -96, false)

/-- |a - b| as a dyadic number. -/
def dyDist (a b : FVal) : Nat × Int :=
  match a.add b.neg with
  | (.num _ m e, _) => (m, e)
  | _ => (1, 1000)

/-- m1 x 2^e1 <= m2 x 2^e2. -/
def dyLe (a b : Nat × Int) : Bool :=
  let t := min a.2 b.2
  decide (a.1 * 2 ^ (a.2 - t).toNat ≤ b.1 * 2 ^ (b.2 - t).toNat)

/-- The maximum error allowed for a reference value (Table 02.5), as a dyadic number. -/
def sfBound (fn : SFun) (q : Nat) (e : Int) : Nat × Int :=
  let ulp : Int := max ((Nat.log2 q : Int) + e) (-126) - 23
  match fn with
  | .exp2 => (2, ulp)
  | .log2 => if ulp + 1 < -21 then (1, -21) else (2, ulp)
  | .rcp => (1, ulp)
  | .rsqrt => (2, ulp)
  | .tanh => (1, -14)
  | .sigm => (1, -15)

/-- A special function's FP32 result and flags for one lane (R56): the special values of Table 02.5 exactly, otherwise
the free value `cand` where it meets the table's bound and has the sign of the exact result (the sign is the model's choice, log
entry 14). A result that FP32 cannot hold exactly is inexact, and one beyond its range overflows (Table 02.7). -/
def sfEval (fn : SFun) (ftz : Bool) (cand : Word32) (x : Word32) : Word32 × Flags :=
  let f := Fmt.fp32
  let v := f.decode x.toNat
  let inf (n : Bool) : Word32 := if n then 0xFF800000 else 0x7F800000
  let nan : Word32 := 0x7FC00000
  let one (n : Bool) : Word32 := if n then 0xBF800000 else 0x3F800000
  let zero (n : Bool) : Word32 := if n then 0x80000000 else 0
  let general (neg : Bool) (m : Nat) (e : Int) : Word32 × Flags :=
    let (rn, q, k, exact) := sfRef fn neg m e
    let ref : FVal := .num rn q k
    let c := f.decode cand.toNat
    let ok := match c with
      | .num cn _ _ => dyLe (dyDist c ref) (sfBound fn q k) && (decide (cn = rn) || decide (q = 0))
      | _ => false
    let (rb, rf) := f.round RCtx.rne rn q k (!exact)
    let r : Word32 := if ok then cand else BitVec.ofNat 32 rb
    let small := decide (fld r 30 23 = 0) && decide (fld r 22 0 ≠ 0)
    let ix := rf.getLsbD 4
    if rf.getLsbD 2 then (BitVec.ofNat 32 rb, rf)
    else if small && ftz then (zero rn, Flags.underflow ||| Flags.inexact)
    else (r, (if ix then Flags.inexact else Flags.none) ||| (if ix && decide (fld r 30 23 = 0) then Flags.underflow else Flags.none))
  match v with
  | .nan => (nan, Flags.none)
  | .inf n =>
    match fn with
    | .exp2 => if n then (zero false, Flags.none) else (inf false, Flags.overflow)
    | .log2 => if n then (nan, Flags.invalid) else (inf false, Flags.none)
    | .rcp => (zero n, Flags.none)
    | .rsqrt => if n then (nan, Flags.invalid) else (zero false, Flags.none)
    | .tanh => (one n, Flags.none)
    | .sigm => if n then (zero false, Flags.none) else (one false, Flags.none)
  | .num n m e =>
    if m = 0 then
      match fn with
      | .exp2 => (one false, Flags.none)
      | .log2 => (inf true, Flags.divzero)
      | .rcp => (inf n, Flags.divzero)
      | .rsqrt => (inf n, Flags.divzero)
      | .tanh => (zero n, Flags.none)
      | .sigm => (0x3F000000, Flags.none)
    else
      let ge (k : Nat) : Bool := (FVal.num false m e).cmp (.num false k 0) != some (-1)
      let gt (k : Nat) : Bool := (FVal.num false m e).cmp (.num false k 0) == some 1
      match fn with
      | .exp2 =>
        if !n && ge 128 then (inf false, Flags.overflow ||| Flags.inexact)
        else if n && gt 150 then (zero false, Flags.underflow ||| Flags.inexact)
        else general n m e
      | .log2 => if n then (nan, Flags.invalid) else general n m e
      | .rcp => general n m e
      | .rsqrt => if n then (nan, Flags.invalid) else general n m e
      | .tanh => if ge 9 then (one n, Flags.inexact) else general n m e
      | .sigm =>
        if !n && ge 17 then (one false, Flags.inexact)
        else if n && ge 17 then (zero false, Flags.inexact)
        else general n m e

end Sys2Proof.Machine
end

