-- ==== Sys2Proof/Machine/Lanes.lean ====
section
/-!
DEFINITION. Stage words as data (Table 03.3) and what one lane computes: element formats by code (Table 03.5), packed
groups (R37, R85), pairs of 16-bit values (R79), integer operations, and the reduction trees (R87). Nothing here reads
State.
-/
namespace Sys2Proof.Machine
open Sys2Proof

/-- A decoded stage word (R76). -/
structure SW where
  cls : Nat
  op : Nat
  rm : Nat
  fs : Nat
  fd : Nat
  dst : Nat
  s1 : Nat
  s2 : Nat
  s3 : Nat
  gen : Bool
  gidx : Nat
  gneg : Bool
  tail : Bool
  pdw : Bool
  pd : Nat
  psel : Nat
  fwd : Bool
  keep : Nat
  imm : Nat
  rep : Nat
  loop : Nat
  target : Nat
deriving DecidableEq, Repr

/-- The fields of a 128-bit stage word (Table 03.3). -/
def SW.decode (w : Nat) : SW where
  cls := nbits w 127 124
  op := nbits w 123 120
  rm := nbits w 119 118
  fs := nbits w 117 114
  fd := nbits w 113 110
  dst := nbits w 109 103
  s1 := nbits w 102 96
  s2 := nbits w 95 89
  s3 := nbits w 88 82
  gen := nbit w 81
  gidx := nbits w 80 78
  gneg := nbit w 77
  tail := nbit w 76
  pdw := nbit w 75
  pd := nbits w 74 72
  psel := nbits w 71 69
  fwd := nbit w 68
  keep := nbits w 67 64
  imm := nbits w 63 32
  rep := nbits w 31 20
  loop := nbits w 19 18
  target := nbits w 17 15

/-- How many of SRC1 to SRC3 an operation reads (Table 03.6). -/
def SW.nsrc (w : SW) : Nat :=
  match w.cls, w.op with
  | 0, 1 => 1 | 0, 2 => 1 | 0, 3 => 1 | 0, 5 => 1
  | 1, 3 => 3 | 1, 6 => 1 | 1, 7 => 1 | 1, _ => 2
  | 2, _ => 2
  | 3, 2 => 3 | 3, _ => 2
  | 4, 0 => 1 | 4, _ => 2
  | 5, o => if o ≤ 8 then 2 else 0
  | 6, _ => 1
  | 7, 1 => 2 | 7, 5 => 0 | 7, _ => 1
  | 8, 2 => 1 | 8, 3 => 1
  | _, _ => 0

/-- A dot source names a pair of ports (R85). -/
def dotPorts (c : Nat) : List Nat := if c = 0x14 then [0x14, 0x15] else if c = 0x16 then [0x16, 0x17] else [c]

/-- Operand codes a word reads, in order: those its operation reads, and SRC1 where FWD forwards it (R76). -/
def SW.srcs (w : SW) : List Nat :=
  let l := [w.s1, w.s2, w.s3].take (max w.nsrc w.fwd.toNat)
  if w.cls = 3 then [w.s1, w.s2].flatMap dotPorts ++ l.drop 2 else l

/-- Operand codes a word names in its source fields, read or not: what R66, R73, R77 and R80 look at (log entry 131). -/
def SW.fields (w : SW) : List Nat :=
  if w.cls = 3 then [w.s1, w.s2].flatMap dotPorts ++ [w.s3] else [w.s1, w.s2, w.s3]

/-- The VI port that TAIL takes a lane's validity from: the first among SRC1, SRC2 and SRC3 (R80). -/
def SW.tailPort (w : SW) : Option Nat := (w.fields.find? fun c => decide (0x14 ≤ c ∧ c ≤ 0x17)).map (· - 0x14)

/-- VI ports an operation reads, without repeats. -/
def SW.vis (w : SW) : List Nat := ((w.srcs.filter fun c => decide (0x14 ≤ c ∧ c ≤ 0x17)).map (· - 0x14)).eraseDups

/-- EXPAND (R94), whose packed source advances by itself. -/
def SW.isExpand (w : SW) : Bool := decide (w.cls = 7 ∧ w.op = 1)

/-- Sources whose heads the issue reads whatever an EXPAND still holds. -/
def SW.reads (w : SW) : List Nat := if w.isExpand then (if w.fwd then [w.s1, w.s2] else [w.s2]) else w.srcs

def SW.readsQi (w : SW) : Bool := w.srcs.contains 0x18
def SW.readsUp (w : SW) : Bool := w.srcs.contains 0x19

/-- Operations that write a predicate only (Table 03.6). -/
def SW.predOnly (w : SW) : Bool := decide ((w.cls = 0 ∧ w.op = 5) ∨ (w.cls = 5 ∧ w.op ≠ 8))

/-- Operations without a destination operand of Table 03.4: NOP, the predicate writers, and those whose DST names an
accumulator to update. -/
def SW.noDst (w : SW) : Bool :=
  w.predOnly || decide ((w.cls = 0 ∧ w.op = 0) ∨ w.cls = 3 ∨ (w.cls = 8 ∧ (w.op = 0 ∨ w.op = 2 ∨ w.op = 3)))

/-! ### Formats -/

/-- Table 03.5: the floating formats by code. -/
def fmtOf : Nat → Option Fmt
  | 0 => some Fmt.fp32 | 1 => some Fmt.bf16 | 2 => some Fmt.fp16 | 3 => some Fmt.fe4m3 | 4 => some Fmt.fe5m2
  | 5 => some Fmt.fe3m2 | 6 => some Fmt.fe2m3 | 7 => some Fmt.fe2m1 | _ => none

/-- Bits of an element by format code. -/
def fmtBits : Nat → Nat
  | 0 => 32 | 1 => 16 | 2 => 16 | 3 => 8 | 4 => 8 | 5 => 6 | 6 => 6 | 7 => 4 | 8 => 32 | 9 => 8 | _ => 4

def isIntFmt (c : Nat) : Bool := decide (8 ≤ c)

/-- MX element by format code (Table 02.2; INT8 denotes MXINT8, R79). -/
def mxOf : Nat → MxElem
  | 3 => .flt Fmt.fe4m3 8 | 4 => .flt Fmt.fe5m2 15 | 5 => .flt Fmt.fe3m2 4 | 6 => .flt Fmt.fe2m3 2
  | 7 => .flt Fmt.fe2m1 2 | _ => .int8

/-- Two's complement value of the low `w` bits. -/
def sint (w v : Nat) : Int :=
  let x := v % 2 ^ w
  if x < 2 ^ (w - 1) then (x : Int) else (x : Int) - (2 : Int) ^ w

/-- The value of an element by format code. -/
def elemVal (code v : Nat) : FVal :=
  match fmtOf code with
  | some f => f.decode (v % 2 ^ f.width)
  | none => FVal.ofInt (sint (fmtBits code) v)

/-- Write a value in the format of a code: rounding, or the saturating integer conversion of R45. -/
def elemOf (c : RCtx) (code : Nat) (v : FVal) : Nat × Flags :=
  match fmtOf code with
  | some f => f.ofVal c v
  | none => let (i, fl) := toIntSat (fmtBits code) c v
            ((i % (2 : Int) ^ fmtBits code).toNat, fl)

/-- Elements of one 64-bit group operand, by width: 16, 8, 4 or 1 (R85). -/
def groupLen (code : Nat) : Nat :=
  match fmtBits code with
  | 4 => 16 | 6 => 8 | 8 => 8 | 16 => 4 | _ => 1

/-- The elements of a 64-bit group, packed per R37 from bit 0 up. -/
def groupElems (code v : Nat) : List Nat :=
  let b := fmtBits code
  (List.range (groupLen code)).map fun k => v / 2 ^ (b * k) % 2 ^ b

/-- The elements two group operands bring together: at unequal rates the faster operand gives the half that `half`
selects (R54, R85). Where that half holds more elements than the slower group has, its lowest ones are taken (the model's choice,
log entry 132). -/
def groupPair (ca cb va vb : Nat) (half : Bool) : List (Nat × Nat) :=
  let n := min (groupLen ca) (groupLen cb)
  let cut (c v : Nat) : List Nat :=
    let l := groupElems c v
    if l.length > n ∧ half then (l.drop (l.length / 2)).take n else l.take n
  (cut ca va).zip (cut cb vb)

/-- The exact sum of a floating group's products (R50). -/
def groupDot (val : Nat → Nat → FVal) (ca cb va vb : Nat) (half : Bool) : FVal × Flags :=
  FVal.sum ((groupPair ca cb va vb half).map fun p => (val ca p.1).mul (val cb p.2))

/-- The integer group sum. -/
def groupDotI (ca cb va vb : Nat) (half : Bool) : Int :=
  (groupPair ca cb va vb half).foldl (fun a p => a + sint (fmtBits ca) p.1 * sint (fmtBits cb) p.2) 0

/-! ### One lane -/

/-- A lane's result: value, predicate, flags, and draws taken. -/
structure LaneRes where
  val : Word32
  pred : Bool
  flags : Flags
  lfsr : Word32
deriving DecidableEq, Repr

/-- Rounding settings of a thresher: mode, FTZ32, FP8_SAT. -/
structure NumSet where
  mode : RMode
  ftz : Bool
  sat : Bool
deriving DecidableEq, Repr

/-- Context for one element, and the lane's LFSR after its draw: under SR it gives its low 16 bits and advances 16
steps, one draw an element even when it rounds exactly (R46). -/
def draw (n : NumSet) (l : Word32) : RCtx × Word32 :=
  match n.mode with
  | .sr => (⟨.sr, n.ftz, n.sat, false, l.toNat % 65536⟩, lfsrSteps 16 l)
  | m => (⟨m, n.ftz, n.sat, false, 0⟩, l)

/-- Apply an operation on one value, or on both halves of a pair in ascending element order (R47, R79). `f` gets the
element's context and the operands' raw elements; its result stands in the low bits of the element's place. -/
def pairwise (pair : Bool) (n : NumSet) (l : Word32) (a b c : Word32)
    (f : RCtx → Nat → Nat → Nat → Nat × Flags) : Word32 × Flags × Word32 :=
  if pair then
    let (c0, l0) := draw n l
    let (x0, f0) := f c0 (a.toNat % 65536) (b.toNat % 65536) (c.toNat % 65536)
    let (c1, l1) := draw n l0
    let (x1, f1) := f c1 (a.toNat / 65536) (b.toNat / 65536) (c.toNat / 65536)
    (BitVec.ofNat 32 (x0 % 65536 + x1 % 65536 * 65536), f0 ||| f1, l1)
  else
    let (c0, l0) := draw n l
    let (x0, f0) := f c0 a.toNat b.toNat c.toNat
    (BitVec.ofNat 32 x0, f0, l0)

/-- The magnitude of a value. -/
def FVal.abs : FVal → FVal
  | .num _ m e => .num false m e
  | .inf _ => .inf false
  | .nan => .nan

/-- A quotient rounded once to a destination format code; integers take the conversion of R45. -/
def quotOf (c : RCtx) (fd : Nat) (x y : FVal) : Nat × Flags :=
  match fmtOf fd with
  | some f => f.divide c x y
  | none =>
    match x, y with
    | .num n1 m1 e1, .num n2 m2 e2 =>
      if m2 = 0 then
        if m1 = 0 then elemOf c fd .nan
        else let (v, f) := elemOf c fd (.inf (n1 != n2))
             (v, f ||| Flags.divzero)
      else
        let (q, e, st) := divDigits m1 m2 e1 e2
        elemOf c fd (.num (n1 != n2) (2 * q + st.toNat) (e - 1))
    | .inf a, .num n _ _ => elemOf c fd (.inf (a != n))
    | .num n _ _, .inf b => elemOf c fd (.num (n != b) 0 0)
    | _, _ => elemOf c fd .nan

/-- Class 1, float arithmetic, on one element: the exact result, rounded once to the destination format (R44). FABS and FNEG are exact
and raise no flag; into another format they round as the rest do, still without flags (log entry 10). -/
def floatOp (op : Nat) (fs : Fmt) (fd : Nat) (c : RCtx) (a b d : Nat) : Nat × Flags :=
  let x := fs.decode a
  let y := fs.decode b
  let z := fs.decode d
  let out (r : FVal × Flags) : Nat × Flags := let (v, f) := elemOf c fd r.1; (v, f ||| r.2)
  let sign (v : FVal) : Nat × Flags := ((elemOf { c with ftz := false } fd v).1, Flags.none)
  match op with
  | 0 => out (x.add y)
  | 1 => out (x.add y.neg)
  | 2 => out (x.mul y)
  | 3 => out (x.fma y z)
  | 4 => elemOf c fd (FVal.minmax false x y)
  | 5 => elemOf c fd (FVal.minmax true x y)
  | 6 => sign x.abs
  | 7 => sign x.neg
  | _ => quotOf c fd x y

/-- Class 1 operations that round and so draw under SR: those of two formats always, the exact ones only into another format. -/
def floatDraws (op : Nat) (other : Bool) : Bool := decide (op ≤ 3 ∨ op = 8) || other

/-- Class 2, INT32 arithmetic: low 32 bits, no flags (R84). -/
def intOp (op : Nat) (a b : Word32) : Word32 :=
  match op with
  | 0 => a + b
  | 1 => a - b
  | 2 => a * b
  | 3 => if a.slt b then a else b
  | 4 => if a.slt b then b else a
  | 5 => a &&& b
  | 6 => a ||| b
  | 7 => a ^^^ b
  | 8 => a <<< (b.toNat % 32)
  | 9 => a >>> (b.toNat % 32)
  | _ => a.sshiftRight (b.toNat % 32)

/-- Class 5 relations; a relation with a NaN is false but FCMPUN (Table 03.6). A 16-bit format compares the element in
the low half (DEDUCED, log entry 9). -/
def cmpOp (op fs : Nat) (a b : Word32) : Bool :=
  let x := elemVal fs a.toNat
  let y := elemVal fs b.toNat
  match op with
  | 0 => decide (x.cmp y = some 0)
  | 1 => decide (x.cmp y = some (-1))
  | 2 => decide (x.cmp y = some (-1) ∨ x.cmp y = some 0)
  | 3 => decide (x.cmp y = none)
  | 4 => decide (a = b)
  | 5 => a.slt b
  | _ => decide (a.toNat < b.toNat)

/-- Convert an element from one format to another with one rounding (CVT). Of a lane that holds a pair of 16-bit values the low one is
converted, and a result narrower than the lane stands in its low bits with zeros above, an integer's too (log entry 133). -/
def cvtOp (fs fd : Nat) (c : RCtx) (a : Word32) : Nat × Flags := elemOf c fd (elemVal fs a.toNat)

/-- The pairwise tree over active lanes: an inactive lane is absent (R87). -/
def treeStep {α : Type} (f : α → α → α) : List (Option α) → List (Option α)
  | a :: b :: l =>
    (match a, b with
      | some x, some y => some (f x y)
      | some x, none => some x
      | none, y => y) :: treeStep f l
  | l => l

def tree16 {α : Type} (f : α → α → α) (l : List (Option α)) : Option α :=
  ((treeStep f (treeStep f (treeStep f (treeStep f l)))).head?).join

/-- What a reduction writes of the one value left: a canonical NaN (R36), and a subnormal flushed where FTZ32 says so (R35). -/
def settle32 (ftz : Bool) (x : Word32) : Word32 × Flags :=
  let (v, f) := Fmt.fp32.ofVal { RCtx.rne with ftz := ftz } (Fmt.fp32.decode x.toNat)
  (BitVec.ofNat 32 v, f)

/-- LSUM: each addition rounded by RNE; +0 over no lane (R87). -/
def laneSum (ftz : Bool) (l : List (Option Word32)) : Word32 × Flags :=
  let add (a b : Word32 × Flags) : Word32 × Flags :=
    let (v, f1) := (Fmt.fp32.decode a.1.toNat).add (Fmt.fp32.decode b.1.toNat)
    let (r, f2) := Fmt.fp32.ofVal { RCtx.rne with ftz := ftz } v
    (BitVec.ofNat 32 r, a.2 ||| b.2 ||| f1 ||| f2)
  match tree16 add (l.map fun o => o.map fun x => (x, Flags.none)) with
  | none => (0, Flags.none)
  | some r => let (v, f) := settle32 ftz r.1; (v, r.2 ||| f)

/-- LMAX over active lanes; minus infinity over no lane (R83, R87). The result is a canonical NaN or the largest value. -/
def laneMax (ftz : Bool) (l : List (Option Word32)) : Word32 × Flags :=
  let mx (a b : Word32) : Word32 :=
    BitVec.ofNat 32 (Fmt.fp32.ofVal RCtx.rne (FVal.minmax true (Fmt.fp32.decode a.toNat) (Fmt.fp32.decode b.toNat))).1
  match tree16 mx l with
  | none => (0xFF800000, Flags.none)
  | some r => settle32 ftz r

/-- Bits of an element at a port width code (Table 03.1) and elements of a beat. -/
def portBits : Nat → Nat
  | 0 => 32 | 1 => 16 | 2 => 8 | 3 => 6 | _ => 4

def portElems : Nat → Nat
  | 0 => 16 | 1 => 32 | 2 => 64 | 3 => 64 | _ => 128

/-- Element `e` of a beat at a width code (R37, R68): the low bits of the lane's value. -/
def beatElem (wc : Nat) (d : BitVec 512) (e : Nat) : Word32 :=
  BitVec.ofNat 32 (d.toNat / 2 ^ (portBits wc * e) % 2 ^ portBits wc)

/-- Pack elements into a beat at a width code. -/
def packBeat (wc : Nat) (l : List Word32) : BitVec 512 :=
  BitVec.ofNat 512 (l.foldr (fun x a => a * 2 ^ portBits wc + x.toNat % 2 ^ portBits wc) 0)

end Sys2Proof.Machine
end

