-- ==== Sys2Proof/Machine/Crypto.lean ====
section
/-!
DEFINITION. The published algorithms the manual names without restating them (PRESUMED from their standards, log entry
40): SHA-256 (FIPS 180-4), HMAC and HKDF, AES-256 with GCM and key wrap (FIPS 197, SP 800-38D, SP 800-38F), P-256
ECDH and ECDSA verification (FIPS 186-5), CRC-32 of IEEE 802.3, and Philox4x32-10.
-/
namespace Sys2Proof.Machine
open Sys2Proof

/-! ### SHA-256, HMAC, HKDF -/

/-- Round constants of SHA-256. -/
def shaK : List Word32 :=
  [0x428a2f98, 0x71374491, 0xb5c0fbcf, 0xe9b5dba5, 0x3956c25b, 0x59f111f1, 0x923f82a4, 0xab1c5ed5] ++
  [0xd807aa98, 0x12835b01, 0x243185be, 0x550c7dc3, 0x72be5d74, 0x80deb1fe, 0x9bdc06a7, 0xc19bf174] ++
  [0xe49b69c1, 0xefbe4786, 0x0fc19dc6, 0x240ca1cc, 0x2de92c6f, 0x4a7484aa, 0x5cb0a9dc, 0x76f988da] ++
  [0x983e5152, 0xa831c66d, 0xb00327c8, 0xbf597fc7, 0xc6e00bf3, 0xd5a79147, 0x06ca6351, 0x14292967] ++
  [0x27b70a85, 0x2e1b2138, 0x4d2c6dfc, 0x53380d13, 0x650a7354, 0x766a0abb, 0x81c2c92e, 0x92722c85] ++
  [0xa2bfe8a1, 0xa81a664b, 0xc24b8b70, 0xc76c51a3, 0xd192e819, 0xd6990624, 0xf40e3585, 0x106aa070] ++
  [0x19a4c116, 0x1e376c08, 0x2748774c, 0x34b0bcb5, 0x391c0cb3, 0x4ed8aa4a, 0x5b9cca4f, 0x682e6ff3] ++
  [0x748f82ee, 0x78a5636f, 0x84c87814, 0x8cc70208, 0x90befffa, 0xa4506ceb, 0xbef9a3f7, 0xc67178f2]

/-- Initial hash of SHA-256. -/
def shaH : List Word32 :=
  [0x6a09e667, 0xbb67ae85, 0x3c6ef372, 0xa54ff53a, 0x510e527f, 0x9b05688c, 0x1f83d9ab, 0x5be0cd19]

def ror32 (x : Word32) (n : Nat) : Word32 := x.rotateRight n

/-- Big-endian number of a byte list, and back. -/
def beNat (l : List Byte) : Nat := l.foldl (fun a b => a * 256 + b.toNat) 0
def beBytes (n v : Nat) : List Byte := (natToBytes n v).reverse

/-- Message padding of SHA-256. -/
def shaPad (m : List Byte) : List Byte :=
  let n := m.length
  m ++ [0x80] ++ List.replicate ((119 - n % 64) % 64) 0 ++ beBytes 8 (8 * n)

/-- The message schedule: sixteen words extended to sixty-four, newest first. -/
def shaSched : Nat → List Word32 → List Word32
  | 0, w => w
  | n + 1, w =>
    let a := lget w 14 0
    let b := lget w 1 0
    let s0 := ror32 a 7 ^^^ ror32 a 18 ^^^ (a >>> 3)
    let s1 := ror32 b 17 ^^^ ror32 b 19 ^^^ (b >>> 10)
    shaSched n ((lget w 15 0 + s0 + lget w 6 0 + s1) :: w)

/-- One round. -/
def shaRound (h : List Word32) (k : Word32) (w : Word32) : List Word32 :=
  match h with
  | [a, b, c, d, e, f, g, x] =>
    let s1 := ror32 e 6 ^^^ ror32 e 11 ^^^ ror32 e 25
    let ch := (e &&& f) ^^^ (~~~e &&& g)
    let t1 := x + s1 + ch + k + w
    let s0 := ror32 a 2 ^^^ ror32 a 13 ^^^ ror32 a 22
    let mj := (a &&& b) ^^^ (a &&& c) ^^^ (b &&& c)
    [t1 + (s0 + mj), a, b, c, d + t1, e, f, g]
  | _ => h

def shaBlock (h : List Word32) (blk : List Byte) : List Word32 :=
  let w0 := (chunks 4 16 blk).map fun q => BitVec.ofNat 32 (beNat q)
  let ws := (shaSched 48 w0.reverse).reverse
  let r := (shaK.zip ws).foldl (fun a p => shaRound a p.1 p.2) h
  List.zipWith (· + ·) h r

/-- SHA-256. -/
def sha256 (m : List Byte) : List Byte :=
  let p := shaPad m
  ((chunks 64 (p.length / 64) p).foldl shaBlock shaH).flatMap fun w => beBytes 4 w.toNat

/-- HMAC-SHA-256. -/
def hmac (key m : List Byte) : List Byte :=
  let k0 := if key.length > 64 then sha256 key else key
  let k := k0 ++ List.replicate (64 - k0.length) 0
  sha256 (k.map (· ^^^ 0x5c) ++ sha256 (k.map (· ^^^ 0x36) ++ m))

/-- HKDF-SHA-256 expand, block by block. -/
def hkdfExpand (prk info : List Byte) : Nat → Nat → List Byte → List Byte
  | 0, _, _ => []
  | n + 1, i, t =>
    let u := hmac prk (t ++ info ++ [BitVec.ofNat 8 i])
    u ++ hkdfExpand prk info n (i + 1) u

def hkdf (salt ikm info : List Byte) (len : Nat) : List Byte :=
  (hkdfExpand (hmac salt ikm) info (ceilDiv len 32) 1 []).take len

/-! ### AES-256 -/

/-- The AES substitution box. -/
def sbox : List Nat :=
  [0x63, 0x7c, 0x77, 0x7b, 0xf2, 0x6b, 0x6f, 0xc5, 0x30, 0x01, 0x67, 0x2b, 0xfe, 0xd7, 0xab, 0x76] ++
  [0xca, 0x82, 0xc9, 0x7d, 0xfa, 0x59, 0x47, 0xf0, 0xad, 0xd4, 0xa2, 0xaf, 0x9c, 0xa4, 0x72, 0xc0] ++
  [0xb7, 0xfd, 0x93, 0x26, 0x36, 0x3f, 0xf7, 0xcc, 0x34, 0xa5, 0xe5, 0xf1, 0x71, 0xd8, 0x31, 0x15] ++
  [0x04, 0xc7, 0x23, 0xc3, 0x18, 0x96, 0x05, 0x9a, 0x07, 0x12, 0x80, 0xe2, 0xeb, 0x27, 0xb2, 0x75] ++
  [0x09, 0x83, 0x2c, 0x1a, 0x1b, 0x6e, 0x5a, 0xa0, 0x52, 0x3b, 0xd6, 0xb3, 0x29, 0xe3, 0x2f, 0x84] ++
  [0x53, 0xd1, 0x00, 0xed, 0x20, 0xfc, 0xb1, 0x5b, 0x6a, 0xcb, 0xbe, 0x39, 0x4a, 0x4c, 0x58, 0xcf] ++
  [0xd0, 0xef, 0xaa, 0xfb, 0x43, 0x4d, 0x33, 0x85, 0x45, 0xf9, 0x02, 0x7f, 0x50, 0x3c, 0x9f, 0xa8] ++
  [0x51, 0xa3, 0x40, 0x8f, 0x92, 0x9d, 0x38, 0xf5, 0xbc, 0xb6, 0xda, 0x21, 0x10, 0xff, 0xf3, 0xd2] ++
  [0xcd, 0x0c, 0x13, 0xec, 0x5f, 0x97, 0x44, 0x17, 0xc4, 0xa7, 0x7e, 0x3d, 0x64, 0x5d, 0x19, 0x73] ++
  [0x60, 0x81, 0x4f, 0xdc, 0x22, 0x2a, 0x90, 0x88, 0x46, 0xee, 0xb8, 0x14, 0xde, 0x5e, 0x0b, 0xdb] ++
  [0xe0, 0x32, 0x3a, 0x0a, 0x49, 0x06, 0x24, 0x5c, 0xc2, 0xd3, 0xac, 0x62, 0x91, 0x95, 0xe4, 0x79] ++
  [0xe7, 0xc8, 0x37, 0x6d, 0x8d, 0xd5, 0x4e, 0xa9, 0x6c, 0x56, 0xf4, 0xea, 0x65, 0x7a, 0xae, 0x08] ++
  [0xba, 0x78, 0x25, 0x2e, 0x1c, 0xa6, 0xb4, 0xc6, 0xe8, 0xdd, 0x74, 0x1f, 0x4b, 0xbd, 0x8b, 0x8a] ++
  [0x70, 0x3e, 0xb5, 0x66, 0x48, 0x03, 0xf6, 0x0e, 0x61, 0x35, 0x57, 0xb9, 0x86, 0xc1, 0x1d, 0x9e] ++
  [0xe1, 0xf8, 0x98, 0x11, 0x69, 0xd9, 0x8e, 0x94, 0x9b, 0x1e, 0x87, 0xe9, 0xce, 0x55, 0x28, 0xdf] ++
  [0x8c, 0xa1, 0x89, 0x0d, 0xbf, 0xe6, 0x42, 0x68, 0x41, 0x99, 0x2d, 0x0f, 0xb0, 0x54, 0xbb, 0x16]

def subByte (b : Byte) : Byte := BitVec.ofNat 8 (lget sbox b.toNat 0)
def invSubByte (b : Byte) : Byte := BitVec.ofNat 8 (sbox.findIdx (· = b.toNat))

def xtime (b : Byte) : Byte := (b <<< 1) ^^^ (if b.getLsbD 7 then 0x1b else 0)

/-- Product in the AES field by a small constant. -/
def gmul (c : Nat) (b : Byte) : Byte :=
  let b2 := xtime b
  let b4 := xtime b2
  (if nbit c 0 then b else 0) ^^^ (if nbit c 1 then b2 else 0) ^^^ (if nbit c 2 then b4 else 0) ^^^ (if nbit c 3 then xtime b4 else 0)

def xorBytes (a b : List Byte) : List Byte := List.zipWith (· ^^^ ·) a b

/-- Key schedule words of AES-256, newest first. -/
def aesExpand : Nat → Nat → List (List Byte) → List (List Byte)
  | 0, _, w => w
  | n + 1, i, w =>
    let t := lget w 0 []
    let u :=
      if i % 8 = 0 then
        let r := (t.drop 1 ++ t.take 1).map subByte
        match r with
        | a :: rest => (a ^^^ BitVec.ofNat 8 (2 ^ (i / 8 - 1))) :: rest
        | [] => []
      else if i % 8 = 4 then t.map subByte else t
    aesExpand n (i + 1) (xorBytes (lget w 7 []) u :: w)

/-- Fifteen round keys. -/
def aesKeys (key : List Byte) : List (List Byte) :=
  let ws := (aesExpand 52 8 (chunks 4 8 key).reverse).reverse
  (chunks 4 15 ws).map List.flatten

/-- Byte permutation of ShiftRows and its inverse on column-major state. -/
def shiftRows (b : List Byte) : List Byte := (List.range 16).map fun i => lget b ((i + 4 * (i % 4)) % 16) 0
def invShiftRows (b : List Byte) : List Byte := (List.range 16).map fun i => lget b ((i + 16 - 4 * (i % 4)) % 16) 0

def mixWith (c : List Nat) (b : List Byte) : List Byte :=
  (List.range 16).map fun i =>
    let col := (b.drop (i / 4 * 4)).take 4
    (List.range 4).foldl (fun a k => a ^^^ gmul (lget c ((k + 4 - i % 4) % 4) 0) (lget col k 0)) 0

def aesEnc (ks : List (List Byte)) (b : List Byte) : List Byte :=
  let s0 := xorBytes b (lget ks 0 [])
  let s1 := ((ks.drop 1).take 13).foldl (fun a k => xorBytes (mixWith [2, 3, 1, 1] (shiftRows (a.map subByte))) k) s0
  xorBytes (shiftRows (s1.map subByte)) (lget ks 14 [])

def aesDec (ks : List (List Byte)) (b : List Byte) : List Byte :=
  let s0 := (invShiftRows (xorBytes b (lget ks 14 []))).map invSubByte
  let s1 := ((ks.drop 1).take 13).reverse.foldl (fun a k => (invShiftRows (mixWith [14, 11, 13, 9] (xorBytes a k))).map invSubByte) s0
  xorBytes s1 (lget ks 0 [])

/-! ### GCM and key wrap -/

/-- Product in GF(2^128) in the bit order of GCM. -/
def ghMul (x y : BitVec 128) : BitVec 128 :=
  ((List.range 128).foldl (fun (p : BitVec 128 × BitVec 128) i =>
    let z := if x.getLsbD (127 - i) then p.1 ^^^ p.2 else p.1
    let v := (p.2 >>> 1) ^^^ (if p.2.getLsbD 0 then BitVec.ofNat 128 (0xE1 * 2 ^ 120) else 0)
    (z, v)) (0, y)).1

def toB128 (l : List Byte) : BitVec 128 := BitVec.ofNat 128 (beNat (l ++ List.replicate (16 - l.length) 0))

def ghash (h : BitVec 128) (data : List Byte) : BitVec 128 :=
  (chunks 16 (ceilDiv data.length 16) data).foldl (fun a b => ghMul (a ^^^ toB128 b) h) 0

/-- CTR keystream applied from counter `c`. -/
def ctrXor (ks : List (List Byte)) (iv : List Byte) (c : Nat) (data : List Byte) : List Byte :=
  (((chunks 16 (ceilDiv data.length 16) data).zipIdx).map fun p =>
    xorBytes p.1 (aesEnc ks (iv ++ beBytes 4 (c + p.2)))).flatten

/-- GCM with a 96-bit IV and additional data: ciphertext of the plaintext, and the tag over a ciphertext. -/
def gcmTag (key iv aad ct : List Byte) : List Byte :=
  let ks := aesKeys key
  let h := toB128 (aesEnc ks (List.replicate 16 0))
  let pad := fun (l : List Byte) => l ++ List.replicate ((16 - l.length % 16) % 16) 0
  let y := ghash h (pad aad ++ pad ct ++ beBytes 8 (8 * aad.length) ++ beBytes 8 (8 * ct.length))
  xorBytes (beBytes 16 y.toNat) (aesEnc ks (iv ++ beBytes 4 1))

def gcmCrypt (key iv data : List Byte) : List Byte := ctrXor (aesKeys key) iv 2 data

/-- Key unwrap (KW): the data when the integrity check holds. -/
def kwUnwrap (kek c : List Byte) : Option (List Byte) :=
  let ks := aesKeys kek
  let n := c.length / 8 - 1
  let r0 := (chunks 8 n (c.drop 8))
  let steps := ((List.range (6 * n)).map fun k => 6 * n - k)
  let fin := steps.foldl (fun (p : List Byte × List (List Byte)) t =>
    let i := (t - 1) % n
    let b := aesDec ks (xorBytes p.1 (beBytes 8 t) ++ lget p.2 i [])
    (b.take 8, lset p.2 i (b.drop 8))) (c.take 8, r0)
  if fin.1 = List.replicate 8 0xA6 then some fin.2.flatten else none

/-! ### P-256 -/

def p256p : Nat := 0xffffffff00000001000000000000000000000000ffffffffffffffffffffffff
def p256n : Nat := 0xffffffff00000000ffffffffffffffffbce6faada7179e84f3b9cac2fc632551
def p256b : Nat := 0x5ac635d8aa3a93e7b3ebbd55769886bc651d06b0cc53b0f63bce3c3e27d2604b
def p256g : Nat × Nat :=
  (0x6b17d1f2e12c4247f8bce6e563a440f277037d812deb33a0f4a13945d898c296,
   0x4fe342e2fe1a7f9b8ee7eb4a7c0f9e162bce33576b315ececbb6406837bf51f5)

/-- Power modulo `m` by squaring, low bit first. -/
def powMod (m : Nat) : Nat → Nat → Nat → Nat
  | 0, _, _ => 1 % m
  | f + 1, b, e => (if e % 2 = 1 then b * powMod m f (b * b % m) (e / 2) % m else powMod m f (b * b % m) (e / 2))

def invMod (m a : Nat) : Nat := powMod m 256 (a % m) (m - 2)

def subP (a b : Nat) : Nat := (a + (p256p - b % p256p)) % p256p

/-- Points of P-256; `none` is the point at infinity. -/
abbrev Pt := Option (Nat × Nat)

def ptAdd (a b : Pt) : Pt :=
  match a, b with
  | none, q => q
  | p, none => p
  | some (x1, y1), some (x2, y2) =>
    if x1 = x2 ∧ (y1 + y2) % p256p = 0 then none
    else
      let l := if x1 = x2 then (3 * x1 * x1 + (p256p - 3)) * invMod p256p (2 * y1) % p256p
        else subP y2 y1 * invMod p256p (subP x2 x1) % p256p
      let x3 := subP (subP (l * l % p256p) x1) x2
      some (x3, subP (l * subP x1 x3 % p256p) y1)

def ptMul : Nat → Nat → Pt → Pt
  | 0, _, _ => none
  | f + 1, k, q => if k % 2 = 1 then ptAdd q (ptMul f (k / 2) (ptAdd q q)) else ptMul f (k / 2) (ptAdd q q)

/-- The point of a 64-byte public key X then Y, most significant byte first, if it lies on the curve. -/
def ptOfBytes (l : List Byte) : Pt :=
  let x := beNat (l.take 32)
  let y := beNat ((l.drop 32).take 32)
  if x < p256p ∧ y < p256p ∧ y * y % p256p = (x * x * x + (p256p - 3) * x + p256b) % p256p then some (x, y) else none

def ptBytes (p : Pt) : List Byte :=
  match p with
  | some (x, y) => beBytes 32 x ++ beBytes 32 y
  | none => List.replicate 64 0

/-- ECDSA P-256 verification of a 64-byte signature r then s over a 32-byte digest. -/
def ecdsaVerify (pub digest sig : List Byte) : Bool :=
  let r := beNat (sig.take 32)
  let v := beNat ((sig.drop 32).take 32)
  match ptOfBytes pub with
  | none => false
  | some q =>
    if r = 0 ∨ v = 0 ∨ r ≥ p256n ∨ v ≥ p256n then false
    else
      let w := invMod p256n v
      match ptAdd (ptMul 256 (beNat digest * w % p256n) (some p256g)) (ptMul 256 (r * w % p256n) (some q)) with
      | some (x, _) => decide (x % p256n = r)
      | none => false

/-- X coordinate of the ECDH secret, if the peer's key is a valid point. -/
def ecdh (priv : Nat) (pub : List Byte) : Option (List Byte) :=
  match ptOfBytes pub with
  | none => none
  | some q => (ptMul 256 priv (some q)).map fun z => beBytes 32 z.1

/-- A private key from a 48-byte HKDF output by FIPS 186-5 appendix A.2.1. -/
def keyOfSeed (l : List Byte) : Nat := beNat l % (p256n - 1) + 1

/-! ### CRC-32 and Philox -/

/-- CRC-32 of IEEE 802.3: reflected polynomial, ones preset, final complement. -/
def crcByte (c : Word32) (b : Byte) : Word32 :=
  (List.range 8).foldl (fun x _ => if x.getLsbD 0 then (x >>> 1) ^^^ 0xEDB88320 else x >>> 1) (c ^^^ b.setWidth 32)

def crc32 (l : List Byte) : Word32 := ~~~(l.foldl crcByte 0xFFFFFFFF)

/-- One Philox4x32-10 block. -/
def philoxRound (k : Nat × Nat) (c : List Nat) : List Nat :=
  let p0 := 0xD2511F53 * lget c 0 0
  let p1 := 0xCD9E8D57 * lget c 2 0
  [Nat.xor (Nat.xor (p1 / 2 ^ 32) (lget c 1 0)) k.1, p1 % 2 ^ 32, Nat.xor (Nat.xor (p0 / 2 ^ 32) (lget c 3 0)) k.2, p0 % 2 ^ 32]

def philoxRounds : Nat → Nat × Nat → List Nat → List Nat
  | 0, _, c => c
  | n + 1, k, c => philoxRounds n ((k.1 + 0x9E3779B9) % 2 ^ 32, (k.2 + 0xBB67AE85) % 2 ^ 32) (philoxRound k c)

def philox (k : Nat × Nat) (c : List Nat) : List Nat := philoxRounds 10 k c

end Sys2Proof.Machine
end

