-- ==== Sys2Proof/Machine/Regs.lean ====
section
/-!
DEFINITION. The control and status registers: one constructor per register of the manual's register maps, under the
manual's own name, and for each its place in CSR space (R28, Table 01.8), its instances, its width, its reset value,
the access code of each field (Table 00.3) and the privilege its chapter gives it. An indexed register carries two
index ranges (instance, then word within the instance). Bits no field lists are reserved (R6).
-/
namespace Sys2Proof.Machine
open Sys2Proof

/-- Access codes (Table 00.3). -/
inductive Acc where
  | RW | RO | WO | W1C | W1S | RC | RWL | RWS
deriving DecidableEq, Repr

/-- Who may write a register (Table 17.1 and the level marks of the register maps). -/
inductive PlRule where
  | pl1    -- PL1 or above; PL2 only as R524 lets it
  | pl0    -- PL0 only
  | own    -- the owning function of the queue pair (R244), or PL1
  | core   -- the core bound to the queue pair (R252), or PL0
  | ring   -- the owner of the ring, or PL1
  | fn     -- the function itself, or PL1
  | mcore  -- the model's serving core, or PL1
  | core2  -- a PL1 or PL2 core
deriving DecidableEq, Repr

/-- How a write is carried out: by its access codes, as a protection table (R527), by an operation of its own row, or
not at all because the value is computed from other state. -/
inductive RegKind where
  | plain | prot | row | view
deriving DecidableEq, Repr

/-- One field: bits [hi:lo] and its access code. -/
structure Fld where
  hi : Nat
  lo : Nat
  acc : Acc
deriving DecidableEq, Repr

/-- The registers, in the order of the subsystem index. -/
inductive Reg where
  | CU_BLOCK_ID
  | MU_BLOCK_ID
  | LNK_BLOCK_ID
  | SEED_BLOCK_ID
  | BND_BLOCK_ID
  | HOP_BLOCK_ID
  | SILO_BLOCK_ID
  | GRN_BLOCK_ID
  | WIN_BLOCK_ID
  | GLN_BLOCK_ID
  | RDL_BLOCK_ID
  | HAY_BLOCK_ID
  | PWR_BLOCK_ID
  | CHF_BLOCK_ID
  | HSP_BLOCK_ID
  | LOFT_BLOCK_ID
  | CU_STATUS
  | CU_PORTBIND
  | CU_ISSUE_CYC
  | CU_STALL_IN
  | CU_STALL_OUT
  | CU_NUMCTL
  | CU_FLAGS
  | CU_SR_SEED
  | CU_CHAIN
  | CU_PROG
  | CU_KFILE
  | MU_SLOTCTL
  | MU_SLOTFAULT
  | MU_DISCARD_BYTES
  | MU_FETCH_REQ_BYTES
  | MU_FETCH_LAND_BYTES
  | MU_FETCH_FAIL_BYTES
  | MU_WIN_NACKS
  | MU_SLOT_FILLS
  | MU_SLOT_DRAINS
  | MU_SLOT_CLEARS
  | MU_AG_STATUS
  | MU_CONFLICT
  | MU_AG_STALL_TAG
  | MU_AG_STALL_BANK
  | MU_AG_STALL_CREDIT
  | MU_BUF
  | MU_WIN
  | MU_AG_DESC
  | LNK_STATUS
  | LNK_LASTSIG
  | LNK_OSEL
  | LNK_CRED
  | LNK_JOIN
  | LNK_JOIN_PAIRS
  | LNK_JOIN_DROPS
  | LNK_SIGNALS
  | LNK_CREDIT_STALL
  | LNK_RETRIES
  | LNK_CWY_CTL
  | LNK_CWY_TIMEOUTS
  | SEED_PLOT_STATUS
  | SEED_PLOT_BOUNDS
  | SEED_PLOT_SAVEAREA
  | SEED_PLOT_PREEMPT
  | SEED_PLOT_FLAGS
  | SEED_PLOT_RUNCYC
  | SEED_PLOT_STALL_SILO
  | SEED_PLOT_STALL_CWY
  | SEED_PLOT_STALL_GRN
  | SEED_PLOT_STALL_HAY
  | SEED_PLOT_STALL_WIN
  | SEED_PLOT_CFGWAIT
  | SEED_PLOT_EPOCHS
  | SEED_PLOT_PPM0
  | SEED_PLOT_PPM1
  | SEED_REMAP
  | SEED_CTL
  | SEED_LOAD_FAULT
  | SEED_CFG_RING
  | BND_CTX
  | BND_SRAMWIN
  | BND_RUN
  | BND_STATUS
  | BND_INSNS
  | BND_CYCLES
  | BND_CMDS
  | BND_WAITCYC
  | BND_SRAMSTALL
  | BND_CTL
  | HOP_QP_OWNER
  | HOP_QP_CFG
  | HOP_QP_SQBASE
  | HOP_QP_CQBASE
  | HOP_QP_PTRS
  | HOP_QP_MOD
  | HOP_QP_CTL
  | HOP_QP_STAGEBASE
  | HOP_QP_STAGEHEAD
  | HOP_QP_CPOST0
  | HOP_QP_CPOST1
  | HOP_QP_FETCHED
  | HOP_QP_CPL_WRITTEN
  | HOP_QP_CPL_DISCARD
  | HOP_QP_DBIGNORE
  | HOP_FN_HMBASE
  | HOP_FN_HMSIZE
  | HOP_FN_BAR4
  | HOP_FN_ARB
  | HOP_LINK
  | SILO_STATUS
  | SILO_CE
  | SILO_UE
  | SILO_REPAIRS
  | SILO_RH_TREFS
  | SILO_RD_BYTES
  | SILO_WR_BYTES
  | SILO_SCRUB
  | SILO_PMQ_CFG
  | SILO_PMQ_DB
  | SILO_PMQ_PTRS
  | SILO_PMQ_ERR
  | SILO_CACHE
  | SILO_RGN_A
  | SILO_RGN_B
  | GRN_PORT_STATUS
  | GRN_PORT_ID
  | GRN_PORT_CTL
  | GRN_TAG_ALLOC
  | GRN_TAG_FREE
  | GRN_REPLAYS
  | GRN_CTL
  | GRN_RING
  | GRN_CAP
  | GRN_EXTA
  | GRN_EXTB
  | WIN_CTL
  | WIN_RING
  | WIN_IN_PAGES
  | WIN_IN_OK
  | WIN_IN_FAIL
  | WIN_OUT_PAGES
  | WIN_OUT_OK
  | WIN_OUT_FAIL
  | WIN_OUT_BYTES
  | WIN_AUTH_FAIL
  | WIN_FLC_FAIL
  | WIN_SHARD_REREAD
  | WIN_SHARD_ALT
  | WIN_Q_CFG
  | WIN_Q_DB
  | WIN_Q_PTRS
  | WIN_Q_ERR
  | HAY_Q_CFG
  | HAY_Q_DB
  | HAY_Q_PTRS
  | HAY_Q_ERR
  | WIN_MODEL_A
  | WIN_MODEL_FN0
  | WIN_MODEL_FN1
  | WIN_WS_A
  | WIN_WS_B
  | WIN_AD_A
  | WIN_AD_B
  | GLN_CLS_CFG
  | GLN_CLS_TGT
  | GLN_CLS_STATUS
  | GLN_CLS_HCTL
  | GLN_CLS_ADMITTED
  | GLN_CLS_REJECTED
  | GLN_CLS_QTIMEOUT
  | GLN_CLS_ENDED_OK
  | GLN_CLS_ENDED_CANCELLED
  | GLN_CLS_ENDED_FAILED
  | GLN_CLS_TOKENS
  | GLN_CLS_STALL_PAGES
  | GLN_CLS_H_TTFT
  | GLN_CLS_H_TPOT
  | GLN_CLS_H_QWAIT
  | GLN_CTL
  | GLN_POOL
  | GLN_PTAB
  | GLN_PG_FREE
  | GLN_PG_REQ
  | GLN_PG_PFX
  | GLN_PG_RSV
  | GLN_RQ_ACCEPT
  | GLN_RQ_END
  | SIV_AREA
  | SIV_ROWS
  | SIV_BADROWS
  | SIV_FALLBACKS
  | SIV_DEADENDS
  | SIV_SPEC_PROPOSED
  | SIV_SPEC_ACCEPTED
  | SIV_COMPACT
  | GLN_MODEL_A
  | GLN_MODEL_B
  | GLN_MODEL_C
  | GLN_MODEL_D
  | GLN_MODEL_STEP
  | GLN_MODEL_CNT
  | SIV_MODEL_A
  | SIV_MODEL_B
  | GLN_REQ_A
  | GLN_REQ_B
  | GLN_PFX_A
  | GLN_PFX_B
  | SIV_KICK
  | SIV_TREE
  | RDL_CTX_CFG
  | RDL_CTX_STATUS
  | RDL_LED_ASSIGN
  | RDL_LED_DISP
  | RDL_LED_OVF
  | RDL_LED_RECV
  | RDL_LED_RET
  | RDL_CAPCLAMP
  | RDL_STALE_MSGS
  | RDL_CTL
  | RDL_EXP_ACC
  | RDL_EXP_OVF
  | HAY_PORT_STATUS
  | HAY_PORT_CTL
  | HAY_PORT_EXPECT
  | HAY_PORT_PEERA
  | HAY_PORT_PEERB
  | HAY_PORT_BUF0
  | HAY_PORT_BUF1
  | HAY_PORT_RING
  | HAY_PORT_TXFLITS
  | HAY_PORT_RXFLITS
  | HAY_PORT_FEC_CORR
  | HAY_PORT_CRC_ERR
  | HAY_PORT_REPLAYS
  | HAY_PORT_REFUSED
  | HAY_PORT_NACKS
  | HAY_PORT_TRANSIT
  | HAY_CHIP
  | HAY_CTL
  | HAY_TOPO
  | HAY_CTX
  | HAY_TG
  | HAY_MCG
  | HAY_TIME_CTL
  | HAY_TIME
  | HAY_TIME_STATUS
  | HAY_TIME_FRAME
  | HAY_TIME_BADTICKS
  | HAY_RT
  | PWR_CAP
  | PWR_DVFS
  | PWR_PCAP
  | PWR_THERM
  | PWR_HB
  | PWR_IDLE
  | PWR_STATUS
  | PWR_COOL
  | PWR_VIN
  | PWR_THROTTLE_CYC
  | PWR_ENERGY_MJ
  | PWR_HOLD_US
  | CHF_CTL
  | CHF_RING_CFG
  | CHF_RING_TAIL
  | CHF_RING_HEAD
  | CHF_STATUS
  | CHF_CE_BIN
  | CHF_CE_CFG
  | CHF_CE_CWY
  | CHF_CE_SILO
  | CHF_CE_CSRAM
  | CHF_CE_HUB
  | CHF_TRANSIENT
  | CHF_LASTING
  | CHF_FATAL
  | CHF_LOST_LOW
  | CHF_LOST_HIGH
  | CHF_SLOT_FILLS
  | CHF_SLOT_DRAINS
  | CHF_SLOT_CLEARS
  | CHF_LED_CHECKS
  | CHF_LED_FAILS
  | CHF_FMAP_A
  | CHF_FMAP_B
  | HSP_STATUS
  | HSP_LOCK
  | HSP_KCMD
  | HSP_RBC
  | HSP_PLOT_A
  | HSP_DBG_CHAL
  | HSP_DBG_RESP
  | HSP_KSLOT_A
  | LOFT_ID
  | LOFT_SERIAL
  | LOFT_STATUS
  | LOFT_CTL
  | LOFT_RESET
  | LOFT_CAL_CTL
  | LOFT_EVT_LOST
  | LOFT_MODEVT
  | LOFT_MGMT_PINS
  | LOFT_CAL_F
  | LOFT_CAL_U
  | LOFT_SENS
deriving DecidableEq, Repr

/-- A register's map entry. `sub` is the subsystem index, `off` the offset of its first word in that subsystem's CSR
space, (n1, s1) the instances and their stride, (n2, s2) the words of one instance and their stride, in bytes. -/
structure RegInfo where
  sub : Nat
  off : Nat
  n1 : Nat
  s1 : Nat
  n2 : Nat
  s2 : Nat
  width : Nat
  reset : Nat
  pl : PlRule
  kind : RegKind
  fields : List Fld
deriving DecidableEq, Repr

/-- The register maps of chapters 01 to 19. -/
def Reg.info : Reg → RegInfo
  | .CU_BLOCK_ID => ⟨0, 0xf000000, 1, 0x0, 1, 0x0, 8, 0x420002010000, .pl1, .plain, [⟨47, 32, .RO⟩, ⟨31, 24, .RO⟩, ⟨23, 16, .RO⟩, ⟨7, 0, .RO⟩]⟩
  | .MU_BLOCK_ID => ⟨1, 0xf000000, 1, 0x0, 1, 0x0, 8, 0x420002010001, .pl1, .plain, [⟨47, 32, .RO⟩, ⟨31, 24, .RO⟩, ⟨23, 16, .RO⟩, ⟨7, 0, .RO⟩]⟩
  | .LNK_BLOCK_ID => ⟨2, 0xf000000, 1, 0x0, 1, 0x0, 8, 0x840002010002, .pl1, .plain, [⟨47, 32, .RO⟩, ⟨31, 24, .RO⟩, ⟨23, 16, .RO⟩, ⟨7, 0, .RO⟩]⟩
  | .SEED_BLOCK_ID => ⟨3, 0xf000000, 1, 0x0, 1, 0x0, 8, 0x1002010003, .pl1, .plain, [⟨47, 32, .RO⟩, ⟨31, 24, .RO⟩, ⟨23, 16, .RO⟩, ⟨7, 0, .RO⟩]⟩
  | .BND_BLOCK_ID => ⟨4, 0xf000000, 1, 0x0, 1, 0x0, 8, 0x4002010004, .pl1, .plain, [⟨47, 32, .RO⟩, ⟨31, 24, .RO⟩, ⟨23, 16, .RO⟩, ⟨7, 0, .RO⟩]⟩
  | .HOP_BLOCK_ID => ⟨5, 0xf000000, 1, 0x0, 1, 0x0, 8, 0x400002010005, .pl1, .plain, [⟨47, 32, .RO⟩, ⟨31, 24, .RO⟩, ⟨23, 16, .RO⟩, ⟨7, 0, .RO⟩]⟩
  | .SILO_BLOCK_ID => ⟨6, 0xf000000, 1, 0x0, 1, 0x0, 8, 0x802010006, .pl1, .plain, [⟨47, 32, .RO⟩, ⟨31, 24, .RO⟩, ⟨23, 16, .RO⟩, ⟨7, 0, .RO⟩]⟩
  | .GRN_BLOCK_ID => ⟨7, 0xf000000, 1, 0x0, 1, 0x0, 8, 0x402010007, .pl1, .plain, [⟨47, 32, .RO⟩, ⟨31, 24, .RO⟩, ⟨23, 16, .RO⟩, ⟨7, 0, .RO⟩]⟩
  | .WIN_BLOCK_ID => ⟨8, 0xf000000, 1, 0x0, 1, 0x0, 8, 0x2010008, .pl1, .plain, [⟨47, 32, .RO⟩, ⟨31, 24, .RO⟩, ⟨23, 16, .RO⟩, ⟨7, 0, .RO⟩]⟩
  | .GLN_BLOCK_ID => ⟨9, 0xf000000, 1, 0x0, 1, 0x0, 8, 0x1002010009, .pl1, .plain, [⟨47, 32, .RO⟩, ⟨31, 24, .RO⟩, ⟨23, 16, .RO⟩, ⟨7, 0, .RO⟩]⟩
  | .RDL_BLOCK_ID => ⟨10, 0xf000000, 1, 0x0, 1, 0x0, 8, 0x100201000a, .pl1, .plain, [⟨47, 32, .RO⟩, ⟨31, 24, .RO⟩, ⟨23, 16, .RO⟩, ⟨7, 0, .RO⟩]⟩
  | .HAY_BLOCK_ID => ⟨11, 0xf000000, 1, 0x0, 1, 0x0, 8, 0x180201000b, .pl1, .plain, [⟨47, 32, .RO⟩, ⟨31, 24, .RO⟩, ⟨23, 16, .RO⟩, ⟨7, 0, .RO⟩]⟩
  | .PWR_BLOCK_ID => ⟨12, 0xf000000, 1, 0x0, 1, 0x0, 8, 0x201000c, .pl1, .plain, [⟨47, 32, .RO⟩, ⟨31, 24, .RO⟩, ⟨23, 16, .RO⟩, ⟨7, 0, .RO⟩]⟩
  | .CHF_BLOCK_ID => ⟨13, 0xf000000, 1, 0x0, 1, 0x0, 8, 0x201000d, .pl1, .plain, [⟨47, 32, .RO⟩, ⟨31, 24, .RO⟩, ⟨23, 16, .RO⟩, ⟨7, 0, .RO⟩]⟩
  | .HSP_BLOCK_ID => ⟨14, 0xf000000, 1, 0x0, 1, 0x0, 8, 0x201000e, .pl1, .plain, [⟨47, 32, .RO⟩, ⟨31, 24, .RO⟩, ⟨23, 16, .RO⟩, ⟨7, 0, .RO⟩]⟩
  | .LOFT_BLOCK_ID => ⟨15, 0xf000000, 1, 0x0, 1, 0x0, 8, 0x201000f, .pl1, .plain, [⟨47, 32, .RO⟩, ⟨31, 24, .RO⟩, ⟨23, 16, .RO⟩, ⟨7, 0, .RO⟩]⟩
  | .CU_STATUS => ⟨0, 0x0, 16896, 0x1000, 1, 0x0, 8, 0x0, .pl1, .plain, [⟨47, 32, .RO⟩, ⟨9, 9, .W1C⟩, ⟨5, 4, .RO⟩, ⟨2, 0, .RO⟩]⟩
  | .CU_PORTBIND => ⟨0, 0x8, 16896, 0x1000, 1, 0x0, 8, 0x0, .pl1, .plain, [⟨54, 54, .RO⟩, ⟨53, 52, .RO⟩, ⟨50, 50, .RO⟩, ⟨49, 48, .RO⟩, ⟨45, 40, .RO⟩, ⟨37, 32, .RO⟩, ⟨29, 24, .RO⟩, ⟨21, 16, .RO⟩, ⟨13, 8, .RO⟩, ⟨5, 0, .RO⟩]⟩
  | .CU_ISSUE_CYC => ⟨0, 0x10, 16896, 0x1000, 1, 0x0, 8, 0x0, .pl1, .plain, [⟨63, 0, .RO⟩]⟩
  | .CU_STALL_IN => ⟨0, 0x18, 16896, 0x1000, 1, 0x0, 8, 0x0, .pl1, .plain, [⟨63, 0, .RO⟩]⟩
  | .CU_STALL_OUT => ⟨0, 0x20, 16896, 0x1000, 1, 0x0, 8, 0x0, .pl1, .plain, [⟨63, 0, .RO⟩]⟩
  | .CU_NUMCTL => ⟨0, 0x40, 16896, 0x1000, 1, 0x0, 8, 0x4, .pl1, .plain, [⟨7, 7, .RO⟩, ⟨4, 4, .RO⟩, ⟨2, 2, .RO⟩, ⟨1, 0, .RO⟩]⟩
  | .CU_FLAGS => ⟨0, 0x48, 16896, 0x1000, 1, 0x0, 8, 0x0, .pl1, .plain, [⟨4, 4, .W1C⟩, ⟨3, 3, .W1C⟩, ⟨2, 2, .W1C⟩, ⟨1, 1, .W1C⟩, ⟨0, 0, .W1C⟩]⟩
  | .CU_SR_SEED => ⟨0, 0x50, 16896, 0x1000, 1, 0x0, 8, 0x1, .pl1, .row, [⟨31, 0, .RW⟩]⟩
  | .CU_CHAIN => ⟨0, 0x60, 16896, 0x1000, 4, 0x8, 8, 0x0, .pl1, .plain, [⟨55, 52, .RO⟩, ⟨50, 50, .RO⟩, ⟨49, 34, .RO⟩, ⟨33, 33, .RO⟩, ⟨32, 17, .RO⟩, ⟨16, 16, .RO⟩, ⟨15, 0, .RO⟩]⟩
  | .CU_PROG => ⟨0, 0x200, 16896, 0x1000, 64, 0x8, 8, 0x0, .pl1, .plain, [⟨63, 0, .RO⟩]⟩
  | .CU_KFILE => ⟨0, 0x400, 16896, 0x1000, 64, 0x4, 4, 0x0, .pl1, .view, [⟨31, 0, .RO⟩]⟩
  | .MU_SLOTCTL => ⟨1, 0x10, 16896, 0x1000, 1, 0x0, 8, 0x0, .pl1, .plain, [⟨4, 0, .RO⟩]⟩
  | .MU_SLOTFAULT => ⟨1, 0x18, 16896, 0x1000, 1, 0x0, 8, 0x0, .pl1, .row, [⟨63, 63, .W1C⟩, ⟨62, 62, .RO⟩, ⟨61, 60, .RO⟩, ⟨59, 52, .RO⟩, ⟨51, 48, .RO⟩, ⟨47, 36, .RO⟩, ⟨31, 0, .RO⟩]⟩
  | .MU_DISCARD_BYTES => ⟨1, 0x20, 16896, 0x1000, 1, 0x0, 8, 0x0, .pl1, .plain, [⟨63, 0, .RO⟩]⟩
  | .MU_FETCH_REQ_BYTES => ⟨1, 0x28, 16896, 0x1000, 1, 0x0, 8, 0x0, .pl1, .plain, [⟨63, 0, .RO⟩]⟩
  | .MU_FETCH_LAND_BYTES => ⟨1, 0x30, 16896, 0x1000, 1, 0x0, 8, 0x0, .pl1, .plain, [⟨63, 0, .RO⟩]⟩
  | .MU_FETCH_FAIL_BYTES => ⟨1, 0x38, 16896, 0x1000, 1, 0x0, 8, 0x0, .pl1, .plain, [⟨63, 0, .RO⟩]⟩
  | .MU_WIN_NACKS => ⟨1, 0x40, 16896, 0x1000, 1, 0x0, 8, 0x0, .pl1, .plain, [⟨63, 0, .RO⟩]⟩
  | .MU_SLOT_FILLS => ⟨1, 0x48, 16896, 0x1000, 1, 0x0, 8, 0x0, .pl1, .plain, [⟨63, 0, .RO⟩]⟩
  | .MU_SLOT_DRAINS => ⟨1, 0x50, 16896, 0x1000, 1, 0x0, 8, 0x0, .pl1, .plain, [⟨63, 0, .RO⟩]⟩
  | .MU_SLOT_CLEARS => ⟨1, 0x58, 16896, 0x1000, 1, 0x0, 8, 0x0, .pl1, .plain, [⟨63, 0, .RO⟩]⟩
  | .MU_AG_STATUS => ⟨1, 0x60, 16896, 0x1000, 4, 0x8, 8, 0x0, .pl1, .view, [⟨55, 48, .RO⟩, ⟨42, 32, .RO⟩, ⟨4, 4, .RO⟩, ⟨2, 0, .RO⟩]⟩
  | .MU_CONFLICT => ⟨1, 0x80, 16896, 0x1000, 16, 0x8, 8, 0x0, .pl1, .plain, [⟨63, 0, .RO⟩]⟩
  | .MU_AG_STALL_TAG => ⟨1, 0x100, 16896, 0x1000, 4, 0x8, 8, 0x0, .pl1, .plain, [⟨63, 0, .RO⟩]⟩
  | .MU_AG_STALL_BANK => ⟨1, 0x120, 16896, 0x1000, 4, 0x8, 8, 0x0, .pl1, .plain, [⟨63, 0, .RO⟩]⟩
  | .MU_AG_STALL_CREDIT => ⟨1, 0x140, 16896, 0x1000, 4, 0x8, 8, 0x0, .pl1, .plain, [⟨63, 0, .RO⟩]⟩
  | .MU_BUF => ⟨1, 0x200, 16896, 0x1000, 16, 0x8, 8, 0x0, .pl1, .plain, [⟨63, 62, .RO⟩, ⟨47, 36, .RO⟩, ⟨35, 24, .RO⟩, ⟨23, 12, .RO⟩]⟩
  | .MU_WIN => ⟨1, 0x300, 16896, 0x1000, 8, 0x8, 8, 0x0, .pl1, .row, [⟨63, 63, .RW⟩, ⟨62, 62, .RW⟩, ⟨61, 61, .RW⟩, ⟨47, 32, .RO⟩, ⟨27, 16, .RW⟩, ⟨11, 0, .RW⟩]⟩
  | .MU_AG_DESC => ⟨1, 0x400, 16896, 0x1000, 32, 0x8, 8, 0x0, .pl1, .view, [⟨63, 0, .RO⟩]⟩
  | .LNK_STATUS => ⟨2, 0x0, 33792, 0x1000, 1, 0x0, 8, 0x0, .pl1, .view, [⟨39, 36, .RO⟩, ⟨35, 32, .RO⟩, ⟨31, 28, .RO⟩, ⟨27, 24, .RO⟩, ⟨9, 9, .RO⟩, ⟨8, 8, .RO⟩]⟩
  | .LNK_LASTSIG => ⟨2, 0x10, 33792, 0x1000, 1, 0x0, 8, 0x0, .pl1, .plain, [⟨14, 0, .RO⟩]⟩
  | .LNK_OSEL => ⟨2, 0x100, 33792, 0x1000, 18, 0x8, 8, 0x0, .pl1, .plain, [⟨5, 0, .RO⟩]⟩
  | .LNK_CRED => ⟨2, 0x200, 33792, 0x1000, 18, 0x8, 8, 0x0, .pl1, .plain, [⟨13, 8, .RO⟩, ⟨5, 0, .RO⟩]⟩
  | .LNK_JOIN => ⟨2, 0x300, 33792, 0x1000, 2, 0x8, 8, 0x0, .pl1, .plain, [⟨14, 14, .RO⟩, ⟨13, 8, .RO⟩, ⟨5, 0, .RO⟩]⟩
  | .LNK_JOIN_PAIRS => ⟨2, 0x400, 33792, 0x1000, 2, 0x8, 8, 0x0, .pl1, .plain, [⟨63, 0, .RO⟩]⟩
  | .LNK_JOIN_DROPS => ⟨2, 0x410, 33792, 0x1000, 2, 0x8, 8, 0x0, .pl1, .plain, [⟨63, 0, .RO⟩]⟩
  | .LNK_SIGNALS => ⟨2, 0x420, 33792, 0x1000, 1, 0x0, 8, 0x0, .pl1, .plain, [⟨63, 0, .RO⟩]⟩
  | .LNK_CREDIT_STALL => ⟨2, 0x428, 33792, 0x1000, 1, 0x0, 8, 0x0, .pl1, .plain, [⟨63, 0, .RO⟩]⟩
  | .LNK_RETRIES => ⟨2, 0x430, 33792, 0x1000, 1, 0x0, 8, 0x0, .pl1, .plain, [⟨63, 0, .RO⟩]⟩
  | .LNK_CWY_CTL => ⟨2, 0xf000100, 1, 0x0, 1, 0x0, 8, 0x14, .pl1, .plain, [⟨4, 0, .RWL⟩]⟩
  | .LNK_CWY_TIMEOUTS => ⟨2, 0xf000108, 1, 0x0, 1, 0x0, 8, 0x0, .pl1, .plain, [⟨63, 0, .RO⟩]⟩
  | .SEED_PLOT_STATUS => ⟨3, 0x0, 16, 0x1000, 1, 0x0, 8, 0x0, .pl1, .view, [⟨63, 48, .RO⟩, ⟨47, 40, .RO⟩, ⟨39, 32, .RO⟩, ⟨7, 7, .RO⟩, ⟨6, 6, .RO⟩, ⟨5, 5, .RO⟩, ⟨4, 4, .RO⟩, ⟨2, 0, .RO⟩]⟩
  | .SEED_PLOT_BOUNDS => ⟨3, 0x8, 16, 0x1000, 1, 0x0, 8, 0x0, .pl1, .prot, [⟨63, 0, .RW⟩]⟩
  | .SEED_PLOT_SAVEAREA => ⟨3, 0x10, 16, 0x1000, 1, 0x0, 8, 0x0, .pl1, .plain, [⟨47, 16, .RW⟩, ⟨12, 0, .RW⟩]⟩
  | .SEED_PLOT_PREEMPT => ⟨3, 0x18, 16, 0x1000, 1, 0x0, 8, 0x0, .pl1, .row, [⟨63, 63, .RW⟩, ⟨59, 58, .RW⟩, ⟨31, 0, .RW⟩]⟩
  | .SEED_PLOT_FLAGS => ⟨3, 0x200, 16, 0x1000, 1, 0x0, 8, 0x0, .pl1, .plain, [⟨39, 32, .RO⟩, ⟨8, 8, .RO⟩, ⟨4, 0, .RO⟩]⟩
  | .SEED_PLOT_RUNCYC => ⟨3, 0x300, 16, 0x1000, 1, 0x0, 8, 0x0, .pl1, .plain, [⟨63, 0, .RO⟩]⟩
  | .SEED_PLOT_STALL_SILO => ⟨3, 0x308, 16, 0x1000, 1, 0x0, 8, 0x0, .pl1, .plain, [⟨63, 0, .RO⟩]⟩
  | .SEED_PLOT_STALL_CWY => ⟨3, 0x310, 16, 0x1000, 1, 0x0, 8, 0x0, .pl1, .plain, [⟨63, 0, .RO⟩]⟩
  | .SEED_PLOT_STALL_GRN => ⟨3, 0x318, 16, 0x1000, 1, 0x0, 8, 0x0, .pl1, .plain, [⟨63, 0, .RO⟩]⟩
  | .SEED_PLOT_STALL_HAY => ⟨3, 0x320, 16, 0x1000, 1, 0x0, 8, 0x0, .pl1, .plain, [⟨63, 0, .RO⟩]⟩
  | .SEED_PLOT_STALL_WIN => ⟨3, 0x328, 16, 0x1000, 1, 0x0, 8, 0x0, .pl1, .plain, [⟨63, 0, .RO⟩]⟩
  | .SEED_PLOT_CFGWAIT => ⟨3, 0x330, 16, 0x1000, 1, 0x0, 8, 0x0, .pl1, .plain, [⟨63, 0, .RO⟩]⟩
  | .SEED_PLOT_EPOCHS => ⟨3, 0x338, 16, 0x1000, 1, 0x0, 8, 0x0, .pl1, .plain, [⟨63, 0, .RO⟩]⟩
  | .SEED_PLOT_PPM0 => ⟨3, 0x340, 16, 0x1000, 1, 0x0, 8, 0x0, .pl1, .plain, [⟨59, 40, .RO⟩, ⟨39, 20, .RO⟩, ⟨19, 0, .RO⟩]⟩
  | .SEED_PLOT_PPM1 => ⟨3, 0x348, 16, 0x1000, 1, 0x0, 8, 0x0, .pl1, .plain, [⟨39, 20, .RO⟩, ⟨19, 0, .RO⟩]⟩
  | .SEED_REMAP => ⟨3, 0xf000100, 1, 0x0, 1, 0x0, 8, 0x0, .pl1, .plain, [⟨47, 40, .RO⟩, ⟨39, 32, .RO⟩, ⟨31, 24, .RO⟩, ⟨23, 16, .RO⟩, ⟨15, 15, .RO⟩, ⟨12, 8, .RO⟩, ⟨7, 7, .RO⟩, ⟨4, 0, .RO⟩]⟩
  | .SEED_CTL => ⟨3, 0xf000108, 1, 0x0, 1, 0x0, 8, 0x6400100100, .pl1, .plain, [⟨47, 32, .RWL⟩, ⟨23, 16, .RWL⟩, ⟨8, 8, .RWL⟩, ⟨3, 0, .RWL⟩]⟩
  | .SEED_LOAD_FAULT => ⟨3, 0xf000110, 1, 0x0, 1, 0x0, 8, 0x0, .pl1, .row, [⟨63, 63, .W1C⟩, ⟨55, 48, .RO⟩, ⟨47, 44, .RO⟩, ⟨30, 29, .RO⟩, ⟨28, 23, .RO⟩, ⟨22, 16, .RO⟩, ⟨15, 0, .RO⟩]⟩
  | .SEED_CFG_RING => ⟨3, 0xf000120, 4, 0x8, 1, 0x0, 8, 0xfedcba9876543210, .pl1, .plain, [⟨63, 0, .RWL⟩]⟩
  | .BND_CTX => ⟨4, 0x0, 64, 0x1000, 1, 0x0, 8, 0x0, .pl1, .prot, [⟨63, 62, .RW⟩, ⟨61, 61, .RW⟩, ⟨54, 48, .RW⟩, ⟨47, 32, .RW⟩, ⟨31, 16, .RW⟩, ⟨15, 15, .RW⟩, ⟨11, 8, .RW⟩, ⟨7, 0, .RW⟩]⟩
  | .BND_SRAMWIN => ⟨4, 0x8, 64, 0x1000, 1, 0x0, 8, 0x0, .pl1, .prot, [⟨40, 32, .RW⟩, ⟨8, 0, .RW⟩]⟩
  | .BND_RUN => ⟨4, 0x10, 64, 0x1000, 1, 0x0, 8, 0x0, .pl0, .row, [⟨63, 63, .RW⟩, ⟨16, 0, .RW⟩]⟩
  | .BND_STATUS => ⟨4, 0x18, 64, 0x1000, 1, 0x0, 8, 0x0, .pl1, .view, [⟨63, 48, .RO⟩, ⟨39, 32, .RO⟩, ⟨8, 8, .W1C⟩, ⟨3, 3, .RO⟩, ⟨2, 0, .RO⟩]⟩
  | .BND_INSNS => ⟨4, 0x100, 64, 0x1000, 1, 0x0, 8, 0x0, .pl1, .plain, [⟨63, 0, .RO⟩]⟩
  | .BND_CYCLES => ⟨4, 0x108, 64, 0x1000, 1, 0x0, 8, 0x0, .pl1, .plain, [⟨63, 0, .RO⟩]⟩
  | .BND_CMDS => ⟨4, 0x110, 64, 0x1000, 1, 0x0, 8, 0x0, .pl1, .plain, [⟨63, 0, .RO⟩]⟩
  | .BND_WAITCYC => ⟨4, 0x118, 64, 0x1000, 1, 0x0, 8, 0x0, .pl1, .plain, [⟨63, 0, .RO⟩]⟩
  | .BND_SRAMSTALL => ⟨4, 0x120, 64, 0x1000, 1, 0x0, 8, 0x0, .pl1, .plain, [⟨63, 0, .RO⟩]⟩
  | .BND_CTL => ⟨4, 0xf000100, 1, 0x0, 1, 0x0, 8, 0x15, .pl1, .plain, [⟨4, 0, .RWL⟩]⟩
  | .HOP_QP_OWNER => ⟨5, 0x0, 16384, 0x1000, 1, 0x0, 8, 0x0, .pl1, .prot, [⟨63, 63, .RW⟩, ⟨58, 56, .RW⟩, ⟨54, 48, .RW⟩, ⟨37, 32, .RW⟩, ⟨2, 0, .RW⟩]⟩
  | .HOP_QP_CFG => ⟨5, 0x8, 16384, 0x1000, 1, 0x0, 8, 0x0, .own, .row, [⟨59, 59, .RW⟩, ⟨58, 48, .RW⟩, ⟨42, 40, .RO⟩, ⟨36, 32, .RW⟩, ⟨28, 24, .RW⟩, ⟨15, 0, .RO⟩]⟩
  | .HOP_QP_SQBASE => ⟨5, 0x10, 16384, 0x1000, 1, 0x0, 8, 0x0, .own, .plain, [⟨47, 12, .RW⟩]⟩
  | .HOP_QP_CQBASE => ⟨5, 0x18, 16384, 0x1000, 1, 0x0, 8, 0x0, .own, .plain, [⟨47, 12, .RW⟩]⟩
  | .HOP_QP_PTRS => ⟨5, 0x20, 16384, 0x1000, 1, 0x0, 8, 0x0, .pl1, .plain, [⟨63, 48, .RO⟩, ⟨47, 32, .RO⟩, ⟨31, 16, .RO⟩, ⟨15, 0, .RO⟩]⟩
  | .HOP_QP_MOD => ⟨5, 0x28, 16384, 0x1000, 1, 0x0, 8, 0x0, .own, .row, [⟨40, 40, .RW⟩, ⟨39, 32, .RW⟩, ⟨9, 0, .RW⟩]⟩
  | .HOP_QP_CTL => ⟨5, 0x30, 16384, 0x1000, 1, 0x0, 8, 0x0, .own, .row, [⟨1, 1, .WO⟩, ⟨0, 0, .WO⟩]⟩
  | .HOP_QP_STAGEBASE => ⟨5, 0x38, 16384, 0x1000, 1, 0x0, 8, 0x0, .pl1, .plain, [⟨24, 12, .RO⟩]⟩
  | .HOP_QP_STAGEHEAD => ⟨5, 0x40, 16384, 0x1000, 1, 0x0, 8, 0x0, .core, .row, [⟨5, 0, .RW⟩]⟩
  | .HOP_QP_CPOST0 => ⟨5, 0x48, 16384, 0x1000, 1, 0x0, 8, 0x0, .core, .plain, [⟨63, 0, .WO⟩]⟩
  | .HOP_QP_CPOST1 => ⟨5, 0x50, 16384, 0x1000, 1, 0x0, 8, 0x0, .core, .row, [⟨31, 16, .WO⟩, ⟨15, 0, .WO⟩]⟩
  | .HOP_QP_FETCHED => ⟨5, 0x100, 16384, 0x1000, 1, 0x0, 8, 0x0, .pl1, .plain, [⟨63, 0, .RO⟩]⟩
  | .HOP_QP_CPL_WRITTEN => ⟨5, 0x108, 16384, 0x1000, 1, 0x0, 8, 0x0, .pl1, .plain, [⟨63, 0, .RO⟩]⟩
  | .HOP_QP_CPL_DISCARD => ⟨5, 0x110, 16384, 0x1000, 1, 0x0, 8, 0x0, .pl1, .plain, [⟨63, 0, .RO⟩]⟩
  | .HOP_QP_DBIGNORE => ⟨5, 0x118, 16384, 0x1000, 1, 0x0, 8, 0x0, .pl1, .plain, [⟨63, 0, .RO⟩]⟩
  | .HOP_FN_HMBASE => ⟨5, 0xf010000, 128, 0x1000, 1, 0x0, 8, 0x0, .pl1, .prot, [⟨63, 12, .RW⟩]⟩
  | .HOP_FN_HMSIZE => ⟨5, 0xf010008, 128, 0x1000, 1, 0x0, 8, 0x0, .pl1, .prot, [⟨47, 12, .RW⟩]⟩
  | .HOP_FN_BAR4 => ⟨5, 0xf010010, 128, 0x1000, 1, 0x0, 8, 0x0, .fn, .plain, [⟨47, 30, .RW⟩]⟩
  | .HOP_FN_ARB => ⟨5, 0xf010018, 128, 0x1000, 1, 0x0, 8, 0x0, .pl1, .prot, [⟨3, 0, .RW⟩]⟩
  | .HOP_LINK => ⟨5, 0xf010020, 1, 0x0, 1, 0x0, 8, 0x0, .pl1, .plain, [⟨8, 8, .RO⟩, ⟨6, 4, .RO⟩, ⟨2, 0, .RO⟩]⟩
  | .SILO_STATUS => ⟨6, 0x0, 8, 0x1000, 1, 0x0, 8, 0x0, .pl1, .plain, [⟨44, 32, .RO⟩, ⟨15, 8, .RO⟩, ⟨1, 1, .RO⟩, ⟨0, 0, .RO⟩]⟩
  | .SILO_CE => ⟨6, 0x100, 8, 0x1000, 1, 0x0, 8, 0x0, .pl1, .plain, [⟨63, 0, .RO⟩]⟩
  | .SILO_UE => ⟨6, 0x108, 8, 0x1000, 1, 0x0, 8, 0x0, .pl1, .plain, [⟨63, 0, .RO⟩]⟩
  | .SILO_REPAIRS => ⟨6, 0x110, 8, 0x1000, 1, 0x0, 8, 0x0, .pl1, .plain, [⟨63, 0, .RO⟩]⟩
  | .SILO_RH_TREFS => ⟨6, 0x118, 8, 0x1000, 1, 0x0, 8, 0x0, .pl1, .plain, [⟨63, 0, .RO⟩]⟩
  | .SILO_RD_BYTES => ⟨6, 0x120, 8, 0x1000, 1, 0x0, 8, 0x0, .pl1, .plain, [⟨63, 0, .RO⟩]⟩
  | .SILO_WR_BYTES => ⟨6, 0x128, 8, 0x1000, 1, 0x0, 8, 0x0, .pl1, .plain, [⟨63, 0, .RO⟩]⟩
  | .SILO_SCRUB => ⟨6, 0xf000100, 1, 0x0, 1, 0x0, 8, 0x118, .pl1, .plain, [⟨8, 8, .RW⟩, ⟨7, 0, .RW⟩]⟩
  | .SILO_PMQ_CFG => ⟨6, 0xf002000, 64, 0x20, 1, 0x0, 8, 0x0, .pl1, .prot, [⟨63, 63, .RW⟩, ⟨62, 61, .RW⟩, ⟨60, 54, .RW⟩, ⟨53, 50, .RW⟩, ⟨47, 12, .RW⟩, ⟨11, 6, .RW⟩]⟩
  | .SILO_PMQ_DB => ⟨6, 0xf002008, 64, 0x20, 1, 0x0, 8, 0x0, .ring, .row, [⟨32, 32, .WO⟩, ⟨15, 0, .WO⟩]⟩
  | .SILO_PMQ_PTRS => ⟨6, 0xf002010, 64, 0x20, 1, 0x0, 8, 0x0, .pl1, .plain, [⟨63, 48, .RO⟩, ⟨47, 32, .RO⟩, ⟨31, 16, .RO⟩, ⟨15, 0, .RO⟩]⟩
  | .SILO_PMQ_ERR => ⟨6, 0xf002018, 64, 0x20, 1, 0x0, 8, 0x0, .pl1, .plain, [⟨16, 16, .RO⟩, ⟨15, 0, .RO⟩]⟩
  | .SILO_CACHE => ⟨6, 0xf003000, 16, 0x8, 1, 0x0, 8, 0x0, .pl1, .plain, [⟨63, 63, .RW⟩, ⟨43, 24, .RW⟩, ⟨23, 0, .RW⟩]⟩
  | .SILO_RGN_A => ⟨6, 0xf010000, 1024, 0x10, 1, 0x0, 8, 0x0, .pl1, .prot, [⟨63, 63, .RW⟩, ⟨62, 62, .RW⟩, ⟨61, 61, .RW⟩, ⟨60, 60, .RW⟩, ⟨59, 59, .RW⟩, ⟨54, 48, .RW⟩, ⟨47, 24, .RW⟩, ⟨23, 0, .RW⟩]⟩
  | .SILO_RGN_B => ⟨6, 0xf010008, 1024, 0x10, 1, 0x0, 8, 0x0, .pl1, .prot, [⟨31, 16, .RW⟩, ⟨15, 0, .RW⟩]⟩
  | .GRN_PORT_STATUS => ⟨7, 0x0, 4, 0x1000, 1, 0x0, 8, 0x0, .pl1, .plain, [⟨63, 56, .RO⟩, ⟨55, 48, .RO⟩, ⟨44, 32, .RO⟩, ⟨31, 21, .RO⟩, ⟨2, 0, .RO⟩]⟩
  | .GRN_PORT_ID => ⟨7, 0x8, 4, 0x1000, 1, 0x0, 8, 0x0, .pl1, .plain, [⟨63, 0, .RO⟩]⟩
  | .GRN_PORT_CTL => ⟨7, 0x10, 4, 0x1000, 1, 0x0, 8, 0x0, .pl1, .row, [⟨0, 0, .WO⟩]⟩
  | .GRN_TAG_ALLOC => ⟨7, 0x100, 4, 0x1000, 1, 0x0, 8, 0x0, .pl1, .plain, [⟨63, 0, .RO⟩]⟩
  | .GRN_TAG_FREE => ⟨7, 0x108, 4, 0x1000, 1, 0x0, 8, 0x0, .pl1, .plain, [⟨63, 0, .RO⟩]⟩
  | .GRN_REPLAYS => ⟨7, 0x110, 4, 0x1000, 1, 0x0, 8, 0x0, .pl1, .plain, [⟨63, 0, .RO⟩]⟩
  | .GRN_CTL => ⟨7, 0xf000100, 1, 0x0, 1, 0x0, 8, 0x1900004, .pl1, .plain, [⟨25, 16, .RWL⟩, ⟨5, 0, .RWL⟩]⟩
  | .GRN_RING => ⟨7, 0xf000108, 2, 0x8, 1, 0x0, 8, 0xe4e4e4e4e4e4e4e4, .pl1, .plain, [⟨63, 0, .RWL⟩]⟩
  | .GRN_CAP => ⟨7, 0xf000120, 1, 0x0, 1, 0x0, 8, 0x0, .pl1, .view, [⟨14, 0, .RO⟩]⟩
  | .GRN_EXTA => ⟨7, 0xf010000, 256, 0x10, 1, 0x0, 8, 0x0, .pl1, .prot, [⟨63, 63, .RW⟩, ⟨62, 62, .RW⟩, ⟨61, 61, .RW⟩, ⟨60, 60, .RW⟩, ⟨59, 56, .RW⟩, ⟨54, 48, .RW⟩, ⟨46, 32, .RW⟩, ⟨14, 0, .RW⟩]⟩
  | .GRN_EXTB => ⟨7, 0xf010008, 256, 0x10, 1, 0x0, 8, 0x0, .pl1, .prot, [⟨55, 32, .RW⟩, ⟨31, 16, .RW⟩, ⟨15, 0, .RW⟩]⟩
  | .WIN_CTL => ⟨8, 0xf000100, 1, 0x0, 1, 0x0, 8, 0x308, .pl1, .plain, [⟨13, 8, .RWL⟩, ⟨5, 0, .RWL⟩]⟩
  | .WIN_RING => ⟨8, 0xf000108, 1, 0x0, 1, 0x0, 8, 0x24, .pl1, .plain, [⟨63, 0, .RWL⟩]⟩
  | .WIN_IN_PAGES => ⟨8, 0xf000200, 1, 0x0, 1, 0x0, 8, 0x0, .pl1, .plain, [⟨63, 0, .RO⟩]⟩
  | .WIN_IN_OK => ⟨8, 0xf000208, 1, 0x0, 1, 0x0, 8, 0x0, .pl1, .plain, [⟨63, 0, .RO⟩]⟩
  | .WIN_IN_FAIL => ⟨8, 0xf000210, 1, 0x0, 1, 0x0, 8, 0x0, .pl1, .plain, [⟨63, 0, .RO⟩]⟩
  | .WIN_OUT_PAGES => ⟨8, 0xf000218, 1, 0x0, 1, 0x0, 8, 0x0, .pl1, .plain, [⟨63, 0, .RO⟩]⟩
  | .WIN_OUT_OK => ⟨8, 0xf000220, 1, 0x0, 1, 0x0, 8, 0x0, .pl1, .plain, [⟨63, 0, .RO⟩]⟩
  | .WIN_OUT_FAIL => ⟨8, 0xf000228, 1, 0x0, 1, 0x0, 8, 0x0, .pl1, .plain, [⟨63, 0, .RO⟩]⟩
  | .WIN_OUT_BYTES => ⟨8, 0xf000230, 1, 0x0, 1, 0x0, 8, 0x0, .pl1, .plain, [⟨63, 0, .RO⟩]⟩
  | .WIN_AUTH_FAIL => ⟨8, 0xf000238, 1, 0x0, 1, 0x0, 8, 0x0, .pl1, .plain, [⟨63, 0, .RO⟩]⟩
  | .WIN_FLC_FAIL => ⟨8, 0xf000240, 1, 0x0, 1, 0x0, 8, 0x0, .pl1, .plain, [⟨63, 0, .RO⟩]⟩
  | .WIN_SHARD_REREAD => ⟨8, 0xf000248, 1, 0x0, 1, 0x0, 8, 0x0, .pl1, .plain, [⟨63, 0, .RO⟩]⟩
  | .WIN_SHARD_ALT => ⟨8, 0xf000250, 1, 0x0, 1, 0x0, 8, 0x0, .pl1, .plain, [⟨63, 0, .RO⟩]⟩
  | .WIN_Q_CFG => ⟨8, 0xf002000, 16, 0x20, 1, 0x0, 8, 0x0, .pl1, .prot, [⟨63, 63, .RW⟩, ⟨62, 61, .RW⟩, ⟨60, 54, .RW⟩, ⟨53, 50, .RW⟩, ⟨47, 12, .RW⟩, ⟨11, 6, .RW⟩]⟩
  | .WIN_Q_DB => ⟨8, 0xf002008, 16, 0x20, 1, 0x0, 8, 0x0, .ring, .row, [⟨32, 32, .WO⟩, ⟨15, 0, .WO⟩]⟩
  | .WIN_Q_PTRS => ⟨8, 0xf002010, 16, 0x20, 1, 0x0, 8, 0x0, .pl1, .plain, [⟨63, 48, .RO⟩, ⟨47, 32, .RO⟩, ⟨31, 16, .RO⟩, ⟨15, 0, .RO⟩]⟩
  | .WIN_Q_ERR => ⟨8, 0xf002018, 16, 0x20, 1, 0x0, 8, 0x0, .pl1, .plain, [⟨16, 16, .RO⟩, ⟨15, 0, .RO⟩]⟩
  | .HAY_Q_CFG => ⟨11, 0xf002000, 16, 0x20, 1, 0x0, 8, 0x0, .pl1, .prot, [⟨63, 63, .RW⟩, ⟨62, 61, .RW⟩, ⟨60, 54, .RW⟩, ⟨53, 50, .RW⟩, ⟨47, 12, .RW⟩, ⟨11, 6, .RW⟩]⟩
  | .HAY_Q_DB => ⟨11, 0xf002008, 16, 0x20, 1, 0x0, 8, 0x0, .ring, .row, [⟨32, 32, .WO⟩, ⟨15, 0, .WO⟩]⟩
  | .HAY_Q_PTRS => ⟨11, 0xf002010, 16, 0x20, 1, 0x0, 8, 0x0, .pl1, .plain, [⟨63, 48, .RO⟩, ⟨47, 32, .RO⟩, ⟨31, 16, .RO⟩, ⟨15, 0, .RO⟩]⟩
  | .HAY_Q_ERR => ⟨11, 0xf002018, 16, 0x20, 1, 0x0, 8, 0x0, .pl1, .plain, [⟨16, 16, .RO⟩, ⟨15, 0, .RO⟩]⟩
  | .WIN_MODEL_A => ⟨8, 0xf010000, 256, 0x20, 1, 0x0, 8, 0x0, .pl1, .plain, [⟨63, 63, .RW⟩, ⟨62, 60, .RO⟩, ⟨56, 56, .RO⟩, ⟨55, 47, .RO⟩, ⟨46, 46, .RO⟩, ⟨45, 37, .RO⟩, ⟨36, 36, .RO⟩, ⟨35, 27, .RO⟩]⟩
  | .WIN_MODEL_FN0 => ⟨8, 0xf010008, 256, 0x20, 1, 0x0, 8, 0x0, .pl1, .prot, [⟨63, 0, .RW⟩]⟩
  | .WIN_MODEL_FN1 => ⟨8, 0xf010010, 256, 0x20, 1, 0x0, 8, 0x0, .pl1, .prot, [⟨63, 0, .RW⟩]⟩
  | .WIN_WS_A => ⟨8, 0xf020000, 512, 0x10, 1, 0x0, 8, 0x0, .pl1, .plain, [⟨63, 32, .RO⟩, ⟨31, 0, .RO⟩]⟩
  | .WIN_WS_B => ⟨8, 0xf020008, 512, 0x10, 1, 0x0, 8, 0x0, .pl1, .plain, [⟨63, 61, .RO⟩, ⟨60, 53, .RO⟩, ⟨47, 24, .RO⟩, ⟨23, 0, .RO⟩]⟩
  | .WIN_AD_A => ⟨8, 0xf030000, 4096, 0x10, 1, 0x0, 8, 0x0, .pl1, .plain, [⟨63, 32, .RO⟩, ⟨31, 0, .RO⟩]⟩
  | .WIN_AD_B => ⟨8, 0xf030008, 4096, 0x10, 1, 0x0, 8, 0x0, .pl1, .plain, [⟨63, 61, .RO⟩, ⟨60, 53, .RO⟩, ⟨47, 24, .RO⟩, ⟨23, 0, .RO⟩]⟩
  | .GLN_CLS_CFG => ⟨9, 0x0, 16, 0x1000, 1, 0x0, 8, 0x0, .pl1, .plain, [⟨63, 63, .RW⟩, ⟨62, 62, .RW⟩, ⟨59, 56, .RW⟩, ⟨47, 32, .RW⟩, ⟨31, 16, .RW⟩]⟩
  | .GLN_CLS_TGT => ⟨9, 0x8, 16, 0x1000, 1, 0x0, 8, 0x0, .pl1, .plain, [⟨63, 32, .RW⟩, ⟨31, 0, .RW⟩]⟩
  | .GLN_CLS_STATUS => ⟨9, 0x10, 16, 0x1000, 1, 0x0, 8, 0x0, .pl1, .view, [⟨55, 52, .RO⟩, ⟨48, 32, .RO⟩, ⟨16, 0, .RO⟩]⟩
  | .GLN_CLS_HCTL => ⟨9, 0x18, 16, 0x1000, 1, 0x0, 8, 0x0, .pl1, .row, [⟨8, 8, .RO⟩, ⟨0, 0, .W1S⟩]⟩
  | .GLN_CLS_ADMITTED => ⟨9, 0x100, 16, 0x1000, 1, 0x0, 8, 0x0, .pl1, .plain, [⟨63, 0, .RO⟩]⟩
  | .GLN_CLS_REJECTED => ⟨9, 0x108, 16, 0x1000, 1, 0x0, 8, 0x0, .pl1, .plain, [⟨63, 0, .RO⟩]⟩
  | .GLN_CLS_QTIMEOUT => ⟨9, 0x110, 16, 0x1000, 1, 0x0, 8, 0x0, .pl1, .plain, [⟨63, 0, .RO⟩]⟩
  | .GLN_CLS_ENDED_OK => ⟨9, 0x118, 16, 0x1000, 1, 0x0, 8, 0x0, .pl1, .plain, [⟨63, 0, .RO⟩]⟩
  | .GLN_CLS_ENDED_CANCELLED => ⟨9, 0x120, 16, 0x1000, 1, 0x0, 8, 0x0, .pl1, .plain, [⟨63, 0, .RO⟩]⟩
  | .GLN_CLS_ENDED_FAILED => ⟨9, 0x128, 16, 0x1000, 1, 0x0, 8, 0x0, .pl1, .plain, [⟨63, 0, .RO⟩]⟩
  | .GLN_CLS_TOKENS => ⟨9, 0x130, 16, 0x1000, 1, 0x0, 8, 0x0, .pl1, .plain, [⟨63, 0, .RO⟩]⟩
  | .GLN_CLS_STALL_PAGES => ⟨9, 0x138, 16, 0x1000, 1, 0x0, 8, 0x0, .pl1, .plain, [⟨63, 0, .RO⟩]⟩
  | .GLN_CLS_H_TTFT => ⟨9, 0x400, 16, 0x1000, 128, 0x8, 8, 0x0, .pl1, .view, [⟨63, 0, .RO⟩]⟩
  | .GLN_CLS_H_TPOT => ⟨9, 0x800, 16, 0x1000, 128, 0x8, 8, 0x0, .pl1, .view, [⟨63, 0, .RO⟩]⟩
  | .GLN_CLS_H_QWAIT => ⟨9, 0xc00, 16, 0x1000, 128, 0x8, 8, 0x0, .pl1, .view, [⟨63, 0, .RO⟩]⟩
  | .GLN_CTL => ⟨9, 0xf000100, 1, 0x0, 1, 0x0, 8, 0x13880000, .pl1, .plain, [⟨37, 32, .RWL⟩, ⟨31, 16, .RWL⟩]⟩
  | .GLN_POOL => ⟨9, 0xf000108, 1, 0x0, 1, 0x0, 8, 0x0, .pl1, .plain, [⟨46, 24, .RW⟩, ⟨23, 0, .RW⟩]⟩
  | .GLN_PTAB => ⟨9, 0xf000110, 1, 0x0, 1, 0x0, 8, 0x0, .pl1, .plain, [⟨63, 59, .RW⟩, ⟨23, 0, .RW⟩]⟩
  | .GLN_PG_FREE => ⟨9, 0xf000200, 1, 0x0, 1, 0x0, 8, 0x0, .pl1, .view, [⟨63, 0, .RO⟩]⟩
  | .GLN_PG_REQ => ⟨9, 0xf000208, 1, 0x0, 1, 0x0, 8, 0x0, .pl1, .view, [⟨63, 0, .RO⟩]⟩
  | .GLN_PG_PFX => ⟨9, 0xf000210, 1, 0x0, 1, 0x0, 8, 0x0, .pl1, .view, [⟨63, 0, .RO⟩]⟩
  | .GLN_PG_RSV => ⟨9, 0xf000218, 1, 0x0, 1, 0x0, 8, 0x0, .pl1, .view, [⟨63, 0, .RO⟩]⟩
  | .GLN_RQ_ACCEPT => ⟨9, 0xf000220, 1, 0x0, 1, 0x0, 8, 0x0, .pl1, .plain, [⟨63, 0, .RO⟩]⟩
  | .GLN_RQ_END => ⟨9, 0xf000228, 1, 0x0, 1, 0x0, 8, 0x0, .pl1, .plain, [⟨63, 0, .RO⟩]⟩
  | .SIV_AREA => ⟨9, 0xf000300, 1, 0x0, 1, 0x0, 8, 0x0, .pl1, .plain, [⟨23, 0, .RW⟩]⟩
  | .SIV_ROWS => ⟨9, 0xf000400, 1, 0x0, 1, 0x0, 8, 0x0, .pl1, .plain, [⟨63, 0, .RO⟩]⟩
  | .SIV_BADROWS => ⟨9, 0xf000408, 1, 0x0, 1, 0x0, 8, 0x0, .pl1, .plain, [⟨63, 0, .RO⟩]⟩
  | .SIV_FALLBACKS => ⟨9, 0xf000410, 1, 0x0, 1, 0x0, 8, 0x0, .pl1, .plain, [⟨63, 0, .RO⟩]⟩
  | .SIV_DEADENDS => ⟨9, 0xf000418, 1, 0x0, 1, 0x0, 8, 0x0, .pl1, .plain, [⟨63, 0, .RO⟩]⟩
  | .SIV_SPEC_PROPOSED => ⟨9, 0xf000420, 1, 0x0, 1, 0x0, 8, 0x0, .pl1, .plain, [⟨63, 0, .RO⟩]⟩
  | .SIV_SPEC_ACCEPTED => ⟨9, 0xf000428, 1, 0x0, 1, 0x0, 8, 0x0, .pl1, .plain, [⟨63, 0, .RO⟩]⟩
  | .SIV_COMPACT => ⟨9, 0xf000430, 1, 0x0, 1, 0x0, 8, 0x0, .pl1, .plain, [⟨63, 0, .RO⟩]⟩
  | .GLN_MODEL_A => ⟨9, 0xf010000, 256, 0x40, 1, 0x0, 8, 0x0, .pl1, .plain, [⟨63, 63, .RW⟩, ⟨62, 61, .RW⟩, ⟨59, 54, .RW⟩, ⟨53, 48, .RW⟩, ⟨47, 44, .RW⟩, ⟨31, 16, .RW⟩]⟩
  | .GLN_MODEL_B => ⟨9, 0xf010008, 256, 0x40, 1, 0x0, 8, 0x0, .pl1, .plain, [⟨63, 48, .RW⟩, ⟨47, 40, .RW⟩, ⟨31, 0, .RW⟩]⟩
  | .GLN_MODEL_C => ⟨9, 0xf010010, 256, 0x40, 1, 0x0, 8, 0x0, .pl1, .plain, [⟨63, 32, .RW⟩, ⟨31, 0, .RW⟩]⟩
  | .GLN_MODEL_D => ⟨9, 0xf010018, 256, 0x40, 1, 0x0, 8, 0x0, .pl1, .plain, [⟨63, 32, .RW⟩, ⟨31, 27, .RW⟩, ⟨24, 6, .RW⟩]⟩
  | .GLN_MODEL_STEP => ⟨9, 0xf010020, 256, 0x40, 1, 0x0, 8, 0x0, .pl1, .plain, [⟨63, 0, .RO⟩]⟩
  | .GLN_MODEL_CNT => ⟨9, 0xf010028, 256, 0x40, 1, 0x0, 8, 0x0, .pl1, .view, [⟨50, 34, .RO⟩, ⟨33, 17, .RO⟩, ⟨16, 0, .RO⟩]⟩
  | .SIV_MODEL_A => ⟨9, 0xf010030, 256, 0x40, 1, 0x0, 8, 0x0, .pl1, .plain, [⟨63, 62, .RW⟩, ⟨61, 61, .RW⟩, ⟨60, 60, .RW⟩, ⟨59, 56, .RW⟩, ⟨55, 52, .RW⟩, ⟨51, 46, .RW⟩, ⟨35, 18, .RW⟩, ⟨9, 0, .RW⟩]⟩
  | .SIV_MODEL_B => ⟨9, 0xf010038, 256, 0x40, 1, 0x0, 8, 0x0, .pl1, .plain, [⟨47, 24, .RW⟩, ⟨23, 0, .RW⟩]⟩
  | .GLN_REQ_A => ⟨9, 0xf100000, 65536, 0x10, 1, 0x0, 8, 0x0, .pl1, .view, [⟨63, 61, .RO⟩, ⟨60, 60, .RO⟩, ⟨59, 56, .RO⟩, ⟨55, 48, .RO⟩, ⟨47, 41, .RO⟩, ⟨40, 27, .RO⟩, ⟨26, 11, .RO⟩]⟩
  | .GLN_REQ_B => ⟨9, 0xf100008, 65536, 0x10, 1, 0x0, 8, 0x0, .pl1, .view, [⟨63, 32, .RO⟩, ⟨31, 0, .RO⟩]⟩
  | .GLN_PFX_A => ⟨9, 0xf200000, 16384, 0x10, 1, 0x0, 8, 0x0, .pl1, .view, [⟨63, 62, .RO⟩, ⟨61, 61, .RO⟩, ⟨60, 43, .RO⟩, ⟨42, 35, .RO⟩, ⟨34, 28, .RO⟩, ⟨27, 16, .RO⟩, ⟨15, 15, .RO⟩]⟩
  | .GLN_PFX_B => ⟨9, 0xf200008, 16384, 0x10, 1, 0x0, 8, 0x0, .pl1, .view, [⟨63, 32, .RO⟩, ⟨28, 20, .RO⟩, ⟨16, 0, .RO⟩]⟩
  | .SIV_KICK => ⟨9, 0xf300000, 256, 0x8, 1, 0x0, 8, 0x0, .mcore, .row, [⟨63, 63, .RO⟩, ⟨59, 56, .RW⟩, ⟨31, 0, .RW⟩]⟩
  | .SIV_TREE => ⟨9, 0xf400000, 256, 0x200, 64, 0x8, 8, 0x0, .pl1, .row, [⟨63, 63, .RW⟩, ⟨22, 22, .RW⟩, ⟨21, 16, .RW⟩, ⟨14, 12, .RW⟩]⟩
  | .RDL_CTX_CFG => ⟨10, 0x0, 16, 0x1000, 1, 0x0, 8, 0x0, .pl1, .plain, [⟨63, 63, .RW⟩, ⟨62, 57, .RW⟩, ⟨56, 51, .RW⟩, ⟨50, 39, .RW⟩, ⟨38, 27, .RW⟩, ⟨24, 6, .RW⟩]⟩
  | .RDL_CTX_STATUS => ⟨10, 0x8, 16, 0x1000, 1, 0x0, 8, 0x0, .pl1, .view, [⟨63, 48, .RO⟩, ⟨34, 32, .RO⟩, ⟨31, 16, .RO⟩, ⟨6, 0, .RO⟩]⟩
  | .RDL_LED_ASSIGN => ⟨10, 0x100, 16, 0x1000, 1, 0x0, 8, 0x0, .pl1, .plain, [⟨63, 0, .RO⟩]⟩
  | .RDL_LED_DISP => ⟨10, 0x108, 16, 0x1000, 1, 0x0, 8, 0x0, .pl1, .plain, [⟨63, 0, .RO⟩]⟩
  | .RDL_LED_OVF => ⟨10, 0x110, 16, 0x1000, 1, 0x0, 8, 0x0, .pl1, .plain, [⟨63, 0, .RO⟩]⟩
  | .RDL_LED_RECV => ⟨10, 0x118, 16, 0x1000, 1, 0x0, 8, 0x0, .pl1, .plain, [⟨63, 0, .RO⟩]⟩
  | .RDL_LED_RET => ⟨10, 0x120, 16, 0x1000, 1, 0x0, 8, 0x0, .pl1, .plain, [⟨63, 0, .RO⟩]⟩
  | .RDL_CAPCLAMP => ⟨10, 0x128, 16, 0x1000, 1, 0x0, 8, 0x0, .pl1, .plain, [⟨63, 0, .RO⟩]⟩
  | .RDL_STALE_MSGS => ⟨10, 0x130, 16, 0x1000, 1, 0x0, 8, 0x0, .pl1, .plain, [⟨63, 0, .RO⟩]⟩
  | .RDL_CTL => ⟨10, 0xf000100, 1, 0x0, 1, 0x0, 8, 0x7d0, .pl1, .plain, [⟨15, 0, .RWL⟩]⟩
  | .RDL_EXP_ACC => ⟨10, 0xf100000, 16, 0x4000, 1024, 0x8, 8, 0x0, .pl1, .plain, [⟨63, 0, .RO⟩]⟩
  | .RDL_EXP_OVF => ⟨10, 0xf102000, 16, 0x4000, 1024, 0x8, 8, 0x0, .pl1, .plain, [⟨63, 0, .RO⟩]⟩
  | .HAY_PORT_STATUS => ⟨11, 0x0, 24, 0x1000, 1, 0x0, 8, 0x8, .pl1, .plain, [⟨63, 56, .RO⟩, ⟨55, 48, .RO⟩, ⟨47, 32, .RO⟩, ⟨23, 16, .RO⟩, ⟨8, 8, .RO⟩, ⟨3, 0, .RO⟩]⟩
  | .HAY_PORT_CTL => ⟨11, 0x8, 24, 0x1000, 1, 0x0, 8, 0x0, .pl1, .row, [⟨63, 63, .RW⟩, ⟨8, 8, .W1S⟩, ⟨0, 0, .W1S⟩]⟩
  | .HAY_PORT_EXPECT => ⟨11, 0x10, 24, 0x1000, 1, 0x0, 8, 0x0, .pl1, .prot, [⟨63, 63, .RW⟩, ⟨59, 48, .RW⟩, ⟨44, 40, .RW⟩, ⟨15, 0, .RW⟩]⟩
  | .HAY_PORT_PEERA => ⟨11, 0x18, 24, 0x1000, 1, 0x0, 8, 0x0, .pl1, .plain, [⟨63, 0, .RO⟩]⟩
  | .HAY_PORT_PEERB => ⟨11, 0x20, 24, 0x1000, 1, 0x0, 8, 0x0, .pl1, .plain, [⟨59, 48, .RO⟩, ⟨44, 40, .RO⟩, ⟨31, 16, .RO⟩, ⟨15, 8, .RO⟩, ⟨7, 0, .RO⟩]⟩
  | .HAY_PORT_BUF0 => ⟨11, 0x28, 24, 0x1000, 1, 0x0, 8, 0x300080080080080, .pl1, .plain, [⟨59, 48, .RWL⟩, ⟨47, 36, .RWL⟩, ⟨35, 24, .RWL⟩, ⟨23, 12, .RWL⟩, ⟨11, 0, .RWL⟩]⟩
  | .HAY_PORT_BUF1 => ⟨11, 0x30, 24, 0x1000, 1, 0x0, 8, 0x100080080100, .pl1, .plain, [⟨47, 36, .RWL⟩, ⟨35, 24, .RWL⟩, ⟨23, 12, .RWL⟩, ⟨11, 0, .RWL⟩]⟩
  | .HAY_PORT_RING => ⟨11, 0x38, 24, 0x1000, 1, 0x0, 8, 0x40000000000e4, .pl1, .plain, [⟨53, 48, .RWL⟩, ⟨31, 0, .RWL⟩]⟩
  | .HAY_PORT_TXFLITS => ⟨11, 0x100, 24, 0x1000, 1, 0x0, 8, 0x0, .pl1, .plain, [⟨63, 0, .RO⟩]⟩
  | .HAY_PORT_RXFLITS => ⟨11, 0x108, 24, 0x1000, 1, 0x0, 8, 0x0, .pl1, .plain, [⟨63, 0, .RO⟩]⟩
  | .HAY_PORT_FEC_CORR => ⟨11, 0x110, 24, 0x1000, 1, 0x0, 8, 0x0, .pl1, .plain, [⟨63, 0, .RO⟩]⟩
  | .HAY_PORT_CRC_ERR => ⟨11, 0x118, 24, 0x1000, 1, 0x0, 8, 0x0, .pl1, .plain, [⟨63, 0, .RO⟩]⟩
  | .HAY_PORT_REPLAYS => ⟨11, 0x120, 24, 0x1000, 1, 0x0, 8, 0x0, .pl1, .plain, [⟨63, 0, .RO⟩]⟩
  | .HAY_PORT_REFUSED => ⟨11, 0x128, 24, 0x1000, 1, 0x0, 8, 0x0, .pl1, .plain, [⟨63, 0, .RO⟩]⟩
  | .HAY_PORT_NACKS => ⟨11, 0x130, 24, 0x1000, 1, 0x0, 8, 0x0, .pl1, .plain, [⟨63, 0, .RO⟩]⟩
  | .HAY_PORT_TRANSIT => ⟨11, 0x138, 24, 0x1000, 1, 0x0, 8, 0x0, .pl1, .plain, [⟨63, 0, .RO⟩]⟩
  | .HAY_CHIP => ⟨11, 0xf000100, 1, 0x0, 1, 0x0, 8, 0x0, .pl1, .plain, [⟨11, 0, .RWL⟩]⟩
  | .HAY_CTL => ⟨11, 0xf000108, 1, 0x0, 1, 0x0, 8, 0x3e8000003e8, .pl1, .plain, [⟨47, 32, .RWL⟩, ⟨15, 0, .RWL⟩]⟩
  | .HAY_TOPO => ⟨11, 0xf000110, 1, 0x0, 1, 0x0, 8, 0x0, .pl1, .plain, [⟨63, 0, .RW⟩]⟩
  | .HAY_CTX => ⟨11, 0xf000200, 16, 0x8, 1, 0x0, 8, 0x0, .pl1, .prot, [⟨63, 63, .RW⟩, ⟨15, 0, .RW⟩]⟩
  | .HAY_TG => ⟨11, 0xf000400, 16, 0x8, 1, 0x0, 8, 0x0, .pl1, .prot, [⟨63, 63, .RW⟩, ⟨53, 48, .RW⟩, ⟨47, 32, .RW⟩, ⟨28, 24, .RW⟩, ⟨20, 16, .RW⟩]⟩
  | .HAY_MCG => ⟨11, 0xf000600, 64, 0x8, 1, 0x0, 8, 0x0, .pl1, .prot, [⟨63, 63, .RW⟩, ⟨62, 62, .RW⟩, ⟨57, 53, .RW⟩, ⟨47, 32, .RW⟩, ⟨23, 0, .RW⟩]⟩
  | .HAY_TIME_CTL => ⟨11, 0xf000800, 1, 0x0, 1, 0x0, 8, 0x0, .pl1, .plain, [⟨47, 32, .RWL⟩, ⟨12, 8, .RWL⟩, ⟨2, 2, .RWL⟩, ⟨1, 0, .RWL⟩]⟩
  | .HAY_TIME => ⟨11, 0xf000808, 1, 0x0, 1, 0x0, 8, 0x0, .pl1, .view, [⟨63, 0, .RO⟩]⟩
  | .HAY_TIME_STATUS => ⟨11, 0xf000810, 1, 0x0, 1, 0x0, 8, 0x0, .pl1, .plain, [⟨47, 32, .RO⟩, ⟨3, 3, .RO⟩, ⟨2, 2, .RO⟩, ⟨1, 1, .RO⟩, ⟨0, 0, .RO⟩]⟩
  | .HAY_TIME_FRAME => ⟨11, 0xf000818, 1, 0x0, 1, 0x0, 8, 0x0, .pl1, .row, [⟨47, 0, .RW⟩]⟩
  | .HAY_TIME_BADTICKS => ⟨11, 0xf000820, 1, 0x0, 1, 0x0, 8, 0x0, .pl1, .plain, [⟨63, 0, .RO⟩]⟩
  | .HAY_RT => ⟨11, 0xf100000, 16, 0x2000, 1024, 0x8, 8, 0x0, .pl1, .prot, [⟨63, 63, .RW⟩, ⟨62, 62, .RW⟩, ⟨61, 60, .RW⟩, ⟨52, 48, .RW⟩, ⟨47, 47, .RW⟩, ⟨46, 46, .RW⟩, ⟨45, 44, .RW⟩, ⟨36, 32, .RW⟩, ⟨31, 31, .RW⟩, ⟨30, 30, .RW⟩, ⟨29, 28, .RW⟩, ⟨20, 16, .RW⟩, ⟨15, 15, .RW⟩, ⟨14, 14, .RW⟩, ⟨13, 12, .RW⟩, ⟨4, 0, .RW⟩]⟩
  | .PWR_CAP => ⟨12, 0xf000100, 1, 0x0, 1, 0x0, 8, 0x96009d80e10, .pl1, .plain, [⟨47, 32, .RW⟩, ⟨31, 16, .RW⟩, ⟨15, 0, .RW⟩]⟩
  | .PWR_DVFS => ⟨12, 0xf000108, 1, 0x0, 1, 0x0, 8, 0x140000, .pl1, .plain, [⟨20, 16, .RW⟩, ⟨4, 0, .RW⟩]⟩
  | .PWR_PCAP => ⟨12, 0xf000140, 8, 0x8, 1, 0x0, 8, 0x0, .pl1, .plain, [⟨15, 0, .RW⟩]⟩
  | .PWR_THERM => ⟨12, 0xf000180, 1, 0x0, 1, 0x0, 8, 0x64, .pl1, .plain, [⟨7, 0, .RWS⟩]⟩
  | .PWR_HB => ⟨12, 0xf000188, 1, 0x0, 1, 0x0, 8, 0x0, .pl1, .row, [⟨63, 0, .WO⟩]⟩
  | .PWR_IDLE => ⟨12, 0xf000190, 1, 0x0, 1, 0x0, 8, 0x0, .pl1, .row, [⟨1, 0, .RW⟩]⟩
  | .PWR_STATUS => ⟨12, 0xf000200, 1, 0x0, 1, 0x0, 8, 0x0, .pl1, .view, [⟨63, 48, .RO⟩, ⟨47, 32, .RO⟩, ⟨31, 24, .RO⟩, ⟨20, 16, .RO⟩, ⟨13, 12, .RO⟩, ⟨11, 7, .RO⟩, ⟨6, 6, .RO⟩, ⟨5, 5, .RO⟩, ⟨4, 4, .RO⟩, ⟨3, 3, .RO⟩, ⟨2, 2, .RO⟩, ⟨1, 0, .RO⟩]⟩
  | .PWR_COOL => ⟨12, 0xf000208, 1, 0x0, 1, 0x0, 8, 0x0, .pl1, .view, [⟨47, 32, .RO⟩, ⟨31, 16, .RO⟩, ⟨15, 0, .RO⟩]⟩
  | .PWR_VIN => ⟨12, 0xf000210, 1, 0x0, 1, 0x0, 8, 0x0, .pl1, .view, [⟨15, 0, .RO⟩]⟩
  | .PWR_THROTTLE_CYC => ⟨12, 0xf000300, 1, 0x0, 1, 0x0, 8, 0x0, .pl1, .plain, [⟨63, 0, .RO⟩]⟩
  | .PWR_ENERGY_MJ => ⟨12, 0xf000308, 1, 0x0, 1, 0x0, 8, 0x0, .pl1, .plain, [⟨63, 0, .RO⟩]⟩
  | .PWR_HOLD_US => ⟨12, 0xf000310, 1, 0x0, 1, 0x0, 8, 0x0, .pl1, .plain, [⟨63, 0, .RO⟩]⟩
  | .CHF_CTL => ⟨13, 0xf000100, 1, 0x0, 1, 0x0, 8, 0x3e80064, .pl1, .plain, [⟨59, 59, .RWL⟩, ⟨58, 48, .RWL⟩, ⟨40, 40, .RWL⟩, ⟨31, 16, .RWL⟩, ⟨9, 0, .RWL⟩]⟩
  | .CHF_RING_CFG => ⟨13, 0xf000108, 1, 0x0, 1, 0x0, 8, 0x0, .pl1, .row, [⟨63, 63, .RW⟩, ⟨36, 32, .RW⟩, ⟨23, 0, .RW⟩]⟩
  | .CHF_RING_TAIL => ⟨13, 0xf000110, 1, 0x0, 1, 0x0, 8, 0x0, .pl1, .plain, [⟨63, 0, .RO⟩]⟩
  | .CHF_RING_HEAD => ⟨13, 0xf000118, 1, 0x0, 1, 0x0, 8, 0x0, .pl1, .plain, [⟨63, 0, .RW⟩]⟩
  | .CHF_STATUS => ⟨13, 0xf000120, 1, 0x0, 1, 0x0, 8, 0x4000000000000000, .pl1, .plain, [⟨63, 63, .RO⟩, ⟨62, 62, .RO⟩, ⟨61, 61, .RO⟩, ⟨60, 60, .RO⟩, ⟨47, 32, .RO⟩, ⟨16, 0, .RO⟩]⟩
  | .CHF_CE_BIN => ⟨13, 0xf000200, 1, 0x0, 1, 0x0, 8, 0x0, .pl1, .plain, [⟨63, 0, .RO⟩]⟩
  | .CHF_CE_CFG => ⟨13, 0xf000208, 1, 0x0, 1, 0x0, 8, 0x0, .pl1, .plain, [⟨63, 0, .RO⟩]⟩
  | .CHF_CE_CWY => ⟨13, 0xf000210, 1, 0x0, 1, 0x0, 8, 0x0, .pl1, .plain, [⟨63, 0, .RO⟩]⟩
  | .CHF_CE_SILO => ⟨13, 0xf000218, 1, 0x0, 1, 0x0, 8, 0x0, .pl1, .plain, [⟨63, 0, .RO⟩]⟩
  | .CHF_CE_CSRAM => ⟨13, 0xf000220, 1, 0x0, 1, 0x0, 8, 0x0, .pl1, .plain, [⟨63, 0, .RO⟩]⟩
  | .CHF_CE_HUB => ⟨13, 0xf000228, 1, 0x0, 1, 0x0, 8, 0x0, .pl1, .plain, [⟨63, 0, .RO⟩]⟩
  | .CHF_TRANSIENT => ⟨13, 0xf000230, 1, 0x0, 1, 0x0, 8, 0x0, .pl1, .plain, [⟨63, 0, .RO⟩]⟩
  | .CHF_LASTING => ⟨13, 0xf000238, 1, 0x0, 1, 0x0, 8, 0x0, .pl1, .plain, [⟨63, 0, .RO⟩]⟩
  | .CHF_FATAL => ⟨13, 0xf000240, 1, 0x0, 1, 0x0, 8, 0x0, .pl1, .plain, [⟨63, 0, .RO⟩]⟩
  | .CHF_LOST_LOW => ⟨13, 0xf000248, 1, 0x0, 1, 0x0, 8, 0x0, .pl1, .plain, [⟨63, 0, .RO⟩]⟩
  | .CHF_LOST_HIGH => ⟨13, 0xf000250, 1, 0x0, 1, 0x0, 8, 0x0, .pl1, .plain, [⟨63, 0, .RO⟩]⟩
  | .CHF_SLOT_FILLS => ⟨13, 0xf000258, 1, 0x0, 1, 0x0, 8, 0x0, .pl1, .view, [⟨63, 0, .RO⟩]⟩
  | .CHF_SLOT_DRAINS => ⟨13, 0xf000260, 1, 0x0, 1, 0x0, 8, 0x0, .pl1, .view, [⟨63, 0, .RO⟩]⟩
  | .CHF_SLOT_CLEARS => ⟨13, 0xf000268, 1, 0x0, 1, 0x0, 8, 0x0, .pl1, .view, [⟨63, 0, .RO⟩]⟩
  | .CHF_LED_CHECKS => ⟨13, 0xf000300, 6, 0x10, 1, 0x0, 8, 0x0, .pl1, .plain, [⟨63, 0, .RO⟩]⟩
  | .CHF_LED_FAILS => ⟨13, 0xf000308, 6, 0x10, 1, 0x0, 8, 0x0, .pl1, .plain, [⟨63, 0, .RO⟩]⟩
  | .CHF_FMAP_A => ⟨13, 0xf100000, 65536, 0x10, 1, 0x0, 8, 0x0, .pl1, .row, [⟨63, 63, .RO⟩, ⟨62, 62, .W1S⟩, ⟨59, 56, .RO⟩, ⟨47, 0, .RO⟩]⟩
  | .CHF_FMAP_B => ⟨13, 0xf100008, 65536, 0x10, 1, 0x0, 8, 0x0, .pl1, .plain, [⟨63, 0, .RO⟩]⟩
  | .HSP_STATUS => ⟨14, 0xf000100, 1, 0x0, 1, 0x0, 8, 0x0, .pl1, .plain, [⟨58, 56, .RO⟩, ⟨55, 52, .RO⟩, ⟨51, 50, .RO⟩, ⟨49, 49, .RO⟩, ⟨48, 48, .RO⟩, ⟨47, 47, .RO⟩, ⟨46, 46, .RO⟩, ⟨45, 44, .RO⟩, ⟨15, 0, .RO⟩]⟩
  | .HSP_LOCK => ⟨14, 0xf000108, 1, 0x0, 1, 0x0, 8, 0x0, .pl1, .row, [⟨0, 0, .W1S⟩]⟩
  | .HSP_KCMD => ⟨14, 0xf000110, 1, 0x0, 1, 0x0, 8, 0x0, .core2, .row, [⟨24, 0, .WO⟩]⟩
  | .HSP_RBC => ⟨14, 0xf000200, 64, 0x8, 1, 0x0, 8, 0x0, .pl1, .view, [⟨6, 0, .RO⟩]⟩
  | .HSP_PLOT_A => ⟨14, 0xf000400, 16, 0x8, 1, 0x0, 8, 0x0, .pl1, .prot, [⟨63, 63, .RW⟩, ⟨59, 56, .RW⟩, ⟨47, 32, .RW⟩, ⟨15, 0, .RW⟩]⟩
  | .HSP_DBG_CHAL => ⟨14, 0xf000500, 4, 0x8, 1, 0x0, 8, 0x0, .pl1, .row, [⟨63, 0, .RO⟩]⟩
  | .HSP_DBG_RESP => ⟨14, 0xf000520, 9, 0x8, 1, 0x0, 8, 0x0, .pl1, .row, [⟨63, 0, .WO⟩]⟩
  | .HSP_KSLOT_A => ⟨14, 0xf100000, 4096, 0x8, 1, 0x0, 8, 0x0, .pl1, .prot, [⟨63, 62, .RO⟩, ⟨61, 59, .RO⟩, ⟨58, 56, .RW⟩, ⟨55, 54, .RW⟩, ⟨53, 47, .RW⟩, ⟨46, 40, .RW⟩, ⟨39, 39, .RW⟩, ⟨31, 0, .RO⟩]⟩
  | .LOFT_ID => ⟨15, 0xf000100, 1, 0x0, 1, 0x0, 8, 0x64003020100, .pl1, .plain, [⟨47, 32, .RO⟩, ⟨31, 24, .RO⟩, ⟨23, 16, .RO⟩, ⟨15, 8, .RO⟩]⟩
  | .LOFT_SERIAL => ⟨15, 0xf000108, 1, 0x0, 1, 0x0, 8, 0x0, .pl1, .view, [⟨63, 0, .RO⟩]⟩
  | .LOFT_STATUS => ⟨15, 0xf000110, 1, 0x0, 1, 0x0, 8, 0x0, .pl1, .plain, [⟨63, 63, .RO⟩, ⟨62, 60, .RO⟩, ⟨55, 48, .RO⟩, ⟨47, 32, .RO⟩, ⟨31, 0, .RO⟩]⟩
  | .LOFT_CTL => ⟨15, 0xf000118, 1, 0x0, 1, 0x0, 8, 0x1, .pl1, .plain, [⟨16, 16, .RWS⟩, ⟨0, 0, .RWS⟩]⟩
  | .LOFT_RESET => ⟨15, 0xf000120, 1, 0x0, 1, 0x0, 8, 0x0, .pl1, .row, [⟨63, 48, .WO⟩, ⟨1, 1, .WO⟩, ⟨0, 0, .WO⟩]⟩
  | .LOFT_CAL_CTL => ⟨15, 0xf000128, 1, 0x0, 1, 0x0, 8, 0x0, .pl1, .row, [⟨1, 1, .WO⟩, ⟨0, 0, .WO⟩]⟩
  | .LOFT_EVT_LOST => ⟨15, 0xf000130, 1, 0x0, 1, 0x0, 8, 0x0, .pl1, .plain, [⟨63, 0, .RO⟩]⟩
  | .LOFT_MODEVT => ⟨15, 0xf000138, 1, 0x0, 1, 0x0, 8, 0x0, .pl1, .plain, [⟨6, 6, .W1C⟩, ⟨5, 5, .W1C⟩, ⟨4, 4, .W1C⟩, ⟨3, 3, .W1C⟩, ⟨2, 2, .W1C⟩, ⟨0, 0, .W1C⟩]⟩
  | .LOFT_MGMT_PINS => ⟨15, 0xf000140, 1, 0x0, 1, 0x0, 8, 0x0, .pl1, .view, [⟨10, 10, .RO⟩, ⟨9, 9, .RO⟩, ⟨8, 8, .RO⟩, ⟨7, 6, .RO⟩, ⟨5, 5, .RO⟩, ⟨4, 4, .RO⟩, ⟨2, 0, .RO⟩]⟩
  | .LOFT_CAL_F => ⟨15, 0xf010000, 528, 0x10, 1, 0x0, 8, 0x0, .pl1, .view, [⟨31, 0, .RO⟩]⟩
  | .LOFT_CAL_U => ⟨15, 0xf010008, 528, 0x10, 1, 0x0, 8, 0x0, .pl1, .row, [⟨63, 63, .RO⟩, ⟨31, 0, .RW⟩]⟩
  | .LOFT_SENS => ⟨15, 0xf020000, 768, 0x8, 1, 0x0, 8, 0x0, .pl1, .plain, [⟨63, 63, .RO⟩, ⟨62, 62, .RO⟩, ⟨31, 0, .RO⟩]⟩

def Reg.all0 : List Reg := [.CU_BLOCK_ID, .MU_BLOCK_ID, .LNK_BLOCK_ID, .SEED_BLOCK_ID, .BND_BLOCK_ID, .HOP_BLOCK_ID, .SILO_BLOCK_ID, .GRN_BLOCK_ID, .WIN_BLOCK_ID, .GLN_BLOCK_ID, .RDL_BLOCK_ID, .HAY_BLOCK_ID, .PWR_BLOCK_ID, .CHF_BLOCK_ID, .HSP_BLOCK_ID, .LOFT_BLOCK_ID, .CU_STATUS, .CU_PORTBIND, .CU_ISSUE_CYC, .CU_STALL_IN, .CU_STALL_OUT, .CU_NUMCTL, .CU_FLAGS, .CU_SR_SEED, .CU_CHAIN, .CU_PROG, .CU_KFILE, .MU_SLOTCTL, .MU_SLOTFAULT, .MU_DISCARD_BYTES]
def Reg.all1 : List Reg := [.MU_FETCH_REQ_BYTES, .MU_FETCH_LAND_BYTES, .MU_FETCH_FAIL_BYTES, .MU_WIN_NACKS, .MU_SLOT_FILLS, .MU_SLOT_DRAINS, .MU_SLOT_CLEARS, .MU_AG_STATUS, .MU_CONFLICT, .MU_AG_STALL_TAG, .MU_AG_STALL_BANK, .MU_AG_STALL_CREDIT, .MU_BUF, .MU_WIN, .MU_AG_DESC, .LNK_STATUS, .LNK_LASTSIG, .LNK_OSEL, .LNK_CRED, .LNK_JOIN, .LNK_JOIN_PAIRS, .LNK_JOIN_DROPS, .LNK_SIGNALS, .LNK_CREDIT_STALL, .LNK_RETRIES, .LNK_CWY_CTL, .LNK_CWY_TIMEOUTS, .SEED_PLOT_STATUS, .SEED_PLOT_BOUNDS, .SEED_PLOT_SAVEAREA]
def Reg.all2 : List Reg := [.SEED_PLOT_PREEMPT, .SEED_PLOT_FLAGS, .SEED_PLOT_RUNCYC, .SEED_PLOT_STALL_SILO, .SEED_PLOT_STALL_CWY, .SEED_PLOT_STALL_GRN, .SEED_PLOT_STALL_HAY, .SEED_PLOT_STALL_WIN, .SEED_PLOT_CFGWAIT, .SEED_PLOT_EPOCHS, .SEED_PLOT_PPM0, .SEED_PLOT_PPM1, .SEED_REMAP, .SEED_CTL, .SEED_LOAD_FAULT, .SEED_CFG_RING, .BND_CTX, .BND_SRAMWIN, .BND_RUN, .BND_STATUS, .BND_INSNS, .BND_CYCLES, .BND_CMDS, .BND_WAITCYC, .BND_SRAMSTALL, .BND_CTL, .HOP_QP_OWNER, .HOP_QP_CFG, .HOP_QP_SQBASE, .HOP_QP_CQBASE]
def Reg.all3 : List Reg := [.HOP_QP_PTRS, .HOP_QP_MOD, .HOP_QP_CTL, .HOP_QP_STAGEBASE, .HOP_QP_STAGEHEAD, .HOP_QP_CPOST0, .HOP_QP_CPOST1, .HOP_QP_FETCHED, .HOP_QP_CPL_WRITTEN, .HOP_QP_CPL_DISCARD, .HOP_QP_DBIGNORE, .HOP_FN_HMBASE, .HOP_FN_HMSIZE, .HOP_FN_BAR4, .HOP_FN_ARB, .HOP_LINK, .SILO_STATUS, .SILO_CE, .SILO_UE, .SILO_REPAIRS, .SILO_RH_TREFS, .SILO_RD_BYTES, .SILO_WR_BYTES, .SILO_SCRUB, .SILO_PMQ_CFG, .SILO_PMQ_DB, .SILO_PMQ_PTRS, .SILO_PMQ_ERR, .SILO_CACHE, .SILO_RGN_A]
def Reg.all4 : List Reg := [.SILO_RGN_B, .GRN_PORT_STATUS, .GRN_PORT_ID, .GRN_PORT_CTL, .GRN_TAG_ALLOC, .GRN_TAG_FREE, .GRN_REPLAYS, .GRN_CTL, .GRN_RING, .GRN_CAP, .GRN_EXTA, .GRN_EXTB, .WIN_CTL, .WIN_RING, .WIN_IN_PAGES, .WIN_IN_OK, .WIN_IN_FAIL, .WIN_OUT_PAGES, .WIN_OUT_OK, .WIN_OUT_FAIL, .WIN_OUT_BYTES, .WIN_AUTH_FAIL, .WIN_FLC_FAIL, .WIN_SHARD_REREAD, .WIN_SHARD_ALT, .WIN_Q_CFG, .WIN_Q_DB, .WIN_Q_PTRS, .WIN_Q_ERR, .HAY_Q_CFG]
def Reg.all5 : List Reg := [.HAY_Q_DB, .HAY_Q_PTRS, .HAY_Q_ERR, .WIN_MODEL_A, .WIN_MODEL_FN0, .WIN_MODEL_FN1, .WIN_WS_A, .WIN_WS_B, .WIN_AD_A, .WIN_AD_B, .GLN_CLS_CFG, .GLN_CLS_TGT, .GLN_CLS_STATUS, .GLN_CLS_HCTL, .GLN_CLS_ADMITTED, .GLN_CLS_REJECTED, .GLN_CLS_QTIMEOUT, .GLN_CLS_ENDED_OK, .GLN_CLS_ENDED_CANCELLED, .GLN_CLS_ENDED_FAILED, .GLN_CLS_TOKENS, .GLN_CLS_STALL_PAGES, .GLN_CLS_H_TTFT, .GLN_CLS_H_TPOT, .GLN_CLS_H_QWAIT, .GLN_CTL, .GLN_POOL, .GLN_PTAB, .GLN_PG_FREE, .GLN_PG_REQ]
def Reg.all6 : List Reg := [.GLN_PG_PFX, .GLN_PG_RSV, .GLN_RQ_ACCEPT, .GLN_RQ_END, .SIV_AREA, .SIV_ROWS, .SIV_BADROWS, .SIV_FALLBACKS, .SIV_DEADENDS, .SIV_SPEC_PROPOSED, .SIV_SPEC_ACCEPTED, .SIV_COMPACT, .GLN_MODEL_A, .GLN_MODEL_B, .GLN_MODEL_C, .GLN_MODEL_D, .GLN_MODEL_STEP, .GLN_MODEL_CNT, .SIV_MODEL_A, .SIV_MODEL_B, .GLN_REQ_A, .GLN_REQ_B, .GLN_PFX_A, .GLN_PFX_B, .SIV_KICK, .SIV_TREE, .RDL_CTX_CFG, .RDL_CTX_STATUS, .RDL_LED_ASSIGN, .RDL_LED_DISP]
def Reg.all7 : List Reg := [.RDL_LED_OVF, .RDL_LED_RECV, .RDL_LED_RET, .RDL_CAPCLAMP, .RDL_STALE_MSGS, .RDL_CTL, .RDL_EXP_ACC, .RDL_EXP_OVF, .HAY_PORT_STATUS, .HAY_PORT_CTL, .HAY_PORT_EXPECT, .HAY_PORT_PEERA, .HAY_PORT_PEERB, .HAY_PORT_BUF0, .HAY_PORT_BUF1, .HAY_PORT_RING, .HAY_PORT_TXFLITS, .HAY_PORT_RXFLITS, .HAY_PORT_FEC_CORR, .HAY_PORT_CRC_ERR, .HAY_PORT_REPLAYS, .HAY_PORT_REFUSED, .HAY_PORT_NACKS, .HAY_PORT_TRANSIT, .HAY_CHIP, .HAY_CTL, .HAY_TOPO, .HAY_CTX, .HAY_TG, .HAY_MCG]
def Reg.all8 : List Reg := [.HAY_TIME_CTL, .HAY_TIME, .HAY_TIME_STATUS, .HAY_TIME_FRAME, .HAY_TIME_BADTICKS, .HAY_RT, .PWR_CAP, .PWR_DVFS, .PWR_PCAP, .PWR_THERM, .PWR_HB, .PWR_IDLE, .PWR_STATUS, .PWR_COOL, .PWR_VIN, .PWR_THROTTLE_CYC, .PWR_ENERGY_MJ, .PWR_HOLD_US, .CHF_CTL, .CHF_RING_CFG, .CHF_RING_TAIL, .CHF_RING_HEAD, .CHF_STATUS, .CHF_CE_BIN, .CHF_CE_CFG, .CHF_CE_CWY, .CHF_CE_SILO, .CHF_CE_CSRAM, .CHF_CE_HUB, .CHF_TRANSIENT]
def Reg.all9 : List Reg := [.CHF_LASTING, .CHF_FATAL, .CHF_LOST_LOW, .CHF_LOST_HIGH, .CHF_SLOT_FILLS, .CHF_SLOT_DRAINS, .CHF_SLOT_CLEARS, .CHF_LED_CHECKS, .CHF_LED_FAILS, .CHF_FMAP_A, .CHF_FMAP_B, .HSP_STATUS, .HSP_LOCK, .HSP_KCMD, .HSP_RBC, .HSP_PLOT_A, .HSP_DBG_CHAL, .HSP_DBG_RESP, .HSP_KSLOT_A, .LOFT_ID, .LOFT_SERIAL, .LOFT_STATUS, .LOFT_CTL, .LOFT_RESET, .LOFT_CAL_CTL, .LOFT_EVT_LOST, .LOFT_MODEVT, .LOFT_MGMT_PINS, .LOFT_CAL_F, .LOFT_CAL_U]
def Reg.all10 : List Reg := [.LOFT_SENS]

/-- Every register. -/
def Reg.all : List Reg := Reg.all0 ++ Reg.all1 ++ Reg.all2 ++ Reg.all3 ++ Reg.all4 ++ Reg.all5 ++ Reg.all6 ++ Reg.all7 ++ Reg.all8 ++ Reg.all9 ++ Reg.all10

/-- Position of a register in the list: the major part of its key in the register file. -/
def Reg.idx (r : Reg) : Nat := r.ctorIdx

/-- Key of word `j` of instance `i` of a register in the register file. -/
def Reg.key (r : Reg) (i j : Nat) : Nat := (r.idx * 2 ^ 20 + i % 2 ^ 20) * 2 ^ 12 + j % 2 ^ 12

/-- Reset value of word `j` of instance `i` (PWR_PCAP's eight registers differ by R482: 3,600 W down in steps of
400 W, and 0 for level 7). -/
def Reg.resetAt (r : Reg) (i _j : Nat) : Word :=
  match r with
  | .PWR_PCAP => BitVec.ofNat 64 (if i = 7 then 0 else 3600 - 400 * i)
  | r => BitVec.ofNat 64 r.info.reset

/-- What an unlisted key of the register file reads as: the reset value of the register it names. -/
def regDefault (k : Nat) : Word :=
  match Reg.all[k / 2 ^ 32]? with
  | some r => r.resetAt (k / 2 ^ 12 % 2 ^ 20) (k % 2 ^ 12)
  | none => 0

/-- Whether a register is a counter that clears only on cold reset (R104, R148, R185, R216, R240, R342, R377, R406, R430,
R471, R496, R522, Tables 08.11, 09.12, 09.17 and 18.13). -/
def Reg.lasting (r : Reg) : Bool :=
  decide (r.info.kind = .plain ∧ r.info.fields = [⟨63, 0, .RO⟩] ∧
    r ∉ [Reg.CU_PROG, .GRN_PORT_ID, .GLN_MODEL_STEP, .HAY_PORT_PEERA, .CHF_RING_TAIL, .CHF_FMAP_B])

/-- Local address of word `j` of instance `i` (R28). -/
def Reg.addr (r : Reg) (i j : Nat) : Nat :=
  0xF00000000000 + r.info.sub * 0x10000000 + r.info.off + i * r.info.s1 + j * r.info.s2

/-- Whether offset `o` in a subsystem's CSR space falls in this register: its instance, word and byte offset. -/
def Reg.at? (r : Reg) (o : Nat) : Option (Nat × Nat × Nat) :=
  let f := r.info
  if o < f.off then none
  else
    let d := o - f.off
    let i := if f.s1 = 0 then 0 else d / f.s1
    let d1 := if f.s1 = 0 then d else d % f.s1
    let j := if f.s2 = 0 then 0 else d1 / f.s2
    let d2 := if f.s2 = 0 then d1 else d1 % f.s2
    if i < f.n1 ∧ j < f.n2 ∧ d2 < f.width then some (i, j, d2) else none

/-- The register a CSR local address names, with its indices and the byte offset in it; none for an offset no chapter
defines (R30). -/
def Reg.ofAddr (a : Nat) : Option (Reg × Nat × Nat × Nat) :=
  let sub := (a - 0xF00000000000) / 0x10000000
  let o := (a - 0xF00000000000) % 0x10000000
  Reg.all.findSome? fun r =>
    if r.info.sub = sub then (r.at? o).map fun p => (r, p.1, p.2.1, p.2.2) else none

/-- The mask of the bits of a register that some field with an access code in `l` covers. -/
def Reg.mask (r : Reg) (l : List Acc) : Word :=
  r.info.fields.foldl (fun m f =>
    if f.acc ∈ l then m ||| BitVec.ofNat 64 ((2 ^ (f.hi + 1 - f.lo) - 1) * 2 ^ f.lo) else m) 0

end Sys2Proof.Machine
end

