-- ==== Sys2Proof/Machine/Parts/Array.lean ====
section
/-!
DEFINITION. State of the array: transfers on links and in terminating queues (chapter 05), tiles with their active and
shadow configurations (chapter 06), threshers (chapter 03), bins with their generators, buffers and windows (chapter
04), and plots with their loads and runs (chapters 06 and 07). Registers proper live in the register file.
-/
namespace Sys2Proof.Machine
open Sys2Proof

/-- What a link transfer carries (R151). -/
inductive Payload where
  | beat (data : BitVec 512) (vc : Nat)  -- vector beat and its valid count
  | scalar (v : Word32)
  | token (t : BitVec 16)
  | eos                                  -- end-of-section transfer
deriving DecidableEq, Repr

/-- A transfer: payload, the sender's epoch parity EP, and its origin output for the credit's way home (R155).
`orig` is instance x 32 + output; `seq` numbers the transfers of that origin. -/
structure Xfer where
  pay : Payload
  ep : Bool
  orig : Nat
  seq : Nat
deriving DecidableEq, Repr

/-- A command of a core: core and ticket (R230). -/
structure CmdRef where
  core : Nat
  ticket : Nat
deriving DecidableEq, Repr

/-- One configuration of a tile: the 2,048-byte record (empty: the idle configuration of R187), the credit depth of
each origin output, the sheaf's seed and flag mode, the initial k values and section identifier of its sheaf. -/
structure TileCfg where
  record : List Byte
  depth : List Nat
  srSeed : Word32
  flagMode : Bool
  secId : Word
  kinit : List Word32
  writes : List Nat             -- link inputs of a memory tile that end a route there, by source code (Table 05.4)
deriving DecidableEq, Repr

def TileCfg.idle : TileCfg := ⟨[], [], 0, false, 0, [], []⟩

/-- A shadow slot's content: a configuration and the epoch its load took (R193). -/
structure Shadow where
  cfg : TileCfg
  epoch : Byte
deriving DecidableEq, Repr

/-- A tile: its steering unit's queues and credits, and its configuration slots.
Queue numbers: 12-17 as the outputs of Table 05.3, 20 + source code for a link given to a WRITE, 30 + 2j and 31 + 2j
for join j's data and token buffers, 34 for the injection queue. -/
structure Tile where
  active : TileCfg
  epoch : Byte
  shadow : Option Shadow
  incoming : List (Shadow × Bool)  -- loads accepted whose last word has not landed; true for a re-run marker (R190)
  queues : NMap (List Xfer)    -- terminating queues, oldest first
  flight : NMap (List Xfer)    -- transfers sent on an origin output and not yet delivered
  sent : Nat                   -- transfers this tile has originated
  owed : NMap Nat              -- by sequence number: branches whose copy has not left its queue
  credBack : NMap Nat          -- credits on their way back, by origin output
  retry : List Nat             -- origin outputs whose head transfer is being resent
  eosDone : List Nat           -- queues whose end-of-section transfer was consumed, and 100 + output passed through
  jcount : NMap Nat            -- data transfers paired so far under the head token of each join
  eosSent : List Nat           -- origin outputs on which this bin has sent end-of-section
  drained : Bool               -- the abort drain is over here (R199)
  aborting : Bool              -- the section is being aborted: queued data is discarded, nothing more is sent
  fenced : Bool
  cfgLeft : List Nat           -- 256-byte parts of the oldest incoming record still under way on the cartway (R192)
deriving DecidableEq, Repr

def Tile.reset : Tile :=
  ⟨TileCfg.idle, 0, none, [], [], [], 0, [], [], [], [], [], [], false, false, false, []⟩

/-- An entry of the DOWN path between two stages: sixteen lane values and how many lead as valid, or end of section. -/
inductive DownItem where
  | grp (lanes : List Word32) (v : Nat)
  | eos
deriving DecidableEq, Repr

/-- One stage of a thresher: pipeline registers (unwritten since the switch: none), accumulators and block partials by
register x 16 + lane, predicates, the sequencer of R89, and the COMPRESS and EXPAND buffers. -/
structure Stage where
  t : NMap (Option Word32)
  acc : NMap Word32
  part : NMap FVal
  pred : NMap Bool
  inPass : Bool
  ended : Bool
  w : Nat
  rep : Nat
  cnt : List Nat
  lim : List Nat
  down : List DownItem
  pack : List Word32
  packed : Nat
  exp : List Word32
  expBad : Bool
  expOn : Bool              -- the group at the head of EXPAND's SRC1 is in use and not yet used up (R94)
  partF : NMap Flags        -- flags met while a block partial gathers, raised with the block (R39, R86)
deriving DecidableEq, Repr

def partDefault : FVal := .num false 0 0

def Stage.reset : Stage := ⟨[], [], [], [], false, false, 0, 0, [0, 0, 0], [0, 0, 0], [], [], 0, [], false, false, []⟩

/-- A captured output tile waiting for or in readout (R100): 256 raw accumulators in column-major order, and the beats
already converted and not yet sent. -/
structure TileBuf where
  vals : List Word32
  started : Bool
  beats : List (BitVec 512 × Nat)
  fmt : Nat
  rm : Nat
deriving DecidableEq, Repr

/-- A thresher. `gen` counts the switches, and names which undefined values t0-t15 hold (R64). -/
structure Cu where
  stages : NMap Stage
  lfsr : NMap Word32
  kAct : NMap Word32
  kStg : NMap Word32
  viIdx : NMap Nat              -- groups already read of the head beat of each VI port
  vo : NMap (List Word32)       -- elements collected for the next beat of each VO port
  voV : NMap Nat                -- how many of them count as valid
  voT : NMap Nat                -- beats sent by matrix readout, for the alternation of Table 03.9
  gen : Nat
  mq : Nat                      -- matrix mode: chunks already issued of the tile in progress
  mkb : Nat                     -- KB of the tile in progress
  mtile : List TileBuf          -- captured tiles, oldest first, at most two
deriving DecidableEq, Repr

def lfsrDefault (lane : Nat) : Word32 := lfsrLoad 1 lane

def Cu.reset : Cu := ⟨[], [], [], [], [], [], [], [], 0, 0, 0, []⟩

/-- A cartway request of a stream that has not been answered: its stream epoch, address, length, where its bytes land
in the bin, the slot visit it belongs to, whether it is the single repeat of R130, and the elements it carries. -/
structure BinReq where
  id : Nat
  epoch : Byte
  addr : Nat
  len : Nat
  dest : Nat
  visit : Nat
  repeated : Bool
  k0 : Nat               -- first element
  n : Nat                -- elements
  data : List Byte       -- a FLUSH write's bytes
  nack : Nat             -- the status with which a FLUSH write's target on this chip refused it or failed, else 0
  ans : Option (Nat × Nat × List Byte)   -- another chip's answer: packet type, status, data
deriving DecidableEq, Repr

/-- A stream in a generator: its descriptor, the command that issued it, the next element, and the visit in progress
(slot + 1, 0 for none). -/
structure Stream where
  desc : BitVec 512
  cmd : Option CmdRef
  pos : Nat
  visit : Nat
  vbytes : Nat                  -- bytes already placed in the current slot visit (FETCH, FLUSH)
  taken : Option (BitVec 512 × Nat)  -- a WRITE's current beat
  packB : List Byte             -- a READ's beat under construction
  packV : Nat                   -- its valid bytes
  packBad : Bool                -- a tail byte under INVALID has been met
  vend : List Nat               -- visits whose last request is issued and whose responses are awaited
deriving DecidableEq, Repr

def Stream.start (d : BitVec 512) (c : Option CmdRef) : Stream := ⟨d, c, 0, 0, 0, none, [], 0, false, []⟩

/-- An address generator. -/
structure Gen where
  active : Option Stream
  queued : Option Stream
  held : Option (Stream × Byte)     -- an issue held for the armed shadow of that epoch (R233)
  epoch : Byte
  reqs : List BinReq                -- outstanding requests and writes, every epoch
  reuse : Bool                      -- held for epoch reuse (R126)
  st : Nat                          -- MU_AGn_STATUS.STATE while a stream is present
  ttl : Nat                         -- consecutive cycles held by one tag check
  rd : Option (Bool × Nat)          -- an access whose detected error is being repeated
deriving DecidableEq, Repr

def Gen.reset : Gen := ⟨none, none, none, 0, [], false, 0, 0, none⟩

/-- A remote write accepted by a window and not yet landed (R146). -/
structure WinWrite where
  win : Nat
  off : Nat
  bytes : List Byte
deriving DecidableEq, Repr

/-- A write that closes a window and is not complete (R146): the window, and the core that wrote + 1 (0 another agent). -/
structure WinClose where
  win : Nat
  by_ : Nat
deriving DecidableEq, Repr

/-- A bin: generators, slot tags (one bit per bank word), bank pointers, ring pointers of FETCH and FLUSH buffers,
window writes in progress and closes awaiting them, and row spares in use. -/
structure Mu where
  gens : NMap Gen
  tags : NMap Bool
  ptr : NMap Nat
  fill : NMap Nat
  drain : NMap Nat
  wins : List WinWrite
  closing : List WinClose
  spares : NMap Nat                -- bank: spare rows used
  rowMap : NMap Nat                -- bank x 256 + row: spare index + 1
  ceRow : NMap (List Nat)          -- times of the corrected errors of a row (R505)
  nextReq : Nat
deriving DecidableEq, Repr

def Mu.reset : Mu := ⟨[], [], [], [], [], [], [], [], [], [], 0⟩

/-- A load of a plot: epoch, command, sheaf address, cheap-point number, whether it is armed, re-run, and whether its
shadow is valid everywhere. -/
structure LoadRec where
  epoch : Byte
  cmd : CmdRef
  sheaf : Nat
  cp : Nat
  armed : Bool
  rerun : Bool
  valid : Bool
  flagMode : Bool
  secId : Word
  live : List (Nat × Nat × Nat)   -- ranges live at its cheap point: logical bin, first word, words
  kLive : Bool
deriving DecidableEq, Repr

/-- A run: the load that began it, the command that armed it, its status so far, whether its CLOSE was sent, whether
its flag word is visible, and the cheap point it is marked as with what is live there. -/
structure Run where
  epoch : Byte
  cmd : CmdRef
  status : Nat
  closed : Bool
  flagMode : Bool
  flagsSeen : Bool
  flags : Flags
  folded : List Nat        -- threshers whose flags were folded (R59)
  cp : Nat
  sheaf : Nat
  secId : Word
  started : Bool
  live : List (Nat × Nat × Nat)
  kLive : Bool
  left : Bool              -- a unit that consumed its end-of-section transfer has switched on (R208)
deriving DecidableEq, Repr

/-- A plot. `pre` is the pre-emption request in progress: 0 none, 1 waiting or bound, 2 held and saving, 3 restoring. -/
structure Plot where
  lastEpoch : Byte
  loads : List LoadRec
  runs : List Run
  sheaf : Nat              -- address of the last sheaf
  pre : Nat
  bound : Option Byte      -- epoch of the run a save is bound to
  ended : Option Run       -- that run, once it has ended (R209)
  deadline : Nat
  remapPending : Bool
  preStat : Nat            -- STATE 4 to 7 while a pre-emption holds the plot, else 0
  forced : Bool
  pstatus : Nat            -- LAST_PSTATUS
  intf : NMap Nat          -- counters at the start of the interference window
  faults : List Nat        -- faults that have reached the seeder, status x 256 + epoch, not acted on (R131, R133)
  remapped : Bool          -- a remap was applied since the last full load (R207)
  preDone : Nat            -- end-of-window time of interference counting: run cycles at its start
deriving DecidableEq, Repr

def Plot.reset : Plot := ⟨0, [], [], 0, 0, none, none, 0, false, 0, false, 0, [], [], false, 0⟩

end Sys2Proof.Machine
end

