-- ==== Sys2Proof/Machine/Parts/Binder.lean ====
section
/-!
DEFINITION. State of the binders (chapter 07): registers, core control registers, command queue and completions.
-/
namespace Sys2Proof.Machine
open Sys2Proof

/-- A command between enqueue and completion: its ticket, its eight 64-bit words, and how far it has come (0 in the
queue, 1 accepted by its target, 2 begun there), with the epoch it acts under once assigned. -/
structure Cmd where
  ticket : Nat
  words : List Word
  phase : Nat
  epoch : Byte
  sub : Nat             -- MATRIX: the step it has reached; WAIT: when it began
deriving DecidableEq, Repr

/-- Why a core waits (BND_STATUS.STATE). -/
inductive CoreState where
  | halted | running | wfe | await | enqueue | memory | division | doubleTrap
deriving DecidableEq, Repr

def CoreState.code : CoreState → Nat
  | .halted => 0 | .running => 1 | .wfe => 2 | .await => 3
  | .enqueue => 4 | .memory => 5 | .division => 6 | .doubleTrap => 7

/-- A binder. `regs` holds s1-s31, `cc` the core control registers by number but for CC_MODE, CC_TIME and CC_CORE. -/
structure Core where
  regs : NMap Word
  pc : Nat
  monitor : Bool
  cc : NMap Word
  state : CoreState
  nextTicket : Nat
  kinds : NMap Nat               -- CMD code of each ticket used (for EREF, R236)
  cmds : List Cmd
  arriving : List (Nat × Word)   -- completions sent and not yet arrived, oldest first
  done : List (Nat × Word)       -- readable completions (R230)
  cqHalt : Bool
  alist : Nat                    -- entries of the current ALIST already enqueued
  alistAt : Nat                  -- which ALIST they belong to: pc + 1, plus 2^20 in monitor mode; 0 none
  awaitReg : Nat                 -- destination of the AWAIT in progress
  awaitTicket : Nat              -- its ticket; for a remote access in progress its gateway tag
deriving DecidableEq, Repr

def Core.reset : Core := ⟨[], 0, true, [], .halted, 0, [], [], [], [], false, 0, 0, 0, 0⟩

end Sys2Proof.Machine
end

