-- ==== Sys2Proof/Machine/Parts/Cartway.lean ====
section
/-!
DEFINITION. Packets under way on the cartway (R174) and items in the crossings between clock domains (R18).
-/
namespace Sys2Proof.Machine
open Sys2Proof

/-- A cartway packet: header and payload flits. -/
structure CwPkt where
  hdr : BitVec 256
  pay : List (BitVec 256)
deriving DecidableEq, Repr

/-- An item in a dual-clock FIFO or synchroniser: a seed or a k value on its way to a thresher, event bits on their way
to a core. `by_` is the core that wrote a seed + 1 (0 another agent); `tag` names the BCAST command of a k value, core x 65,536 + ticket. -/
inductive CrossItem where
  | seed (unit : Nat) (v : Word32) (by_ : Nat)
  | kval (unit : Nat) (idx : Nat) (v : Word32) (tag : Nat)
  | event (core : Nat) (bits : Word)
deriving DecidableEq, Repr

end Sys2Proof.Machine
end

