-- ==== Sys2Proof/Machine/Parts/Chaff.lean ====
section
/-!
DEFINITION. The error record of Table 16.3 as the subsystems raise it and the chaff keeps it.
-/
namespace Sys2Proof.Machine
open Sys2Proof

/-- An error record (R510). SEQ and SUPP are filled in when the append point takes it. -/
structure ErrRec where
  seq : Nat
  time : Nat
  code : Nat
  sev : Nat
  src : Nat
  inst : Nat
  strct : Nat
  flags : Nat
  ctx : Nat
  cfgEpoch : Nat
  supp : Nat
  fence : Nat
  addr : Nat
  detail0 : Nat
  detail1 : Nat
deriving DecidableEq, Repr

end Sys2Proof.Machine
end

