-- ==== Sys2Proof/Machine/Parts/Hasp.lean ====
section
/-!
DEFINITION. State of the hasp (chapter 17).
-/
namespace Sys2Proof.Machine
open Sys2Proof

/-- A firmware image copy in the boot flash (R533, Table 17.4): its 256-byte header, its body, and whether an update has
marked it invalid (R564). -/
structure FwImage where
  hdr : List Byte
  body : List Byte
  invalid : Bool
deriving DecidableEq, Repr

/-- An SPDM connection (R540): how far GET_VERSION, GET_CAPABILITIES and NEGOTIATE_ALGORITHMS have come, 0 to 3, and the
messages exchanged that a signature covers: of those three, of digests and certificates, of measurements. -/
structure SpdmConn where
  stage : Nat
  vca : List Byte
  certs : List Byte
  meas : List Byte
deriving DecidableEq, Repr

/-- A protection-table write on its way to the checkers (R527, R530): register position, instance, word, value, and the bits
that the access covers. -/
structure ProtWrite where
  reg : Nat
  i : Nat
  j : Nat
  v : Word
  m : Word
  by_ : Nat              -- the core that wrote it + 1, 0 for another agent (R226)
deriving DecidableEq, Repr

/-- The hasp. `keys` holds the key bytes of a slot: 32 of an AES-256 key, 64 of a P-256 public key (R543, R545); `staged`
the staged B registers and routing words by register-file key (R529); `wrq` the writes not yet applied, oldest first; `rbc`
the anti-rollback fuses blown, by counter (R537); `rev0`, `rev1` the revoke bits (R534); `nonce` the current debug nonce,
`resp` the response words written, `nounwrap` that a debug level has been opened since cold reset (R549); `flash` image copies
written by updates, by type x 2 + copy; `run` the headers of the running images by type; `meas` measurements 1 to 7; `cdi0`,
`cdi1` the compound identifiers (R538); `conn` the SPDM connections (0 SMBus, 1 DOE). -/
structure HaspSt where
  keys : NMap (List Byte)
  staged : NMap (Option Word)
  wrq : List ProtWrite
  rbc : NMap Nat
  rev0 : Bool
  rev1 : Bool
  nonce : List Byte
  resp : NMap Word
  nounwrap : Bool
  flash : NMap (Option FwImage)
  run : NMap (List Byte)
  meas : NMap (List Byte)
  cdi0 : List Byte
  cdi1 : List Byte
  conn : NMap SpdmConn
deriving DecidableEq, Repr

def HaspSt.reset : HaspSt := ⟨[], [], [], [], false, false, [], [], false, [], [], [], [], [], []⟩

end Sys2Proof.Machine
end

