-- ==== Sys2Proof/Machine/Parts/Hopper.lean ====
section
/-!
DEFINITION. State of the hopper (chapter 08): entries taken from submission rings, queue pairs, arbitration pointers and
MSI-X vectors.
-/
namespace Sys2Proof.Machine
open Sys2Proof

/-- An entry of a submission ring. `st`: 0 its fetch read is outstanding, 1 the read has returned, 2 handed to its
consumer, 3 finished with `status` and `result`. `head` is the SQ head after it, `order` when it was handed over, `doneAt`
when it finished, `det` that the queue pair has changed owner since (R262), `sub` how far its consumer has come, `bad`
that a host-memory read of it has failed once (R247). -/
structure QEnt where
  id : Nat
  bytes : List Byte
  fn : Nat
  cls : Nat
  st : Nat
  status : Nat
  result : Nat
  head : Nat
  order : Nat
  doneAt : Nat
  det : Bool
  sub : Nat
  bad : Bool
  done : List Nat
deriving DecidableEq, Repr

/-- A queue pair: entries not yet completed, the phase of the completion ring, completions pending a message with the
time of the oldest and whether one has an error status, whether it is being disabled, the DELETE_QP of its own that cuts
it, whether the next ENABLE records QP_REASSIGNED, and the staging ring's tail and occupancy. -/
structure Qp where
  ents : List QEnt
  phase : Bool
  pend : Nat
  pendAt : Nat
  pendErr : Bool
  stopping : Bool
  cut : Option Nat
  reassigned : Bool
  stTail : Nat
  stUsed : Nat
deriving DecidableEq, Repr

def Qp.reset : Qp := ⟨[], true, 0, 0, false, false, none, false, 0, 0⟩

/-- The hopper. `live` lists the queue pairs that are not DISABLED; vectors are keyed by function x 2048 + vector. -/
structure HopSt where
  qps : NMap Qp
  live : List Nat
  adminPtr : Nat
  fnPtr : Nat
  fnCnt : Nat
  qPtr : NMap Nat
  no : Nat
  unmasked : NMap Bool
  pba : NMap Bool
  vtab : NMap (BitVec 32)     -- (function x 2048 + vector) x 4 + word: message address and data
  sent : NMap Nat             -- messages sent, by vector
  bar4 : NMap Nat             -- size of each function's BAR4, as log2 of GiB (Table 08.2)
  hostBad : NMap Nat          -- failed reads of a 4 KiB bus page: 1 being repeated, 2 failed lastingly (R247)
deriving DecidableEq, Repr

def HopSt.reset : HopSt := ⟨[], [], 0, 0, 0, [], 0, [], [], [], [], [], []⟩

end Sys2Proof.Machine
end

