-- ==== Sys2Proof/Machine/Parts/Loft.lean ====
section
/-!
DEFINITION. State of the loft (chapters 18 and 19): power-on sequence, persistent store, platform events, management
and the wicket monitor.
-/
namespace Sys2Proof.Machine
open Sys2Proof

/-- A platform event (R563, R583): kind 0 an error record, 1 Ready, 2 a power state with its number and whether it was
entered, 3 a LOFT_MODEVT bit; `fatal` for FATAL records. `num` is the code, state or bit. -/
structure PlatEvt where
  kind : Nat
  num : Nat
  on : Bool
  fatal : Bool
  bytes : List Byte
deriving DecidableEq, Repr

/-- A firmware update in progress (R564): image type, copy being written, bytes received. -/
structure FwUpd where
  typ : Nat
  copy : Nat
  got : List Byte
deriving DecidableEq, Repr

/-- What the block last answered on its management paths: path (1 SMBus, 2 PCIe DOE, 3 wicket), status, words, bytes. -/
structure Reply where
  path : Nat
  status : Nat
  words : List Word
  bytes : List Byte
deriving DecidableEq, Repr

/-- The loft. `log` is the persistent log (R568), oldest first, of 64-byte records, `logNo` how many were ever appended;
`evq` the platform event queue; `fstoreA`, `fstoreB`, `fstoreN` the persistent store's copies of fence-map entries, A and B
words by index, with their number; `calSaved` the saved user table (R567); `revFlag` the reversal flag (R584); `slot` the
sampled SLOT_ID; `baud` the wicket's rate; `done` the steps of Table 18.2 completed since the last reset, `anchor` the time of
the anchor A + 1, 0 until it is set; `off` that the input is below 35 V; `mreset`, `perst` that those pins are held low; `upd`
the update in progress, `checked` images received whole, `activate` those whose activation awaits the next warm reset; `eid`
the MCTP endpoint, `tid` the PLDM terminus; `mv` the last input average, raw; `reply` the last answer; `ended` that a failed step ended the sequence
(R556); `printed` the boot lines the wicket has printed since the last reset (R569): the step, the milliseconds from A, the
status. -/
structure LoftSt where
  log : List (List Byte)
  logNo : Nat
  evq : List PlatEvt
  fstoreA : NMap Word
  fstoreB : NMap Word
  fstoreN : Nat
  calSaved : NMap Word
  revFlag : Bool
  slot : Nat
  baud : Nat
  done : List Nat
  anchor : Nat
  off : Bool
  mreset : Bool
  perst : Bool
  upd : Option FwUpd
  checked : List Nat
  activate : List Nat
  eid : Nat
  tid : Nat
  mv : Nat
  reply : Reply
  ended : Bool
  printed : List (Nat × Nat × Nat)
deriving DecidableEq, Repr

def Reply.none : Reply := ⟨0, 0, [], []⟩

def LoftSt.reset : LoftSt :=
  ⟨[], 0, [], [], [], 0, [], false, 3, 115200, [], 0, false, false, false, none, [], [], 0, 0, 48000, .none, false, []⟩

end Sys2Proof.Machine
end

