-- ==== Sys2Proof/Machine/Parts/Power.lean ====
section
/-!
DEFINITION. State of the power and thermal manager (chapter 15).
-/
namespace Sys2Proof.Machine
open Sys2Proof

/-- A step change under way (R474, R475): the step it leads to, the step it left, and the measurements of the tick that
chose it, array dynamic power and the other parts' draw in W. -/
structure StepChg where
  to_ : Nat
  from_ : Nat
  dyn : Nat
  oth : Nat
deriving DecidableEq, Repr

/-- The power and thermal manager. `thr` is the throttle level, `low10` the consecutive samples below 95 % of the cap, `cap`
the effective cap of the current sample (R477), `cyc` the array cycle count modulo 16 (R479), `uj` energy below 1 mJ, `pin`
the 1 ms average with the running sum and count of its samples, `step` the DVFS step, `chg` a change under way, `ceil` the
ladder's ceiling with `coolMs` the milliseconds since it last moved up, `pcap` the level the pins select, `sagGood`, `lowN`
and `highN` counts of consecutive averages (R487, R488), `ladder` the ladder step, `floor` the state of R483, `idle` 0, 2 or
3 as PWR_STATUS.IDLE codes deep idle and waking, `tj` the highest junction reading in 0.1 degrees + 1,000. -/
structure PwrSt where
  thr : Nat
  low10 : Nat
  cap : Nat
  cyc : Nat
  uj : Nat
  pin : Nat
  msSum : Nat
  msN : Nat
  step : Nat
  chg : Option StepChg
  ceil : Nat
  coolMs : Nat
  pcap : Nat
  orphan : Bool
  sag : Bool
  sagGood : Nat
  lowN : Nat
  highN : Nat
  ladder : Nat
  floor : Bool
  idle : Nat
  tripped : Bool
  halted : Bool
  tj : Nat
deriving DecidableEq, Repr

/-- After a reset: throttle level 0, step 0, ceiling 20, cap 3,600 W, pins 0. -/
def PwrSt.reset : PwrSt :=
  ⟨0, 0, 3600, 0, 0, 0, 0, 0, 0, none, 20, 0, 0, false, false, 0, 0, 0, 0, false, 0, false, false, 0⟩

end Sys2Proof.Machine
end

