-- ==== Sys2Proof/Machine/Parts/Tiers.lean ====
section
/-!
DEFINITION. State of the silo, its cache regions and the granary ports (chapter 09).
-/
namespace Sys2Proof.Machine
open Sys2Proof

/-- A frame of a cache region in use (R302): its key, whether it is being filled or stale, its pins and when it was last
looked up. -/
structure Frame where
  obj : Nat
  page : Nat
  ver : Nat
  filling : Bool
  stale : Bool
  pins : Nat
  used : Nat
deriving DecidableEq, Repr

/-- A granary request with its tag: RD or WR, remote address, 256-byte units, requester, whether it is the single repeat
(R295), the time it was sent, and what a WR carries. -/
structure GrnReq where
  tag : Nat
  wr : Bool
  raddr : Nat
  units : Nat
  who : Nat
  again : Bool
  sentAt : Nat
  data : List Byte
deriving DecidableEq, Repr

/-- A flit group in the replay store (R291, R294): its sequence number, whether it has been replayed, its control flit (Table 09.8)
and its data flits. -/
structure GrnGroup where
  seq : Nat
  again : Bool
  ctl : List Byte
  data : List (List Byte)
deriving DecidableEq, Repr

/-- A granary port (R293, R294, R296): credits held, requests outstanding and quarantined, repeats waiting to be sent, the
next sequence numbers of both directions, groups not yet acknowledged, whether the far end has been asked to resend and whether
the next control flit is to ask it, responses whose data is still to come (tag, status, units left, bytes so far), the
appliance's capacity and the credits it advertised (R299). -/
structure GrnPort where
  msgCr : Nat
  dataCr : Nat
  out : List GrnReq
  quar : List Nat
  again : List GrnReq
  txSeq : Nat
  rxSeq : Nat
  replay : List GrnGroup
  nackSent : Bool
  nackDue : Bool
  rx : List (Nat × Nat × Nat × List Byte)
  capacity : Nat
  advMsg : Nat
  advData : Nat
deriving DecidableEq, Repr

def GrnPort.reset : GrnPort := ⟨0, 0, [], [], [], 0, 0, [], false, false, [], 0, 0, 0⟩

/-- The storage tiers. Rows are named by silo address / 1,024, banks by bits [25:10] of the address. -/
structure TierSt where
  acts : NMap Nat                 -- activations of a row: refresh window x 2048 + count
  openRow : NMap Nat              -- row + 1 open in each bank
  hot : List Nat                  -- rows whose neighbours wait for a refresh slot
  ce : NMap (List Nat)            -- times of the corrected errors of a row
  spares : NMap Nat               -- spare rows used in each bank
  rowMap : NMap Nat               -- row: spare + 1
  fixing : List Nat               -- rows being repaired
  bad : List Nat                  -- lines that a repair could not correct
  scrubbed : NMap Nat             -- lines scrubbed in the current pass, by stack
  frames : NMap (Option Frame)    -- region x 2^20 + frame
  ports : NMap GrnPort
  siloPtr : NMap Nat              -- ring pointer of each stack's intake (R267)
  grnPtr : NMap Nat               -- ring pointer of each granary port's intake (R298)
deriving DecidableEq, Repr

def TierSt.reset : TierSt := ⟨[], [], [], [], [], [], [], [], [], [], [], [], []⟩

end Sys2Proof.Machine
end

