-- ==== Sys2Proof/Machine/Parts/Winnower.lean ====
section
/-!
DEFINITION. State of the winnower (chapter 10): page operations in flight, loads, models, and the keys of the hasp's key
store that it uses (chapter 17).
-/
namespace Sys2Proof.Machine
open Sys2Proof

/-- A page operation in flight (R308 to R311): its requester (kind x 128 + number), where it came from (winnower ring and
entry, or ring 16 and a cache frame), the lower tier's and the silo's address, the identity of the page, its stored
length, and the key it read when it started. `again` marks the single reread of R324. -/
structure WPage where
  id : Nat
  fn : Nat
  ring : Nat
  ent : Nat
  out : Bool
  lower : Nat
  silo : Nat
  obj : Nat
  page : Nat
  ver : Nat
  slen : Nat
  enc : Bool
  wcode : Nat
  key : List Byte
  again : Bool
deriving DecidableEq, Repr

/-- A shard in flight (R329, R330): its number, the attempt (0 PRIMARY, 1 PRIMARY again, 2 ALTERNATE), when its clock
started, the bytes a broadcast brought, and the statuses of the attempts that failed. -/
structure Shard where
  idx : Nat
  attempt : Nat
  since : Nat
  got : Option (List Byte)
  fails : List Nat
deriving DecidableEq, Repr

/-- A load (R329): ring and entry of its operation, requester, whether it is an adapter's, handle, adapter id, manifest,
weight set or adapter slot, first image page, broadcast word, shards still to start, those in flight, and the status that
failed it. -/
structure Load where
  id : Nat
  ring : Nat
  ent : Nat
  fn : Nat
  adapter : Bool
  model : Nat
  aid : Nat
  man : List Byte
  slot : Nat
  base : Nat
  bcast : Nat
  next : Nat
  live : List Shard
  failed : Nat
deriving DecidableEq, Repr

/-- A model handle (R333 to R340): its sets, the operation in progress (0 none, 1 SWITCH, 2 SWITCH with DRAIN, 3 UNLOAD)
with its entry, manifest and broadcast word, whether admission closes at the next step, is closed (1 by a drain, 2 by an
UNLOAD), whether a drained SWITCH waits for its pages, whether the pending set is ready, whether the model is unavailable,
bindings of adapter ids to slot + 1, and changes of binding that wait (adapter id, slot + 1 or 0, ring, entry). -/
structure WModel where
  cur : Option Nat
  rets : List Nat
  pend : Option Nat
  op : Nat
  ring : Nat
  ent : Nat
  fn : Nat
  man : List Byte
  bcast : Nat
  closing : Bool
  closed : Nat
  wants : Bool
  ready : Bool
  unavail : Bool
  binds : NMap Nat
  pbinds : List (Nat × Nat × Nat × Nat)
deriving DecidableEq, Repr

def WModel.reset : WModel := ⟨none, [], none, 0, 0, 0, 0, [], 0, false, 0, false, false, false, [], []⟩

/-- The winnower. `info` holds the
MODEL_ID and the manifest's SHA-256 of each weight set held; `ringPtr` is the pointer of the intake's ring (R312). -/
structure WinSt where
  no : Nat
  pages : List WPage
  loads : List Load
  models : NMap WModel
  info : NMap (Nat × List Byte)
  ringPtr : Nat
deriving DecidableEq, Repr

def WinSt.reset : WinSt := ⟨0, [], [], [], [], 0⟩

end Sys2Proof.Machine
end

