-- ==== Sys2Proof/Machine/State.lean ====
section
/-!
DEFINITION. The state of the Gathal as plain data: the register file, the memories, and one part per subsystem; the
queue of commands waiting; the reasons a step can stop; the state after a cold reset.
-/
namespace Sys2Proof.Machine
open Sys2Proof

/-- The memories of Table 01.7 and the binders' two memories. An unlisted byte reads as 0 (DESIGN CHOICE, log entry 3).
`bin` is keyed by physical unit x 0x40000 + byte, `lmem` by core x 0x20000 + byte, `gran` by port x 2^48 + remote address,
`host` by bus address. Poison (R272, R505, R506) is kept per bin granule, silo line and control SRAM or local-memory
64-bit word; `dirty` per silo page (R285); `retired` lists silo pages (R276). -/
structure MemSt where
  silo : NMap Byte
  bin : NMap Byte
  csram : NMap Byte
  lmem : NMap Byte
  gran : NMap Byte
  host : NMap Byte
  pBin : NMap Bool
  pSilo : NMap Bool
  pCs : NMap Bool
  pLm : NMap Bool
  dirty : NMap Bool
  retired : List Nat
deriving DecidableEq, Repr

/-- The array: tiles by LNK instance, threshers and bins by unit index, plots, what is crossing between clock domains,
and the cartway. -/
structure ArrSt where
  tiles : NMap Tile
  cus : NMap Cu
  mus : NMap Mu
  plots : NMap Plot
  cross : NMap (List CrossItem)
  seeds : NMap (List Word32)            -- seeds that have reached a thresher
  kwr : NMap (List CrossItem)           -- broadcast writes that have reached a thresher
  cwy : NMap (List CwPkt)               -- packets in each input of a cartway node, by plane and network, oldest first (R176)
  cwyPtr : NMap Nat                     -- rotating pointers of node outputs and of ejections (R180)
  cfgPtr : Nat                          -- slot pointer of the configuration plane (R191)
  csPtr : NMap Nat                      -- rotating pointer of each control SRAM bank (R180)
  cwyErr : NMap (List Nat)              -- times of uncorrectable flits, by plane
deriving DecidableEq, Repr

/-- The chaff: the source queues of R512 and the records suppressed at each source, the append point's rotating pointer,
the next record number, the 256-record store of R511, the records not yet signalled and when the oldest came (R514), the
time + 1 of the last CORRECTED record of each source instance (R513), and the fence-map entries not yet in the
persistent store (R516), and the threshers in self-test (R503: 1 waiting for the plot to drain, 2 under test), the time + 1 of the last lasting load error of each core (R506), and the places where a correctable error has been found at one time, with that time + 1 (R502); `spill`
the fences in force that a full map does not hold (R515). -/
structure ChfSt where
  errq : NMap (List ErrRec)
  supp : NMap Nat
  ptr : Nat
  seqNo : Nat
  store : List ErrRec
  unsig : Nat
  unsigAt : Nat
  lastCe : NMap Nat
  unsaved : List Nat
  tests : NMap Nat
  coreErr : NMap Nat
  ceAt : Nat
  ceLocs : List Nat
  spill : List (Nat × Nat)
deriving DecidableEq, Repr

/-- Why the machine stops. No command of this block has a fault of its own: what the manual calls a fault is a status,
a record or a trap in State. -/
inductive Fault where
  /-- Raised by no command; kept so that the type has a value. Safe. -/
  | none
deriving DecidableEq, Repr

/-- Why a command has no meaning. -/
inductive Refusal where
  /-- Raised by `exec` for a command that has no meaning yet. Safe: nothing is claimed of it. -/
  | notModelled (mnemonic : String)
deriving DecidableEq, Repr

/-- The state. `pending` is the queue of commands, first in, first out; `free` the counter of free values; `rdata` and
`rstat` what the last read command returned to its requester and with which status (the model's own three fields).
`rings` holds the page-mover, winnower and fabric rings, by kind x 64 + ring. -/
structure State where
  pending : List Instr
  time : Nat
  free : Nat
  rdata : Word
  rstat : Nat
  csr : NMap Word
  mem : MemSt
  arr : ArrSt
  cores : NMap Core
  chf : ChfSt
  hop : HopSt
  rings : NMap Qp
  tier : TierSt
  win : WinSt
  gln : GlnSt
  hasp : HaspSt
  hay : HaySt
  rdl : RdlSt
  pwr : PwrSt
  loft : LoftSt
deriving DecidableEq, Repr

def MemSt.reset : MemSt := ⟨[], [], [], [], [], [], [], [], [], [], [], []⟩
def ArrSt.reset : ArrSt := ⟨[], [], [], [], [], [], [], [], [], 0, [], []⟩
def ChfSt.reset : ChfSt := ⟨[], [], 0, 0, [], 0, 0, [], [], [], [], 0, [], []⟩

/-- The machine right after a cold reset: every register at its reset value, every memory empty. -/
def State.reset : State :=
  ⟨[], 0, 0, 0, 0, [], .reset, .reset, [], .reset, .reset, [], .reset, .reset, .reset, .reset, .reset, .reset, .reset,
   .reset⟩

end Sys2Proof.Machine
end

