-- ==== Sys2Proof/Machine/Topo.lean ====
section
/-!
DEFINITION. Where tiles lie: unit indices and LNK instances (chapter 00), logical bins (R25), neighbours across seams
(chapter 01), the row-pair remap and the withdrawn bands (R203 to R206), and cartway stops (R171).
-/
namespace Sys2Proof.Machine
open Sys2Proof

/-- A tile by die, row and column. -/
structure Pos where
  d : Nat
  row : Nat
  col : Nat
deriving DecidableEq, Repr

/-- Unit index of a physical tile. -/
def Pos.unit (p : Pos) : Nat := p.d * 4224 + p.row * 64 + p.col / 2

/-- 0 for a compute tile, 1 for a memory tile. -/
def Pos.kind (p : Pos) : Nat := (p.row + p.col) % 2

/-- LNK instance 2c + m of a physical tile (Table 01.8). -/
def Pos.inst (p : Pos) : Nat := 2 * p.unit + p.kind

/-- The physical tile of an LNK instance. -/
def posOfInst (i : Nat) : Pos :=
  let c := i / 2
  let d := c / 4224
  let row := c % 4224 / 64
  ⟨d, row, 2 * (c % 64) + (row + i) % 2⟩

/-- The LNK instances of a compute unit and of a memory unit. -/
def cuInst (u : Nat) : Nat := 2 * u
def muInst (u : Nat) : Nat := 2 * u + 1

/-- The skipped pair of a die's row, if one is enabled (R203, Table 06.7). -/
def remapPair (remap : Word) (d : Nat) : Option Nat :=
  if d < 2 then (if bit remap 7 then some (fld remap 4 0) else none)
  else (if bit remap 15 then some (fld remap 12 8) else none)

/-- Withdrawn bands of a die (Table 06.7). -/
def withdrawn (remap : Word) (d band : Nat) : Bool := bit remap (16 + 8 * d + band)

/-- Physical tile of a logical one (R203). -/
def logToPhys (remap : Word) (p : Pos) : Pos :=
  match remapPair remap p.d with
  | some k => if p.row < 2 * k then p else { p with row := p.row + 2 }
  | none => p

/-- Logical tile of a physical one; none for a spare or skipped row. -/
def physToLog (remap : Word) (p : Pos) : Option Pos :=
  match remapPair remap p.d with
  | some k =>
    if p.row < 2 * k then some p
    else if p.row < 2 * k + 2 then none
    else some { p with row := p.row - 2 }
  | none => if p.row < 64 then some p else none

/-- Logical bin number of a logical memory tile, and back (R25). -/
def Pos.lbin (p : Pos) : Nat := p.d * 4096 + p.row * 64 + p.col / 2

def posOfLbin (l : Nat) : Pos :=
  let row := l % 4096 / 64
  ⟨l / 4096, row, 2 * (l % 64) + (row + 1) % 2⟩

/-- Physical unit that holds a logical bin; none in a withdrawn band (R206). -/
def unitOfLbin (remap : Word) (l : Nat) : Option Nat :=
  let p := posOfLbin l
  if l ≥ 16384 ∨ withdrawn remap p.d (p.col / 16) then none else some (logToPhys remap p).unit

/-- The neighbour of a logical tile in direction 0 N, 1 E, 2 S, 3 W, across seams (chapter 01), and how many seams the
hop crosses. -/
def Pos.step (p : Pos) (dir : Nat) : Option (Pos × Nat) :=
  match dir with
  | 0 => if p.row > 0 then some ({ p with row := p.row - 1 }, 0)
         else if p.d ≥ 2 then some (⟨p.d - 2, 63, p.col⟩, 1) else none
  | 1 => if p.col < 127 then some ({ p with col := p.col + 1 }, 0)
         else if p.d % 2 = 0 then some (⟨p.d + 1, p.row, 0⟩, 1) else none
  | 2 => if p.row < 63 then some ({ p with row := p.row + 1 }, 0)
         else if p.d < 2 then some (⟨p.d + 2, 0, p.col⟩, 1) else none
  | _ => if p.col > 0 then some ({ p with col := p.col - 1 }, 0)
         else if p.d % 2 = 1 then some (⟨p.d - 1, p.row, 127⟩, 1) else none

/-- Physical tile at the other end of a link: one row or column away within a die, or across a seam. -/
def physNeighbour (p : Pos) (dir : Nat) : Option Pos :=
  match dir with
  | 0 => if p.row > 0 then some { p with row := p.row - 1 } else if p.d ≥ 2 then some ⟨p.d - 2, 65, p.col⟩ else none
  | 1 => if p.col < 127 then some { p with col := p.col + 1 } else if p.d % 2 = 0 then some ⟨p.d + 1, p.row, 0⟩ else none
  | 2 => if p.row < 65 then some { p with row := p.row + 1 } else if p.d < 2 then some ⟨p.d + 2, 0, p.col⟩ else none
  | _ => if p.col > 0 then some { p with col := p.col - 1 } else if p.d % 2 = 1 then some ⟨p.d - 1, p.row, 127⟩ else none

/-- Physical tiles strictly between two on a line. -/
def physBetween : Nat → Pos → Nat → Pos → List Pos
  | 0, _, _, _ => []
  | n + 1, a, dir, b =>
    match physNeighbour a dir with
    | none => []
    | some x => if x = b then [] else x :: physBetween n x dir b

/-- Physical tiles that a hop of a logical route passes through: the spare rows at a vertical seam and the skipped pair (R203,
R204). -/
def hopMid (remap : Word) (p : Pos) (dir : Nat) : List Pos :=
  match p.step dir with
  | none => []
  | some (q, _) => physBetween 8 (logToPhys remap p) dir (logToPhys remap q)

/-- Whether a plot's bounds hold a logical tile (R200, Table 06.6). -/
def inBounds (bounds : Word) (p : Pos) : Bool :=
  let f := nbits bounds.toNat (16 * p.d + 15) (16 * p.d)
  let bands := f / 256
  let hi := f / 16 % 16
  let lo := f % 16
  nbit bands (p.col / 16) && decide (lo ≤ p.row / 4 ∧ p.row / 4 ≤ hi)

/-- Cartway stop that serves a tile (R171). -/
def stopOf (p : Pos) : Nat :=
  (1 + 64 * (p.d % 2) + p.col / 2) * 256 + (1 + 33 * (p.d / 2) + p.row / 2)

/-- What a cartway node serves (R171). -/
inductive NodeKind where
  | hub
  | silo (k : Nat)
  | stop
  | none
deriving DecidableEq, Repr

/-- Kind of a node address: hub nodes along the north edge, the 16 edge nodes of each silo stack, the stops; stop rows 33 and
66 carry no silo node. -/
def nodeKind (n : Nat) : NodeKind :=
  let x := n / 256
  let y := n % 256
  if 1 ≤ x ∧ x ≤ 128 then (if y = 0 then .hub else if y ≤ 66 then .stop else .none)
  else if x = 0 ∨ x = 129 then
    if (1 ≤ y ∧ y ≤ 32) ∨ (34 ≤ y ∧ y ≤ 65) then
      .silo ((y - 1) / 33 * 4 + (if x = 129 then 2 else 0) + (y - 1) % 33 / 16)
    else .none
  else .none

/-- Edge node of silo stack k for an address (R171, R172). -/
def siloNode (k addr : Nat) : Nat :=
  let i := nbits addr 14 11
  let x := if k % 4 < 2 then 0 else 129
  x * 256 + (1 + 33 * (k / 4) + 16 * (k % 2) + i)

end Sys2Proof.Machine
end

