-- ==== Sys2Proof/Machine/Ops.lean ====
section
/-!
DEFINITION. The named operations over State that every family uses: the register file, the memories, the parts by
index, free values, the raising of error records (R510, R512), event bits and completions of the binders.
-/
namespace Sys2Proof.Machine
open Sys2Proof

/-- The outcome type of a command. -/
abbrev Out := Host.Outcome State Fault Refusal

/-! ### Registers -/

/-- What a register reads as where nothing is listed: `regDefault` at its key. -/
def Reg.dflt (r : Reg) (i j : Nat) (_ : Nat) : Word := r.resetAt (i % 2 ^ 20) (j % 2 ^ 12)

/-- Word `j` of instance `i` of a stored register. -/
def State.rd (s : State) (r : Reg) (i j : Nat) : Word := mget (r.dflt i j) s.csr (r.key i j)

def State.wr (s : State) (r : Reg) (i j : Nat) (v : Word) : State :=
  { s with csr := mput (r.dflt i j) s.csr (r.key i j) v }

/-- Field [hi:lo] of a stored register. -/
def State.rdF (s : State) (r : Reg) (i j hi lo : Nat) : Nat := fld (s.rd r i j) hi lo

def State.wrF (s : State) (r : Reg) (i j hi lo x : Nat) : State := s.wr r i j (setFld (s.rd r i j) hi lo x)

/-- A counter register advanced by `n`. -/
def State.inc (s : State) (r : Reg) (i j n : Nat) : State := s.wr r i j (s.rd r i j + BitVec.ofNat 64 n)

/-! ### Memories -/

/-- The memories. -/
inductive Space where
  | silo | bin | csram | lmem | gran | host
deriving DecidableEq, Repr

def byte0 (_ : Nat) : Byte := 0

def MemSt.sp (m : MemSt) : Space → NMap Byte
  | .silo => m.silo | .bin => m.bin | .csram => m.csram
  | .lmem => m.lmem | .gran => m.gran | .host => m.host

def MemSt.setSp (m : MemSt) (sp : Space) (x : NMap Byte) : MemSt :=
  match sp with
  | .silo => { m with silo := x } | .bin => { m with bin := x } | .csram => { m with csram := x }
  | .lmem => { m with lmem := x } | .gran => { m with gran := x } | .host => { m with host := x }

def State.byteAt (s : State) (sp : Space) (a : Nat) : Byte := mget byte0 (s.mem.sp sp) a

def putBytes : NMap Byte → Nat → List Byte → NMap Byte
  | m, _, [] => m
  | m, a, b :: bs => putBytes (mput byte0 m a b) (a + 1) bs

/-- Store bytes at consecutive addresses of a memory. -/
def State.store (s : State) (sp : Space) (a : Nat) (bs : List Byte) : State :=
  { s with mem := s.mem.setSp sp (putBytes (s.mem.sp sp) a bs) }

/-- `n` consecutive bytes of a memory. -/
def State.load (s : State) (sp : Space) (a n : Nat) : List Byte := (List.range n).map fun k => s.byteAt sp (a + k)

/-- A little-endian number of `n` bytes (R5). -/
def State.loadNat (s : State) (sp : Space) (a n : Nat) : Nat := bytesToNat (s.load sp a n)

/-! ### Parts by index -/

def dTile (_ : Nat) : Tile := Tile.reset
def dCu (_ : Nat) : Cu := Cu.reset
def dMu (_ : Nat) : Mu := Mu.reset
def dPlot (_ : Nat) : Plot := Plot.reset
def dCore (_ : Nat) : Core := Core.reset
def dStage (_ : Nat) : Stage := Stage.reset
def dGen (_ : Nat) : Gen := Gen.reset
def dNat (_ : Nat) : Nat := 0
def dFalse (_ : Nat) : Bool := false
def dTrue (_ : Nat) : Bool := true
def dW32 (_ : Nat) : Word32 := 0
def dWord (_ : Nat) : Word := 0
def dPart (_ : Nat) : FVal := partDefault
def dFlags (_ : Nat) : Flags := Flags.none
def dNil {α : Type} (_ : Nat) : List α := []
def dNone {α : Type} (_ : Nat) : Option α := none

def State.tile (s : State) (i : Nat) : Tile := mget dTile s.arr.tiles i
def State.setTile (s : State) (i : Nat) (t : Tile) : State := { s with arr := { s.arr with tiles := mput dTile s.arr.tiles i t } }
def State.cu (s : State) (u : Nat) : Cu := mget dCu s.arr.cus u
def State.setCu (s : State) (u : Nat) (c : Cu) : State := { s with arr := { s.arr with cus := mput dCu s.arr.cus u c } }
def State.mu (s : State) (u : Nat) : Mu := mget dMu s.arr.mus u
def State.setMu (s : State) (u : Nat) (c : Mu) : State := { s with arr := { s.arr with mus := mput dMu s.arr.mus u c } }
def State.plot (s : State) (p : Nat) : Plot := mget dPlot s.arr.plots p
def State.setPlot (s : State) (p : Nat) (x : Plot) : State := { s with arr := { s.arr with plots := mput dPlot s.arr.plots p x } }
def State.core (s : State) (c : Nat) : Core := mget dCore s.cores c
def State.setCore (s : State) (c : Nat) (x : Core) : State := { s with cores := mput dCore s.cores c x }

/-- The free-value counter and the state with it advanced. -/
def State.fresh (s : State) : Nat × State := (s.free, { s with free := s.free + 1 })

/-- One of several candidates where the manual does not say which is taken: a free value picks it. -/
def State.pickFrom (s : State) (cands : List Nat) : Option Nat × State :=
  match cands with
  | [] => (none, s)
  | c :: cs => (some (lget (c :: cs) (Config.freeNat s.free % (cs.length + 1)) c), { s with free := s.free + 1 })

/-- The first candidate at or above a rotating pointer, wrapping, among `n` indices (R180). -/
def rotGrant (n ptr : Nat) (asks : Nat → Bool) : Option Nat :=
  ((List.range n).map fun i => (ptr + i) % n).find? asks

/-- The slot of a ring that wins: the first at or above the pointer whose requester asks (R181). -/
def ringGrant (slots : List Nat) (ptr : Nat) (asks : Nat → Bool) : Option Nat :=
  rotGrant slots.length ptr fun i => (slots[i]?).any asks

/-- A request of plot `p` that loses an arbitration point to a request of another plot waits there: the plot's interference
counter of the point's resource advances by the attempt (R213, R214; log entry 144). -/
def State.waitFor (s : State) (r : Reg) (p winner : Option Nat) : State :=
  match p, winner with
  | some a, some b => if a = b then s else s.inc r a 0 1
  | _, _ => s

/-! ### Error records -/

/-- Severities (Table 16.2). -/
def sevCorrected : Nat := 0
def sevTransient : Nat := 1
def sevLasting : Nat := 2
def sevFatal : Nat := 3

/-- A record with the fields most events need. -/
def errRec (code sev src inst strct : Nat) : ErrRec :=
  ⟨0, 0, code, sev, src, inst, strct, 0, 0, 0, 0, 0, 0, 0, 0⟩

def ErrRec.withAddr (e : ErrRec) (a : Nat) : ErrRec := { e with addr := a, flags := e.flags ||| 1 }
def ErrRec.withPlot (e : ErrRec) (p ep : Nat) : ErrRec := { e with ctx := p, cfgEpoch := ep, flags := e.flags ||| 2 }
def ErrRec.withSlice (e : ErrRec) (x : Nat) : ErrRec := { e with ctx := 16 + x, flags := e.flags ||| 2 }

/-- A detector raises a record (R512): it enters its subsystem's source queue of 8, whose last 2 entries are for
LASTING and FATAL records. A CORRECTED or TRANSIENT record that finds no free unreserved entry only counts in SUPP; a
LASTING or FATAL one that finds the queue full waits in the checker, here at the end of the same list. A CORRECTED
record is appended only under CHF_CTL.CE_LOG, one per instance in each 1 ms (R513, see `raiseCorrected`). -/
def State.raise (s : State) (e : ErrRec) : State :=
  let q := mget dNil s.chf.errq e.src
  let e := { e with time := s.time }
  if e.sev < sevLasting ∧ q.length ≥ 6 then
    { s with chf := { s.chf with supp := mput dNat s.chf.supp e.src (min 65535 (mget dNat s.chf.supp e.src + 1)) } }
  else { s with chf := { s.chf with errq := mput dNil s.chf.errq e.src (q ++ [e]) } }

/-- A refusal by protection: a TRANSIENT PROTECTION_FAULT record with the address refused (R23, R508). -/
def State.raiseProt (s : State) (src inst addr : Nat) : State :=
  s.raise ((errRec 0x0002 sevTransient src inst 0).withAddr addr)

/-! ### Event bits and completions of the binders -/

/-- Core control register numbers (Table 07.8). -/
def ccEpc : Nat := 1
def ccCause : Nat := 2
def ccTval : Nat := 3
def ccEvt : Nat := 4
def ccMask : Nat := 5
def ccTcmp : Nat := 7
def ccScratch : Nat := 8

def Core.ccr (c : Core) (n : Nat) : Word := mget dWord c.cc n
def Core.setCc (c : Core) (n : Nat) (v : Word) : Core := { c with cc := mput dWord c.cc n v }

/-- Scalar register read: s0 is zero (chapter 07, Registers). -/
def Core.reg (c : Core) (n : Nat) : Word := if n = 0 then 0 else mget dWord c.regs n

/-- Scalar register write: s0 ignores it. -/
def Core.setReg (c : Core) (n : Nat) (v : Word) : Core :=
  if n = 0 then c else { c with regs := mput dWord c.regs n v }

/-- Taking a trap, in one step (R227): in program mode the pc is saved in CC_EPC, the cause and the value are written,
the mode becomes monitor and execution continues at 0; in monitor mode the same is saved and the core halts with STATE 7, and
CORE_DOUBLE_TRAP is recorded, FATAL for a service core and LASTING for a program core (R508). -/
def State.trap (s : State) (c cause : Nat) (tval : Word) : State :=
  let k := s.core c
  let k1 := ((k.setCc ccEpc (BitVec.ofNat 64 k.pc)).setCc ccCause (BitVec.ofNat 64 cause)).setCc ccTval tval
  if k.monitor then
    (s.setCore c { k1 with state := .doubleTrap }).raise (errRec 0x0508 (if c < 4 then sevFatal else sevLasting) 4 c 0)
  else s.setCore c { k1 with monitor := true, pc := 0, state := .running }

/-- An instruction retires: its effect on the core, then the next instruction. The pc is a byte offset in the 128 KiB local
memory and wraps there (log entry 81). -/
def State.retire (s : State) (c : Nat) (f : Core → Core) : State :=
  let k := f (s.core c)
  (s.setCore c { k with pc := (k.pc + 4) % 0x20000, state := .running }).inc .BND_INSNS c 0 1

/-- Set event bits of a core (R8: a set wins over a clear of the same cycle). A core waiting in WFE goes on when the
bits and CC_EVTMASK share one (Table 07.3), and in program mode with CC_EVTMASK[63] = 1 an EVENT trap is raised when a
bit under the mask is set (Table 07.5). -/
def State.event (s : State) (c : Nat) (bits : Word) : State :=
  let k := s.core c
  let k1 := k.setCc ccEvt (k.ccr ccEvt ||| bits)
  let hit := decide (k1.ccr ccEvt &&& k1.ccr ccMask ≠ 0)
  let s1 := s.setCore c k1
  let s2 := if hit && decide (k1.state = .wfe) then s1.retire c id else s1
  let k2 := s2.core c
  let live := decide (k2.state ≠ .halted ∧ k2.state ≠ .doubleTrap)
  if hit && live && !k2.monitor && bit (k2.ccr ccMask) 63 then s2.trap c 6 0 else s2

/-- A completion word (R231). -/
def complWord (ticket epoch status : Nat) (flags : Option Flags) : Word :=
  let f := match flags with
    | some x => 2 ^ 21 + x.toNat * 2 ^ 16
    | none => 0
  BitVec.ofNat 64 (ticket % 65536 * 2 ^ 48 + epoch % 256 * 2 ^ 32 + f + status % 65536)

/-- A target reports the completion of a command: it leaves the commands in flight's targets and its word travels to
the core (it arrives by COMMAND_COMPLETION). A command no longer in flight reports nothing. -/
def State.complete (s : State) (r : CmdRef) (epoch status : Nat) (flags : Option Flags) : State :=
  let k := s.core r.core
  if k.cmds.any (·.ticket = r.ticket) then
    s.setCore r.core { k with
      cmds := k.cmds.filter (·.ticket ≠ r.ticket)
      arriving := k.arriving ++ [(r.ticket, complWord r.ticket epoch status flags)] }
  else s

/-- Whether a command's target has taken it (chapter 07): begun there, or a WAIT, which the command unit takes when it is sent
(log entry 146). -/
def Cmd.accepted (m : Cmd) : Bool := decide (2 ≤ m.phase) || (decide (m.phase = 1) && decide (fld (lget m.words 0 0) 63 56 = 8))

/-- Whether ticket `a` was given out after ticket `b`, among the tickets in flight (R230). -/
def ticketAfter (a b : Nat) : Bool := decide (a ≠ b ∧ (a + 65536 - b) % 65536 < 32768)

/-- The command of ticket `t` halts its core's command queue (R237): every later command not yet accepted completes with
CMD_FLUSHED, and a queue that was not halted raises a CQHALT trap when CC_EVTMASK[62] is set. -/
def State.haltQueue (s : State) (c t : Nat) : State :=
  let k := s.core c
  let late := k.cmds.filter fun m => !m.accepted && ticketAfter m.ticket t
  let s1 := late.foldl (fun a m => a.complete ⟨c, m.ticket⟩ 0 0x0507 none) (s.setCore c { k with cqHalt := true })
  let k1 := s1.core c
  if !k.cqHalt ∧ bit (k1.ccr ccMask) 62 ∧ k1.state ≠ .halted ∧ k1.state ≠ .doubleTrap then s1.trap c 7 0 else s1

/-- Status codes fixed across chapters (Table 00.4). -/
def stOK : Nat := 0
def stAlreadyDone : Nat := 1
def stProt : Nat := 2
def stFatal : Nat := 0xFF

/-- Whether the throttle gates every array cycle, so that no stage issues and no generator makes a bank access (R479). -/
def State.throttled (s : State) : Bool := decide (16 ≤ s.pwr.thr)

end Sys2Proof.Machine
end

