-- ==== Sys2Proof/Machine/Events.lean ====
section
/-!
DEFINITION. What the loft keeps of events: the persistent log (R568), the platform event queue (R563), LOFT_MODEVT (R583);
the power hold (R484) and the end of deep idle (R495), which other subsystems see.
-/
namespace Sys2Proof.Machine
open Sys2Proof

def State.setLoft (s : State) (l : LoftSt) : State := { s with loft := l }
def State.setPwr (s : State) (p : PwrSt) : State := { s with pwr := p }

/-- Append records to the persistent log, which holds the last 16,384 (R568). -/
def State.logAppend (s : State) (rs : List (List Byte)) : State :=
  let l := s.loft.log ++ rs
  s.setLoft { s.loft with log := l.drop (l.length - 16384), logNo := s.loft.logNo + rs.length }

/-- Make room in a full event queue of 64: the oldest event that is not FATAL goes, or the oldest when all are (log
entry 75). -/
def dropEvent (q : List PlatEvt) : List PlatEvt :=
  match q.find? (fun e => !e.fatal) with
  | some e => q.erase e
  | none => q.drop 1

/-- Queue a platform event (R563); ALERT# is low while the queue is not empty. -/
def State.platEvent (s : State) (e : PlatEvt) : State :=
  if s.loft.evq.length < 64 then s.setLoft { s.loft with evq := s.loft.evq ++ [e] }
  else (s.setLoft { s.loft with evq := dropEvent s.loft.evq ++ [e] }).inc .LOFT_EVT_LOST 0 0 1

/-- Entry to or exit from a power state: 0 orphaned, 1 sag, 2 floor, 3 power hold, 4 deep idle (R563). -/
def State.pwrEvent (s : State) (n : Nat) (on : Bool) : State := s.platEvent ⟨2, n, on, false, []⟩

/-- A bit of LOFT_MODEVT goes to 1: one TRANSIENT record and one event; while it stays 1 nothing more (R583). -/
def State.modEvent (s : State) (b detail : Nat) : State :=
  if bit (s.rd .LOFT_MODEVT 0 0) b then s
  else
    let s1 := (s.wrF .LOFT_MODEVT 0 0 b b 1).raise { errRec 0 sevTransient 15 0 0 with detail0 := b, detail1 := detail }
    s1.platEvent ⟨3, b, true, false, []⟩

/-- Whether a power hold is in force: below the floor, or ladder step 3 (R483, R484, R490). -/
def PwrSt.hold (p : PwrSt) : Bool := p.floor || decide (p.ladder = 3)

/-- Deep idle ends: the module wakes (R495). -/
def State.wake (s : State) : State :=
  if s.pwr.idle = 2 then ((s.setPwr { s.pwr with idle := 3 }).wrF .PWR_IDLE 0 0 1 0 0).pwrEvent 4 false else s

/-- Ready has been reached (LOFT_STATUS.READY). -/
def State.isReady (s : State) : Bool := bit (s.rd .LOFT_STATUS 0 0) 63

end Sys2Proof.Machine
end

