-- ==== Sys2Proof/Machine/Fabric.lean ====
section
/-!
DEFINITION. The neighbour links (chapter 05): terminating queues and their credits (R154 to R157), sending on a source
of the steering unit, following a static route to the queues where it ends (R153, R158 to R160), and reporting a fault
of a task to the seeder (R131, R133).
-/
namespace Sys2Proof.Machine
open Sys2Proof

/-- The EP bit of a tile: bit 0 of its active epoch (R193). -/
def Tile.ep (t : Tile) : Bool := t.epoch.getLsbD 0

/-- A terminating queue of a tile. -/
def Tile.queue (t : Tile) (q : Nat) : List Xfer := mget dNil t.queues q

/-- The transfer a unit may consume: the head of the queue, if its EP is the unit's own (R196). -/
def Tile.head (t : Tile) (q : Nat) : Option Payload :=
  match t.queue q with
  | [] => none
  | x :: _ => if x.ep = t.ep then some x.pay else none

def Tile.headEos (t : Tile) (q : Nat) : Bool := decide (t.head q = some .eos)

/-- A head that is data, not end of section. -/
def Tile.headData (t : Tile) (q : Nat) : Bool :=
  match t.head q with
  | none => false
  | some .eos => false
  | some _ => true

/-- Source code output `o` of a steering unit selects (R158). -/
def State.osel (s : State) (inst o : Nat) : Nat := s.rdF .LNK_OSEL inst o 5 0

/-- Credits an origin output holds (Table 05.13). -/
def State.credits (s : State) (inst o : Nat) : Nat := s.rdF .LNK_CRED inst o 5 0

/-- A transfer has left its terminating queue: when every branch's copy has left, its credit starts home (R155). -/
def State.releaseCredit (s : State) (x : Xfer) : State :=
  let i := x.orig / 32
  let o := x.orig % 32
  if o ≥ 18 then s
  else
    let t := s.tile i
    let n := mget dNat t.owed x.seq
    if n ≤ 1 then
      s.setTile i { t with owed := mput dNat t.owed x.seq 0, credBack := mput dNat t.credBack o (mget dNat t.credBack o + 1) }
    else s.setTile i { t with owed := mput dNat t.owed x.seq (n - 1) }

/-- Remove the head of a terminating queue and release its credit; consuming an end-of-section transfer is noted for
the switch (R194 condition 2). -/
def State.popQ (s : State) (inst q : Nat) : State :=
  let t := s.tile inst
  match t.queue q with
  | [] => s
  | x :: xs =>
    let e := if x.pay = .eos then q :: t.eosDone else t.eosDone
    (s.setTile inst { t with queues := mput dNil t.queues q xs, eosDone := e }).releaseCredit x

/-- Discard everything a queue holds, returning every credit (R131 step 3, R199). -/
def dropAll : Nat → State → Nat → Nat → State
  | 0, s, _, _ => s
  | n + 1, s, inst, q => dropAll n (s.popQ inst q) inst q

/-- The outputs of a tile that select a source code. -/
def State.outputsOf (s : State) (inst code : Nat) : List Nat :=
  (List.range 18).filter fun o => decide (s.osel inst o = code)

/-- Whether join `j` of a tile is enabled and what its data and token sources are (Table 05.14). -/
def State.joinEn (s : State) (inst j : Nat) : Bool := bit (s.rd .LNK_JOIN inst j) 14
def State.joinD (s : State) (inst j : Nat) : Nat := s.rdF .LNK_JOIN inst j 13 8
def State.joinT (s : State) (inst j : Nat) : Nat := s.rdF .LNK_JOIN inst j 5 0

/-- Join buffers of a tile that a source code feeds: 30 + 2j for data, 31 + 2j for tokens. -/
def State.joinQs (s : State) (inst code : Nat) : List Nat :=
  (List.range 2).flatMap fun j =>
    if s.joinEn inst j then
      (if s.joinD inst j = code then [30 + 2 * j] else []) ++ (if s.joinT inst j = code then [31 + 2 * j] else [])
    else []

/-- The outputs among `os` that originate a route hold a credit each, and join buffers fed directly have room: a fork
sends only when every branch has credit (R155, R160). -/
def State.canSend (s : State) (inst code : Nat) : Bool :=
  ((s.outputsOf inst code).all fun o => decide (0 < s.credits inst o)) &&
  ((s.joinQs inst code).all fun q => decide (((s.tile inst).queue q).length < 8))

/-- A scalar entering a token path gives its low 16 bits as the token (R159). -/
def Payload.asToken : Payload → Payload
  | .scalar v => .token (v.setWidth 16)
  | p => p

/-- Whether an output or buffer carries tokens. -/
def isTokenOut (o : Nat) : Bool := decide ((8 ≤ o ∧ o ≤ 11) ∨ o = 17)

/-- Put a transfer on one origin output: it takes a credit and is in flight (R155). -/
def State.sendOn (s : State) (inst o : Nat) (p : Payload) : State :=
  let t := s.tile inst
  let p' := if isTokenOut o then p.asToken else p
  let x : Xfer := ⟨p', t.ep, inst * 32 + o, t.sent⟩
  let s1 := s.setTile inst { t with sent := t.sent + 1, flight := mput dNil t.flight o (mget dNil t.flight o ++ [x]) }
  s1.wrF .LNK_CRED inst o 5 0 (s.credits inst o - 1)

/-- Put a transfer straight into a join buffer of the same tile. -/
def State.sendJoin (s : State) (inst q : Nat) (p : Payload) : State :=
  let t := s.tile inst
  let p' := if q % 2 = 1 then p.asToken else p
  s.setTile inst { t with queues := mput dNil t.queues q (t.queue q ++ [⟨p', t.ep, inst * 32 + 31, 0⟩]) }

/-- Send a transfer from a local producer (a source code of Table 05.4) on every output and join that selects it. -/
def State.send (s : State) (inst code : Nat) (p : Payload) : State :=
  let s1 := (s.outputsOf inst code).foldl (fun a o => a.sendOn inst o p) s
  (s.joinQs inst code).foldl (fun a q => a.sendJoin inst q p) s1

/-- Source code under which a transfer leaving on link output `o` (0-11) arrives at the neighbour: the link of the same
kind from the opposite direction. -/
def arriveCode (o : Nat) : Nat := 4 * (o / 4) + (o % 4 + 2) % 4 + 1

/-- Where a route ends, and what it passes. -/
structure Route where
  ends : List (Nat × Nat)      -- (instance, queue)
  toks : List (Nat × Nat)      -- those of the ends on whose branch a scalar has become a token (R159)
  thru : List (Nat × Nat)      -- (instance, output) passed through
deriving DecidableEq, Repr

def Route.none : Route := ⟨[], [], []⟩
def Route.join (a b : Route) : Route := ⟨a.ends ++ b.ends, a.toks ++ b.toks, a.thru ++ b.thru⟩

/-- How a tile's steering selects its sources: outputs that select a code, join buffers fed by it. The static route
follows this, whether read from the active configuration or from a sheaf under check. -/
structure Steer where
  outs : Nat → Nat → List Nat
  joins : Nat → Nat → List Nat
  inst : Pos → Nat

/-- Follow a route from output `o` of a logical tile (R153). Outputs 12 to 17 end in the tile itself; an incoming link
that no output and no join of a memory tile takes belongs to a WRITE (R161). A branch that leaves a scalar link on a token
output carries tokens from there on, and the others do not (R159). -/
def route (st : Steer) : Nat → Pos → Nat → Route
  | 0, _, _ => Route.none
  | n + 1, p, o =>
    if o ≥ 12 then ⟨[(st.inst p, o)], [], []⟩
    else
      match p.step (o % 4) with
      | none => Route.none
      | some (q, _) =>
        let i := st.inst q
        let code := arriveCode o
        let js := (st.joins i code).map fun k => (i, k)
        let os := st.outs i code
        let own := if os = [] ∧ js = [] ∧ q.kind = 1 ∧ code ≤ 8 then [(i, 20 + code)] else []
        let here : Route := ⟨js ++ own, [], (os.filter (· < 12)).map (fun k => (i, k))⟩
        os.foldl (fun r k =>
          let x := route st n q k
          r.join (if isTokenOut k && decide (code ≤ 8) then { x with toks := x.ends } else x)) here

/-- The steering of the active configurations. -/
def State.steer (s : State) : Steer :=
  ⟨s.outputsOf, s.joinQs, fun p => (logToPhys (s.rd .SEED_REMAP 0 0) p).inst⟩

/-- The route that starts at an output of a physical tile. -/
def State.routeOf (s : State) (inst o : Nat) : Route :=
  match physToLog (s.rd .SEED_REMAP 0 0) (posOfInst inst) with
  | none => Route.none
  | some p => route s.steer 20 p o

/-- Physical links that a hop from output `o` of a physical tile crosses: its own, and those of the tiles between (R204). -/
def State.hopLinks (s : State) (inst o : Nat) : List (Nat × Nat) :=
  let r := s.rd .SEED_REMAP 0 0
  match physToLog r (posOfInst inst) with
  | none => [(inst, o)]
  | some p => (inst, o) :: (hopMid r p (o % 4)).map fun q => (q.inst, o)

/-- Whether the route that starts at an output of a tile crosses a physical link. -/
def State.routeCrosses (s : State) (i o inst link : Nat) : Bool :=
  (((i, o) :: (s.routeOf i o).thru).filter fun h => decide (h.2 < 12)).any fun h => (s.hopLinks h.1 h.2).contains (inst, link)

/-- Depth of the terminating queue with this number (Table 05.2). -/
def queueDepth (q : Nat) : Nat := if 30 ≤ q then 8 else 40

/-! ### Plots and faults -/

/-- The plot whose bounds hold a physical tile (R200). -/
def State.plotOf (s : State) (inst : Nat) : Option Nat :=
  match physToLog (s.rd .SEED_REMAP 0 0) (posOfInst inst) with
  | none => none
  | some p => (List.range 16).find? fun k => inBounds (s.rd .SEED_PLOT_BOUNDS k 0) p

/-- A fault of the task running in a tile's plot is reported to the seeder, in order of arrival (R131, R133); the
record in the error ring carries the underlying code (R131). -/
def State.taskFault (s : State) (inst status : Nat) (e : ErrRec) : State :=
  let ep := (s.tile inst).epoch.toNat
  match s.plotOf inst with
  | none => s.raise e
  | some p =>
    let x := s.plot p
    (s.setPlot p { x with faults := x.faults ++ [status * 256 + ep] }).raise (e.withPlot p ep)

end Sys2Proof.Machine
end

