-- ==== Sys2Proof/Machine/Plots.lean ====
section
/-!
DEFINITION. The tiles of a plot (R200, R206), which of them still wait for a load, and the binding of a save or a remap to a run
(R207, R208).
-/
namespace Sys2Proof.Machine
open Sys2Proof

/-- Logical tiles within bounds (Table 06.6). -/
def plotPos (bounds : Word) : List Pos :=
  (List.range 4).flatMap fun d =>
    let f := nbits bounds.toNat (16 * d + 15) (16 * d)
    let lo := f % 16
    let hi := f / 16 % 16
    ((List.range 64).filter fun row => decide (lo ≤ row / 4 ∧ row / 4 ≤ hi)).flatMap fun row =>
      ((List.range 128).filter fun col => nbit (f / 256) (col / 16)).map fun col => ⟨d, row, col⟩

/-- LNK instances of a plot's tiles, withdrawn bands apart (R206). -/
def State.plotTiles (s : State) (p : Nat) : List Nat :=
  let r := s.rd .SEED_REMAP 0 0
  ((plotPos (s.rd .SEED_PLOT_BOUNDS p 0)).filter fun q => !withdrawn r q.d (q.col / 16)).map fun q => (logToPhys r q).inst

/-- Whether a tile has still to switch to the configuration of an epoch: it lies in its shadow slot or on its way there. -/
def Tile.holds (t : Tile) (e : Byte) : Bool :=
  t.shadow.any (fun sh => decide (sh.epoch = e)) || t.incoming.any fun x => decide (x.1.epoch = e)

/-! ### Binding a save -/

/-- Bytes of a list of live ranges. -/
def liveBytes (l : List (Nat × Nat × Nat)) : Nat := l.foldl (fun n r => n + 64 * r.2.2) 0

/-- Whether no unit of a plot has consumed the end-of-section transfer of a run. -/
def State.runFresh (s : State) (p : Nat) (r : Run) : Bool :=
  !r.left && (s.plotTiles p).all fun i =>
    let t := s.tile i
    decide (t.epoch ≠ r.epoch) || t.eosDone.all fun q => decide (100 ≤ q)

/-- End a pre-emption request with a status (Tables 06.10 and 06.11). -/
def State.preEnd (s : State) (p status : Nat) : State :=
  (s.setPlot p { s.plot p with pre := 0, bound := none, ended := none, preStat := 0, pstatus := status }).wrF .SEED_PLOT_PREEMPT p 0 63 63 0

/-- Whether a plot has a save area (log entry 61: the register at its reset value names none). -/
def State.hasArea (s : State) (p : Nat) : Bool := decide (s.rd .SEED_PLOT_SAVEAREA p 0 ≠ 0)

def State.areaBase (s : State) (p : Nat) : Nat := s.rdF .SEED_PLOT_SAVEAREA p 0 47 16 * 65536
def State.areaSize (s : State) (p : Nat) : Nat := (s.rdF .SEED_PLOT_SAVEAREA p 0 12 0 + 1) * 2 ^ 20

/-- Bind a waiting save, or a plot with a pending remap, to the earliest run marked as a cheap point that no unit has
ended (R207, R208); a save that needs more than the area fails before the plot is held (Table 06.9). -/
def State.bindSave (s : State) (p : Nat) : State :=
  let x := s.plot p
  let want := decide (x.pre = 1) || (x.remapPending && s.hasArea p)
  if want ∧ x.bound = none ∧ x.preStat = 0 then
    match x.runs.find? (fun r => decide (r.cp ≠ 0 ∧ r.status = 0) && s.runFresh p r) with
    | none => s
    | some r =>
      if x.pre = 1 ∧ 0x10000 + liveBytes r.live > s.areaSize p then s.preEnd p stProt
      else s.setPlot p { x with bound := some r.epoch }
  else s

end Sys2Proof.Machine
end

