-- ==== Sys2Proof/Machine/Fence.lean ====
section
/-!
DEFINITION. Taking resources out of use: corrected-error records (R513), the fence map (R515), the remap it implies
(R203, R205, R516), fenced tiles, withdrawn bands, and spare bank rows of bins (R505).
-/
namespace Sys2Proof.Machine
open Sys2Proof

/-- A corrected error: its counter always advances; its record is appended only under CHF_CTL.CE_LOG and at most once per
source instance in each 1 ms, which is 156,250 ticks, others counting in SUPP (R513). -/
def State.raiseCE (s : State) (ctr : Reg) (e : ErrRec) : State :=
  let s1 := s.inc ctr 0 0 1
  if s.rdF .CHF_CTL 0 0 40 40 = 0 then s1
  else
    let k := e.src * 2 ^ 32 + e.inst
    let last := mget dNat s.chf.lastCe k
    if last ≠ 0 ∧ s.time + 1 < last + 156250 then
      { s1 with chf := { s1.chf with supp := mput dNat s1.chf.supp e.src (min 65535 (mget dNat s1.chf.supp e.src + 1)) } }
    else
      let s2 := { s1 with chf := { s1.chf with lastCe := mput dNat s1.chf.lastCe k (s.time + 1) } }
      s2.raise e

/-- A correctable error found at a place: none when it has been found there at this time already, by another reader or by scrub, and
so is written back and recorded (R502). -/
def State.ceFirst (s : State) (place : Nat) : Option State :=
  if s.chf.ceAt = s.time + 1 then
    if s.chf.ceLocs.contains place then none else some { s with chf := { s.chf with ceLocs := place :: s.chf.ceLocs } }
  else some { s with chf := { s.chf with ceAt := s.time + 1, ceLocs := [place] } }

/-- Places of R502: a granule of a bin, a line of the silo, a word of control SRAM or a local memory. -/
def cePlace (kind n : Nat) : Nat := kind * 2 ^ 64 + n

/-- Valid fence-map entries; entries fill the map from index 0. -/
def State.fences (s : State) : Nat := s.rdF .CHF_STATUS 0 0 16 0

/-- Kind and location of fence-map entry `i` (Table 16.8). -/
def State.fence (s : State) (i : Nat) : Nat × Nat := (s.rdF .CHF_FMAP_A i 0 59 56, s.rdF .CHF_FMAP_A i 0 47 0)

/-- The fences in force: the entries, and those that found the map full. -/
def State.fenceList (s : State) : List (Nat × Nat) := (List.range s.fences).map s.fence ++ s.chf.spill

/-- Whether a resource is named by a fence in force (R515). -/
def State.isFenced (s : State) (kind loc : Nat) : Bool := s.fenceList.contains (kind, loc)

/-- Write an entry into the fence map (R515). A resource already named stays as it is; one that finds the
map full takes effect until the next reset and raises FENCE_MAP_FULL as LASTING. -/
def State.addFence (s : State) (kind loc : Nat) : State :=
  if s.isFenced kind loc then s
  else
    let n := s.fences
    if n ≥ 65536 then { s with chf := { s.chf with spill := s.chf.spill ++ [(kind, loc)] } }.raise (errRec 0x0E03 sevLasting 13 0 0)
    else
      let a := setFld (setFld (setFld (0 : Word) 63 63 1) 59 56 kind) 47 0 loc
      let s1 := ((s.wr .CHF_FMAP_A n 0 a).wr .CHF_FMAP_B n 0 (BitVec.ofNat 64 s.time)).wrF .CHF_STATUS 0 0 16 0 (n + 1)
      { s1 with chf := { s1.chf with unsaved := s1.chf.unsaved ++ [n] } }

/-- Write an entry and raise the record of the event, marked FENCED with the entry's index (Table 16.3). -/
def State.fenceWith (s : State) (kind loc : Nat) (e : ErrRec) : State :=
  let i := s.fences
  (s.addFence kind loc).raise { e with flags := e.flags ||| 4, fence := i % 65536 }

/-- Set a withdrawn band of a die in a SEED_REMAP value. -/
def setWd (r : Word) (d band : Nat) : Word := setFld r (16 + 8 * d + band) (16 + 8 * d + band) 1

/-- The remap one fence-map entry adds to a SEED_REMAP value: a fenced unit enables its row pair on its die row, or
withdraws its band when the pair is taken or the row is a spare (R205); a fenced link withdraws the bands at both
ends; a withdrawn band is withdrawn. -/
def remapStep (r : Word) (e : Nat × Nat) : Word :=
  if e.1 = 1 ∨ e.1 = 2 then
    let p := posOfInst (2 * e.2 + (e.1 - 1))
    match remapPair r p.d with
    | some _ => setWd r p.d (p.col / 16)
    | none =>
      if p.row ≥ 64 then setWd r p.d (p.col / 16)
      else if p.d < 2 then setFld (setFld r 7 7 1) 4 0 (p.row / 2)
      else setFld (setFld r 15 15 1) 12 8 (p.row / 2)
  else if e.1 = 4 then
    let p := posOfInst (nbits e.2 31 0)
    let r1 := setWd r p.d (p.col / 16)
    match physNeighbour p (nbits e.2 33 32) with
    | some q => setWd r1 q.d (q.col / 16)
    | none => r1
  else if e.1 = 5 then setWd r (nbits e.2 1 0) (nbits e.2 4 2)
  else r

/-- The SEED_REMAP value that the fence map implies (R516). -/
def State.remapTarget (s : State) : Word := s.fenceList.foldl remapStep 0

/-- Whether a plot holds a tile of a die row (0 for F0 and F1, 1 for F2 and F3). -/
def holdsDieRow (bounds : Word) (dr : Nat) : Bool :=
  decide (nbits bounds.toNat (32 * dr + 15) (32 * dr + 8) ≠ 0 ∨ nbits bounds.toNat (32 * dr + 31) (32 * dr + 24) ≠ 0)

/-- A remap or withdrawal becomes pending for every plot that holds a tile of the die row, which is pre-empted at its next cheap
point (R207). -/
def State.remapPend (s : State) (dr : Nat) : State :=
  (List.range 16).foldl (fun a p =>
    if holdsDieRow (a.rd .SEED_PLOT_BOUNDS p 0) dr then (a.setPlot p { a.plot p with remapPending := true }).bindSave p else a) s

/-- Withdraw a band of a die: a kind-5 entry, pending until the seeder applies it (R205, R207). -/
def State.withdrawBand (s : State) (d band : Nat) : State := (s.addFence 5 (d + 4 * band)).remapPend (d / 2)

/-- Fence a thresher or a bin: the tile is reduced to pass-through, MODE reads 3, and a remap becomes pending; a band
is withdrawn in the cases of R205. -/
def State.fenceTile (s : State) (inst : Nat) (e : ErrRec) : State :=
  let p := posOfInst inst
  let u := inst / 2
  let again := (remapPair s.remapTarget p.d).isSome || decide (p.row ≥ 64)
  let s1 := s.fenceWith (if inst % 2 = 0 then 1 else 2) u e
  let s2 := s1.setTile inst { s1.tile inst with fenced := true }
  let s3 := if inst % 2 = 0 then s2.wrF .CU_STATUS u 0 5 4 3 else s2
  if again then s3.withdrawBand p.d (p.col / 16) else s3.remapPend (p.d / 2)

/-- Fence a neighbour link or bridge and withdraw the bands at its ends (R205). -/
def State.fenceLink (s : State) (inst dir link : Nat) (e : ErrRec) : State :=
  let p := posOfInst inst
  let s1 := s.fenceWith 4 (inst + dir * 2 ^ 32 + link * 2 ^ 34) e
  let s2 := s1.withdrawBand p.d (p.col / 16)
  match physNeighbour p dir with
  | some q => s2.withdrawBand q.d (q.col / 16)
  | none => s2

/-! ### Bin banks -/

/-- Bank and bank row of a bin byte (R106). -/
def bankOf (b : Nat) : Nat :=
  let w := nbits b 17 6
  (nbits w 3 0).xor ((nbits w 7 4).xor (nbits w 11 8))
def rowOf (b : Nat) : Nat := nbits b 17 10

/-- DETAIL0 of a bin record: bank, bank row, granule, spare (Table 16.3). -/
def binDetail (b g spare : Nat) : Nat := bankOf b + rowOf b * 2 ^ 8 + g * 2 ^ 16 + spare * 2 ^ 20

/-- Logical bin of a physical memory unit; none for a spare or skipped row. -/
def State.lbinOfUnit (s : State) (u : Nat) : Option Nat := (physToLog (s.rd .SEED_REMAP 0 0) (posOfInst (muInst u))).map Pos.lbin

/-- Local address of a byte of a memory unit. -/
def State.binAddr (s : State) (u b : Nat) : Nat := 0x010000000000 + ((s.lbinOfUnit u).getD 0) * 0x40000 + b

/-- Remap a bank row to a spare (R505), or fence the bin when the bank has none left; `poison` is the granule that
could not be corrected. -/
def State.spareRow (s : State) (u b : Nat) (poison : Option Nat) (e : ErrRec) : State :=
  let m := s.mu u
  let bank := bankOf b
  let used := mget dNat m.spares bank
  let e := if poison.isSome then { e with flags := e.flags ||| 8 } else e
  let s0 := match poison with
    | some g => { s with mem := { s.mem with pBin := mput dFalse s.mem.pBin (u * 0x10000 + b / 64 * 16 + g) true } }
    | none => s
  if used < 4 then
    let s1 := s0.setMu u { m with
      spares := mput dNat m.spares bank (used + 1)
      rowMap := mput dNat m.rowMap (bank * 256 + rowOf b) (used + 1)
      ceRow := mput dNil m.ceRow (bank * 256 + rowOf b) [] }
    s1.fenceWith 3 (u + bank * 2 ^ 32 + rowOf b * 2 ^ 36 + used * 2 ^ 44) e
  else s0.fenceTile (muInst u) e

/-- A corrected error in a bank word: written back, counted, and the row spared at the fourth within 24 hours, which is
13,500,000,000,000 ticks (R505). -/
def State.binCorrected (s0 : State) (u b g : Nat) : State :=
  match s0.ceFirst (cePlace 1 (u * 0x10000 + b / 64 * 16 + g)) with
  | none => s0
  | some s =>
  let m := s.mu u
  let k := bankOf b * 256 + rowOf b
  let spare := mget dNat m.rowMap k
  let e := { (errRec 0x0201 sevCorrected 1 u 1).withAddr (s.binAddr u b) with detail0 := binDetail b g spare }
  let ts := ((mget dNil m.ceRow k).filter fun t => decide (s.time < t + 13500000000000)) ++ [s.time]
  let s1 := s.setMu u { m with ceRow := mput dNil m.ceRow k ts }
  if ts.length ≥ 4 then (s1.inc .CHF_CE_BIN 0 0 1).spareRow u b none e else s1.raiseCE .CHF_CE_BIN e

/-! ### Lines of control SRAM and local memories -/

/-- Bank of a line of control SRAM (space 64) or of a core's local memory, taken as one bank. -/
def lineBank (space line : Nat) : Nat := if space = 64 then line % 64 else 0

/-- Spare a line and poison the word that could not be corrected (R506). Each bank has 16 spare lines. LOC holds space
[7:0], bank [15:8], line [39:16] and spare [43:40] (log entry 76). -/
def State.spareLine (s : State) (space line : Nat) (word : Option Nat) (e : ErrRec) : State :=
  let used := (s.fenceList.filter fun f => decide (f.1 = 10 ∧ nbits f.2 15 0 = space + lineBank space line * 256)).length
  let e := if word.isSome then { e with flags := e.flags ||| 8 } else e
  let s1 := match word with
    | none => s
    | some k =>
      if space = 64 then { s with mem := { s.mem with pCs := mput dFalse s.mem.pCs k true } }
      else { s with mem := { s.mem with pLm := mput dFalse s.mem.pLm (space * 16384 + k) true } }
  if used < 16 then s1.fenceWith 10 (space + lineBank space line * 2 ^ 8 + line * 2 ^ 16 + used * 2 ^ 40) e else s1.raise e

end Sys2Proof.Machine
end

