-- ==== Sys2Proof/Machine/Rows.lean ====
section
/-!
DEFINITION. Rows of the silo's banks (chapter 09): the code of a line (R270), activations (R274), corrected and lasting errors
(R271, R275), repair and retirement (R275, R276).
-/
namespace Sys2Proof.Machine
open Sys2Proof

/-- What the line's code makes of errors in its symbols (R270): an error confined to one symbol is corrected, one in two is
detected. `first` are the symbols in error at the read and `again` at its single repeat. An error in more symbols, of which the
manual promises nothing, counts as detected (DESIGN CHOICE, log entry 145). -/
def symEcc (first again : List (Fin 36)) : Ecc :=
  match first.eraseDups.length with
  | 0 => .clean
  | 1 => .corrected 0
  | _ => if again.eraseDups.length ≤ 1 then .transient 0 else .lasting 0

/-- Stack, bank and row of a silo address (Table 09.2). -/
def siloStack (a : Nat) : Nat := a / 65536 % 8
def siloRow (a : Nat) : Nat := a / 1024
def siloBank (a : Nat) : Nat := a / 1024 % 65536
def rowStack (r : Nat) : Nat := r / 64 % 8
def rowBank (r : Nat) : Nat := r % 65536

/-- LOC of a row repair: stack [2:0], die [6:3], bank [10:7], row [24:11], spare [28:25], channel [33:29] (log entry 68). -/
def rowLoc (r spare : Nat) : Nat :=
  let a := r * 1024
  rowStack r + nbits a 25 22 * 2 ^ 3 + (nbits a 21 19 * 2 + nbits a 15 15) * 2 ^ 7 + nbits a 39 26 * 2 ^ 11 + spare * 2 ^ 25 +
    nbits a 14 10 * 2 ^ 29

/-- A silo record: the line's address, and bank, row and die in DETAIL0 (Table 16.3). -/
def siloRec (sev line : Nat) : ErrRec :=
  let a := line * 64
  { (errRec 0x0704 sev 6 (siloStack a) 6).withAddr a with detail0 := nbits a 21 19 * 2 + nbits a 15 15 + nbits a 39 26 * 2 ^ 8 + nbits a 25 22 * 2 ^ 24 }

/-- Retire a page (R276): at most 4,096 in each stack, each recorded as LASTING. -/
def State.retirePage (s : State) (page : Nat) : State :=
  let k := page % 8
  let n := s.rdF .SILO_STATUS k 0 44 32
  if s.mem.retired.contains page ∨ n ≥ 4096 then s
  else
    let s1 := { s with mem := { s.mem with retired := s.mem.retired ++ [page] } }
    (s1.wrF .SILO_STATUS k 0 44 32 (n + 1)).fenceWith 7 page ((errRec 0x0702 sevLasting 6 k 6).withAddr (page * 65536))

/-- Start repairing a row, or retire its page when the bank has no spare row left for it, those of the repairs in progress apart
(R275, R276). -/
def State.repairRow (s : State) (r : Nat) : State :=
  if s.tier.fixing.contains r then s
  else if mget dNat s.tier.spares (rowBank r) + (s.tier.fixing.filter fun x => decide (rowBank x = rowBank r)).length ≥ 16 then
    s.retirePage (r / 64)
  else { (s.wrF .SILO_STATUS (rowStack r) 0 0 0 1) with tier := { s.tier with fixing := s.tier.fixing ++ [r] } }

/-- A corrected line: written back, counted and recorded once; the fourth in a row within 24 hours starts its repair
(R271, R275). -/
def State.siloCorrected (s0 : State) (line : Nat) : State :=
  match s0.ceFirst (cePlace 2 line) with
  | none => s0
  | some s =>
  let r := line / 16
  let ts := ((mget dNil s.tier.ce r).filter fun t => decide (s.time < t + 13500000000000)) ++ [s.time]
  let s1 := ((s.inc .SILO_CE (line / 1024 % 8) 0 1).raiseCE .CHF_CE_SILO (siloRec sevCorrected line))
  let s2 := { s1 with tier := { s1.tier with ce := mput dNil s1.tier.ce r (if ts.length ≥ 4 then [] else ts) } }
  if ts.length ≥ 4 then s2.repairRow r else s2

/-- A row activation (R274): the count of the row in this refresh window of 32 ms, 5,000,000 ticks; at 1,024 its
neighbours wait for the bank's next refresh slot. -/
def State.activate (s : State) (r : Nat) : State :=
  let b := rowBank r
  if mget dNat s.tier.openRow b = r + 1 then s
  else
    let w := s.time / 5000000
    let old := mget dNat s.tier.acts r
    let n := (if old / 2048 = w then old % 2048 else 0) + 1
    { s with tier := { s.tier with
        openRow := mput dNat s.tier.openRow b (r + 1)
        acts := mput dNat s.tier.acts r (w * 2048 + min n 2047)
        hot := if n = 1024 then s.tier.hot ++ [r] else s.tier.hot } }

/-- A lasting error in a line (R271, R275): recorded, and its row is repaired. -/
def State.siloLasting (s : State) (line : Nat) : State := (s.raise (siloRec sevLasting line)).repairRow (line / 16)

/-- What a data read's error leaves behind (R271, R272): a corrected line is written back and counted; a detected one is counted
once, or twice when the requester's repeat fails too, and recorded. -/
def State.siloErr (s : State) (line : Nat) : Ecc → State
  | .clean => s
  | .corrected _ => s.siloCorrected line
  | .transient _ => (s.inc .SILO_UE (line / 1024 % 8) 0 1).raise (siloRec sevTransient line)
  | .lasting _ =>
    let t := s.inc .SILO_UE (line / 1024 % 8) 0 2
    { t with tier := { t.tier with bad := t.tier.bad ++ [line] } }.siloLasting line

/-- Rows of the silo that bytes [a, a + n) touch. -/
def rowsOf (a n : Nat) : List Nat := (List.range ((a + n - 1) / 1024 - a / 1024 + 1)).map (· + a / 1024)

/-- An access to silo bytes activates their rows (R274). -/
def State.touchSilo (s : State) (a n : Nat) : State := if n = 0 then s else (rowsOf a n).foldl State.activate s

/-- Whether a row of these bytes is being repaired: accesses to it wait (R275). -/
def State.rowBusy (s : State) (a n : Nat) : Bool := (rowsOf a n).any s.tier.fixing.contains

end Sys2Proof.Machine
end

