-- ==== Sys2Proof/Machine/Access.lean ====
section
/-!
DEFINITION. Reaching the local address space (Table 01.7): who asks (R268), what an address names (R22, R24, R246,
R289), whether the protection tables grant it (R23, R268, R289, R290), and the bytes at rest there (R272, R276, R285).
-/
namespace Sys2Proof.Machine
open Sys2Proof

/-- A requester as the protection tables see it (R268). -/
inductive Who where
  | plot (p : Nat)
  | slice (x : Nat)
  | gleaner
  | func (f : Nat)
  | core (c : Nat)
  | firmware
deriving DecidableEq, Repr

/-- What an address names: silo byte, byte of a physical memory unit, granary byte (port x 2^48 + remote address), host
bus address. -/
inductive Loc where
  | silo (a : Nat)
  | bin (u : Nat) (off : Nat)
  | gran (k : Nat)
  | host (a : Nat)
deriving DecidableEq, Repr

def stRetired : Nat := 0x0702
def stMedia : Nat := 0x0704
def stAlign : Nat := 0x0806
def stHostmem : Nat := 0x0606

/-- PLOTMASK of a core. -/
def State.plotMask (s : State) (c : Nat) : Nat := s.rdF .BND_CTX c 0 47 32

/-- The core that owns a plot (R236). -/
def State.ownerCore (s : State) (p : Nat) : Option Nat :=
  (List.range 64).find? fun c => decide (s.rdF .BND_CTX c 0 15 15 = 1 ∧ s.rdF .BND_CTX c 0 11 8 = p)

/-- Whether an entry with these owner fields grants a requester (R268). -/
def State.grants (s : State) (w : Who) (hostBit glnBit : Bool) (fn plots slices : Nat) (viaHopper : Bool) : Bool :=
  match w with
  | .plot p => nbit plots p
  | .slice x => nbit slices x
  | .gleaner => glnBit
  | .func f => decide (fn = f) && (hostBit || !viaHopper)
  | .core c => decide (Nat.land plots (s.plotMask c) ≠ 0)
  | .firmware => true

/-- Region `r` permits an access to silo bytes [a, a + n). -/
def State.regionOk (s : State) (r : Nat) (w : Who) (a n : Nat) (wr viaHopper : Bool) : Bool :=
  let x := s.rd .SILO_RGN_A r 0
  let y := s.rd .SILO_RGN_B r 0
  bit x 63 && (if wr then bit x 60 else bit x 61) &&
    decide (fld x 23 0 * 65536 ≤ a ∧ a + n ≤ (fld x 23 0 + fld x 47 24 + 1) * 65536) &&
    s.grants w (bit x 62) (bit x 59) (fld x 54 48) (fld y 15 0) (fld y 31 16) viaHopper

/-- The silo region check (R268). -/
def State.siloOk (s : State) (w : Who) (a n : Nat) (wr viaHopper : Bool) : Bool :=
  decide (w = .firmware) || ((List.range 1024).any fun r => s.regionOk r w a n wr viaHopper)

/-- The enabled extent that covers a granary offset (R289). -/
def State.extentOf (s : State) (y : Nat) : Option Nat :=
  (List.range 256).find? fun x =>
    let e := s.rd .GRN_EXTA x 0
    bit e 63 && decide (fld e 14 0 * 2 ^ 30 ≤ y ∧ y < (fld e 14 0 + fld e 46 32 + 1) * 2 ^ 30)

/-- Set bits of a port mask, lowest first. -/
def portList (m : Nat) : List Nat := (List.range 4).filter (nbit m)

/-- Port and remote address that serve offset `y` of an extent, as one key (R289). -/
def State.granKey (s : State) (x y : Nat) : Nat :=
  let e := s.rd .GRN_EXTA x 0
  let o := y - fld e 14 0 * 2 ^ 30
  let ps := portList (fld e 59 56)
  let n := max 1 ps.length
  lget ps (o / 4096 % n) 0 * 2 ^ 48 + s.rdF .GRN_EXTB x 0 55 32 * 2 ^ 30 + o / 4096 / n * 4096 + o % 4096

/-- The function whose host window a requester uses (R246). -/
def State.hostFunc (s : State) : Who → Option Nat
  | .plot p => (s.ownerCore p).map fun c => s.rdF .BND_CTX c 0 54 48
  | .func f => some f
  | .core c => some (s.rdF .BND_CTX c 0 54 48)
  | .firmware => some 0
  | _ => none

/-- What local bytes [a, a + n) name for a requester, whoever may reach them: an access is checked once, when it is issued, and
the result stands for the whole access (R269), so its later parts only need this. -/
def State.locate (s : State) (w : Who) (a n : Nat) : Except Nat Loc :=
  if a + n ≤ 0xA000000000 then .ok (.silo a)
  else if 0x010000000000 ≤ a ∧ a + n ≤ 0x010100000000 then
    let o := a - 0x010000000000
    match unitOfLbin (s.rd .SEED_REMAP 0 0) (o / 0x40000) with
    | some u => if o % 0x40000 + n ≤ 0x40000 then .ok (.bin u (o % 0x40000)) else .error stProt
    | none => .error stProt
  else if 0x100000000000 ≤ a ∧ a + n ≤ 0x200000000000 then
    match s.extentOf (a - 0x100000000000) with
    | none => .error stProt
    | some x => .ok (.gran (s.granKey x (a - 0x100000000000)))
  else if 0x200000000000 ≤ a ∧ a + n ≤ 0x300000000000 then
    match s.hostFunc w with
    | none => .error stProt
    | some f => .ok (.host (s.rdF .HOP_FN_HMBASE f 0 63 12 * 4096 + (a - 0x200000000000)))
  else .error stProt

/-- What local bytes [a, a + n) name for a requester, or the status of the refusal (R22, R23, R246, R268, R289, R290).
`bins` tells whether this kind of access may name bin SRAM (checked by the window then). -/
def State.resolve (s : State) (w : Who) (a n : Nat) (wr viaHopper bins : Bool) : Except Nat Loc :=
  if a + n ≤ 0xA000000000 then
    if s.siloOk w a n wr viaHopper then .ok (.silo a) else .error stProt
  else if 0x010000000000 ≤ a ∧ a + n ≤ 0x010100000000 then
    let o := a - 0x010000000000
    match unitOfLbin (s.rd .SEED_REMAP 0 0) (o / 0x40000) with
    | some u => if bins ∧ o % 0x40000 + n ≤ 0x40000 then .ok (.bin u (o % 0x40000)) else .error stProt
    | none => .error stProt
  else if 0x100000000000 ≤ a ∧ a + n ≤ 0x200000000000 then
    let y := a - 0x100000000000
    match s.extentOf y with
    | none => .error stProt
    | some x =>
      let e := s.rd .GRN_EXTA x 0
      let b := s.rd .GRN_EXTB x 0
      if s.extentOf (y + n - 1) ≠ some x ∨ !bit e 62 then .error stProt
      else if w ≠ .firmware ∧ !s.grants w (bit e 61) (bit e 60) (fld e 54 48) (fld b 15 0) (fld b 31 16) viaHopper then
        .error stProt
      else if wr ∧ (y % 256 ≠ 0 ∨ n % 256 ≠ 0) then .error stAlign
      else .ok (.gran (s.granKey x y))
  else if 0x200000000000 ≤ a ∧ a + n ≤ 0x300000000000 then
    let o := a - 0x200000000000
    match s.hostFunc w with
    | none => .error stProt
    | some f =>
      if o + n ≤ s.rdF .HOP_FN_HMSIZE f 0 47 12 * 4096 then .ok (.host (s.rdF .HOP_FN_HMBASE f 0 63 12 * 4096 + o))
      else .error stProt
  else .error stProt

/-- Bytes of a granary access: the remote addresses of consecutive offsets are consecutive only within 4 KiB, so the key
of each byte is taken from its own offset. -/
def granByte (s : State) (a k : Nat) : Nat :=
  match s.extentOf (a + k - 0x100000000000) with
  | some x => s.granKey x (a + k - 0x100000000000)
  | none => 0

/-- Lines of the silo that bytes [a, a + n) touch. -/
def linesOf (a n : Nat) : List Nat := (List.range ((a + n - 1) / 64 - a / 64 + 1)).map (· + a / 64)

/-- Pages of the silo that bytes [a, a + n) touch. -/
def pagesOf (a n : Nat) : List Nat := (List.range ((a + n - 1) / 65536 - a / 65536 + 1)).map (· + a / 65536)

/-- Whether the ports that serve granary bytes [a, a + n) are all UP (R288, R294). -/
def State.granUp (s : State) (a n : Nat) : Bool :=
  (List.range ((a + n - 1) / 4096 - a / 4096 + 1)).all fun k =>
    let y := max a ((a / 4096 + k) * 4096) - 0x100000000000
    match s.extentOf y with
    | some x => decide (s.rdF .GRN_PORT_STATUS (s.granKey x y / 2 ^ 48) 0 2 0 = 3)
    | none => true

/-- The lasting status of an access at rest: a retired page (R276), a poisoned silo line read or partly written (R272),
a granary port that is not UP (R294), host memory while the link is down or where a read has failed twice (R247, R261); 0 when
there is none. -/
def State.media (s : State) (addr : Nat) (l : Loc) (n : Nat) (wr : Bool) : Nat :=
  match l with
  | .silo a =>
    if (pagesOf a n).any (s.mem.retired.contains ·) then stRetired
    else if (linesOf a n).any fun x =>
        mget dFalse s.mem.pSilo x && !(wr && decide (a ≤ x * 64 ∧ x * 64 + 64 ≤ a + n)) then stMedia
    else 0
  | .gran _ => if s.granUp addr n then 0 else 0x0801
  | .host x =>
    let lost := (List.range ((x + n - 1) / 4096 - x / 4096 + 1)).any fun k => decide (mget dNat s.hop.hostBad (x / 4096 + k) = 2)
    if !wr ∧ (s.rdF .HOP_LINK 0 0 2 0 = 0 ∨ lost) then stHostmem else 0
  | _ => 0

/-- An access to silo bytes passes its intakes: the bytes are charged to the stacks they lie in (Table 09.12), and their rows
are activated (R274). -/
def State.countSilo (s : State) (r : Reg) (a n : Nat) : State :=
  if n = 0 then s
  else
    (pagesOf a n).foldl (fun t p =>
      let lo := max a (p * 65536)
      let hi := min (a + n) (p * 65536 + 65536)
      t.inc r (p % 8) 0 (hi - lo)) (s.touchSilo a n)

/-- A read of local bytes, charged to the silo when they lie there. -/
def State.countAt (s : State) (a n : Nat) : State := if a + n ≤ 0xA000000000 then s.countSilo .SILO_RD_BYTES a n else s

/-- The bytes that `a` (local address) and `l` (what it names) hold. -/
def State.readLoc (s : State) (a : Nat) (l : Loc) (n : Nat) : List Byte :=
  match l with
  | .silo x => s.load .silo x n
  | .bin u o => s.load .bin (u * 0x40000 + o) n
  | .gran _ => (List.range n).map fun k => s.byteAt .gran (granByte s a k)
  | .host x => s.load .host x n

/-- Silo bytes written: whole lines lose their poison, also that which a repair in progress would give them, and every page
touched becomes dirty (R272, R275, R285); the access is charged to its stacks. -/
def State.writeSilo (s : State) (x : Nat) (bs : List Byte) : State :=
  let n := bs.length
  if n = 0 then s
  else
    let s1 := (s.store .silo x bs).countSilo .SILO_WR_BYTES x n
    let pois := (linesOf x n).foldl (fun m k => mput dFalse m k (mget dFalse m k && !decide (x ≤ k * 64 ∧ k * 64 + 64 ≤ x + n))) s1.mem.pSilo
    let dirt := (pagesOf x n).foldl (fun m k => mput dFalse m k true) s1.mem.dirty
    { s1 with
      mem := { s1.mem with pSilo := pois, dirty := dirt }
      tier := { s1.tier with bad := s1.tier.bad.filter fun k => !decide (x ≤ k * 64 ∧ k * 64 + 64 ≤ x + n) } }

/-- Bin bytes written: whole granules lose their poison (R505). -/
def State.writeBin (s : State) (u o : Nat) (bs : List Byte) : State :=
  let n := bs.length
  let s1 := s.store .bin (u * 0x40000 + o) bs
  let pois := ((List.range (n / 4 + 2)).map (· + o / 4)).foldl (fun m g =>
    if o ≤ g * 4 ∧ g * 4 + 4 ≤ o + n then mput dFalse m (u * 0x10000 + g) false else m) s1.mem.pBin
  { s1 with mem := { s1.mem with pBin := pois } }

/-- Write bytes where an access resolved to. Writes to host memory are dropped while the link is down (R261). -/
def State.writeLoc (s : State) (a : Nat) (l : Loc) (bs : List Byte) : State :=
  match l with
  | .silo x => s.writeSilo x bs
  | .bin u o => s.writeBin u o bs
  | .gran _ => (List.range bs.length).foldl (fun t k => t.store .gran (granByte t a k) [lget bs k 0]) s
  | .host x => if s.rdF .HOP_LINK 0 0 2 0 = 0 then s else s.store .host x bs

/-- A read as one access: the bytes, or the status of its failure. -/
def State.fetch (s : State) (w : Who) (a n : Nat) (viaHopper : Bool) : Except Nat (List Byte) :=
  match s.resolve w a n false viaHopper false with
  | .error e => .error e
  | .ok l => if s.media a l n false ≠ 0 then .error (s.media a l n false) else .ok (s.readLoc a l n)

/-- A write as one access: the new state, or the status of its failure with nothing written. -/
def State.put (s : State) (w : Who) (a : Nat) (bs : List Byte) (viaHopper : Bool) : Except Nat State :=
  match s.resolve w a bs.length true viaHopper false with
  | .error e => .error e
  | .ok l => if s.media a l bs.length true ≠ 0 then .error (s.media a l bs.length true) else .ok (s.writeLoc a l bs)

/-- Read bytes of an access that was checked when it was issued (R269), piece by piece within 64 KiB pages. -/
def State.readAt (w : Who) : Nat → State → Nat → Nat → Except Nat (List Byte)
  | 0, _, _, _ => .ok []
  | f + 1, s, a, n =>
    if n = 0 then .ok []
    else
      let k := min n (65536 - a % 65536)
      match s.locate w a k with
      | .error e => .error e
      | .ok l =>
        if s.media a l k false ≠ 0 then .error (s.media a l k false)
        else (State.readAt w f s (a + k) (n - k)).map fun bs => s.readLoc a l k ++ bs

/-- Write bytes of an access that was checked when it was issued (R269), piece by piece within 64 KiB pages; the pieces before
one that fails stay written. -/
def State.writeAt (w : Who) : Nat → State → Nat → List Byte → Nat × State
  | 0, s, _, _ => (0, s)
  | f + 1, s, a, bs =>
    if bs = [] then (0, s)
    else
      let k := min bs.length (65536 - a % 65536)
      match s.locate w a k with
      | .error e => (e, s)
      | .ok l =>
        if s.media a l k true ≠ 0 then (s.media a l k true, s)
        else State.writeAt w f (s.writeLoc a l (bs.take k)) (a + k) (bs.drop k)

/-- Result of a failed access: a refusal by protection is recorded (R23, R508). -/
def State.noteRefusal (s : State) (status src inst addr : Nat) : State :=
  if status = stProt then s.raiseProt src inst addr else s

/-- The first of an engine's reads that protection refuses is recorded (R23). -/
def State.noteReads (s : State) (src inst : Nat) (l : List (Who × Nat × Nat)) (viaHopper : Bool) : State :=
  match l.find? fun x => decide (x.2.2 ≠ 0) && (match s.resolve x.1 x.2.1 x.2.2 false viaHopper false with
      | .error e => decide (e = stProt)
      | .ok _ => false) with
  | some x => s.raiseProt src inst x.2.1
  | none => s

end Sys2Proof.Machine
end

