-- ==== Sys2Proof/Machine/Gateway.lean ====
section
/-!
DEFINITION. The hub gateway's side of a remote request (R446, R451): the slice context of a plot's traffic, tags, and
packets that this chip originates.
-/
namespace Sys2Proof.Machine
open Sys2Proof

/-- Own chip number (HAY_CHIP). -/
def State.chip (s : State) : Nat := s.rdF .HAY_CHIP 0 0 11 0

def State.setHay (s : State) (h : HaySt) : State := { s with hay := h }

/-- SLICE_ID of an enabled slice context (R446). -/
def State.sliceOf (s : State) (x : Nat) : Option Nat :=
  if x < 16 ∧ s.rdF .HAY_CTX x 0 63 63 = 1 then some (s.rdF .HAY_CTX x 0 15 0) else none

/-- The SLICE_ID that a plot's remote traffic carries (R446, R532). -/
def State.plotSlice (s : State) (p : Nat) : Option Nat :=
  if s.rdF .HSP_PLOT_A p 0 63 63 = 1 then s.sliceOf (s.rdF .HSP_PLOT_A p 0 59 56) else none

/-- The plot that the slice tables associate with a slice context (R213). -/
def State.slicePlot (s : State) (x : Nat) : Option Nat :=
  (List.range 16).find? fun p => decide (s.rdF .HSP_PLOT_A p 0 63 63 = 1 ∧ s.rdF .HSP_PLOT_A p 0 59 56 = x)

/-- A packet with the fields every kind needs. -/
def Pkt.mk0 (typ cls slice dst src len : Nat) (data : List Byte) : Pkt :=
  ⟨typ, cls, false, false, slice, dst, src, len, 0, 0, 0, 0, 0, 0, 0, 0, 0, data, (0, 0)⟩

/-- Queue a packet that this chip originates (R447). -/
def State.originate (s : State) (p : Pkt) : State := s.setHay { s.hay with orig := s.hay.orig ++ [p] }

/-- Tags of the gateway that are free: 4,096 in all (R451). -/
def State.freeTags (s : State) : List Nat := (List.range 4096).filter fun t =>
  !(s.hay.tags.any fun x => decide (x.tag = t)) && !(s.hay.ctags.any fun x => decide (x.tag = t))

/-- Send a remote request of a plot's bin: refused without a slice context; none while no tag is free (R23, R446, R451). -/
def State.gwSend (s : State) (p u g req addr len : Nat) (data : Option (List Byte)) : Except Nat (Option State) :=
  match s.plotSlice p with
  | none => .error stProt
  | some sl =>
    match s.pickFrom s.freeTags with
    | (none, _) => .ok none
    | (some t, s1) =>
      let a := addr % 2 ^ 48
      let toBin := decide (0x010000000000 ≤ a ∧ a < 0x010100000000)
      let k := { Pkt.mk0 (if data.isSome then 2 else 0) 0 sl (addr / 2 ^ 48 % 4096) s.chip len (data.getD []) with
        tag := t, addr := a, win := if toBin then (Config.streamWin a).toNat else 0, gen := if toBin then (Config.streamGen a).toNat else 0 }
      .ok (some ((s1.setHay { s1.hay with tags := s1.hay.tags ++ [⟨t, u, g, req⟩] }).originate k))

/-! ### Remote accesses of a core -/

/-- The SLICE_ID of a core's remote traffic: that of the plot it owns (R27, R446; log entry 82). -/
def State.coreSlice (s : State) (c : Nat) : Option Nat :=
  if s.rdF .BND_CTX c 0 15 15 = 1 then s.plotSlice (s.rdF .BND_CTX c 0 11 8) else none

/-- Send the packet of a core's remote access under a free tag; the core waits for the answer. None while no tag is free. -/
def State.coreSend (s : State) (x : CoreTag) : Option State :=
  match s.pickFrom s.freeTags with
  | (none, _) => none
  | (some t, s1) =>
    let k := { x.pkt with tag := t }
    let s2 := (s1.setHay { s1.hay with ctags := s1.hay.ctags ++ [{ x with tag := t, pkt := k }] }).originate k
    some (s2.setCore x.core { s2.core x.core with state := .memory, awaitTicket := t })

/-- Sign extension of an `n`-byte value to 64 bits, or zero extension. -/
def extendTo (n : Nat) (sext : Bool) (v : Nat) : Word :=
  if sext ∧ n < 8 ∧ 2 ^ (8 * n - 1) ≤ v then BitVec.ofNat 64 (v + 2 ^ 64 - 2 ^ (8 * n)) else BitVec.ofNat 64 v

/-- A detected error in a core's remote access is repeated once, then MEMERR (R130, R498, R451). -/
def State.coreRetry (s : State) (x : CoreTag) : State :=
  let at_ := BitVec.ofNat 64 (2 ^ 60 + x.pkt.dst * 2 ^ 48 + x.pkt.addr)
  if x.again then s.trap x.core 4 at_
  else match s.coreSend { x with again := true } with
    | some t => t
    | none => s.trap x.core 4 at_

/-- The answer to a core's remote access: data (1), acknowledgement (3) or NACK (4). A core that no longer waits for it is
left alone. -/
def State.coreAnswer (s : State) (x : CoreTag) (typ status : Nat) (data : List Byte) : State :=
  let s1 := s.setHay { s.hay with ctags := s.hay.ctags.filter fun y => decide (y.tag ≠ x.tag) }
  let k := s.core x.core
  if k.state ≠ .memory ∨ k.awaitTicket ≠ x.tag then s1
  else if typ = 1 then s1.retire x.core fun k => k.setReg x.reg (extendTo x.n x.sext (bytesToNat (data.take x.n)))
  else if typ = 3 then s1.retire x.core id
  else if status = 0x0C03 then s1.coreRetry x
  else s1.trap x.core (if status = 2 ∨ status = 0x0204 then 3 else 4) (BitVec.ofNat 64 (2 ^ 60 + x.pkt.dst * 2 ^ 48 + x.pkt.addr))

end Sys2Proof.Machine
end

