-- ==== Sys2Proof/Machine/Streams.lean ====
section
/-!
DEFINITION. Stream descriptors (Table 04.3), their element order (R111), tails (R118 to R121) and checks (R114);
buffers, slots and tags (R134 to R138, R149); generators: entering a stream, ending it, cancelling it (R109, R122,
R123, R126).
-/
namespace Sys2Proof.Machine
open Sys2Proof

abbrev Desc := BitVec 512

def Desc.addr (d : Desc) : Nat := fld d 59 0
def Desc.kind (d : Desc) : Nat := fld d 82 80
def Desc.esize (d : Desc) : Nat := 4 * 2 ^ fld d 85 83
def Desc.pw (d : Desc) : Nat := fld d 88 86
def Desc.dir (d : Desc) : Nat := fld d 91 90
def Desc.scalar (d : Desc) : Bool := bit d 89
def Desc.buf (d : Desc) : Nat := fld d 95 92
def Desc.count (d : Desc) (k : Nat) : Nat := fld d (287 + 16 * k) (272 + 16 * k) + 1
def Desc.stride (d : Desc) (k : Nat) : Int := sfld d (383 + 32 * k) (352 + 32 * k)

/-- Elements of a stream. -/
def Desc.total (d : Desc) : Nat := (List.range 5).foldl (fun n k => n * d.count k) 1

/-- Indices of element `e`, dimension 0 fastest (R111). -/
def Desc.idx (d : Desc) (e : Nat) : List Nat :=
  ((List.range 5).foldl (fun (p : List Nat × Nat) k => (p.1 ++ [p.2 % d.count k], p.2 / d.count k)) ([], e)).1

/-- Sum of index x stride of element `e`. -/
def Desc.offset (d : Desc) (e : Nat) : Int :=
  (List.range 5).foldl (fun (a : Int) k => a + Int.ofNat (lget (d.idx e) k 0) * d.stride k) 0

/-- Byte offset in the bin of a READ or WRITE element. -/
def Desc.binByte (d : Desc) (e : Nat) : Nat := ((d.addr : Int) + d.offset e).toNat

/-- Global address of a FETCH or FLUSH element: the sum is modulo 2^48 in the local part (R111). -/
def Desc.globalAddr (d : Desc) (e : Nat) : Nat :=
  d.addr / 2 ^ 48 * 2 ^ 48 + (((d.addr % 2 ^ 48 : Nat) : Int) + d.offset e).emod (2 ^ 48 : Int) |>.toNat

/-- Whether element `e` is the last of its dimension-0 run. -/
def Desc.runEnd (d : Desc) (e : Nat) : Bool := decide ((e + 1) % d.count 0 = 0)

/-! ### Tails -/

/-- A tail rule: dimension, rule, limit, real bytes per group, group size. -/
structure Tail where
  dim : Nat
  rule : Nat
  limit : Nat
  partb : Nat
  pgrp : Nat
deriving DecidableEq, Repr

/-- Tail rules A and B of a descriptor (Table 04.3). -/
def Desc.tailAt (d : Desc) (lo : Nat) : Tail :=
  ⟨fld d (lo + 30) (lo + 28), fld d (lo + 27) (lo + 26), fld d (lo + 25) (lo + 10), fld d (lo + 9) (lo + 3), fld d (lo + 2) lo⟩

def Desc.tails (d : Desc) : List Tail := [d.tailAt 192, d.tailAt 224]

/-- Whether a rule makes the element at these indices wholly tail (R118). -/
def Tail.whole (t : Tail) (idx : List Nat) : Bool := decide (t.rule ≠ 0 ∧ t.limit ≤ lget idx t.dim 0)

/-- Whether a rule makes byte `b` of the element at these indices a tail byte (R118). -/
def Tail.byte (t : Tail) (idx : List Nat) (b : Nat) : Bool :=
  t.whole idx || decide (t.rule ≠ 0 ∧ t.partb ≠ 0 ∧ lget idx t.dim 0 + 1 = t.limit ∧ t.partb ≤ b % 2 ^ t.pgrp)

def Desc.whole (d : Desc) (e : Nat) : Bool := d.tails.any (·.whole (d.idx e))
def Desc.tailByte (d : Desc) (e b : Nat) : Bool := d.tails.any (·.byte (d.idx e) b)
/-- A tail byte under INVALID. -/
def Desc.invByte (d : Desc) (e b : Nat) : Bool := d.tails.any fun t => decide (t.rule = 2) && t.byte (d.idx e) b

/-- Real bytes of an element that a FETCH requests: up to its last real byte, rounded up to 4 (R120). -/
def Desc.realLen (d : Desc) (e : Nat) : Nat :=
  let bs := (List.range d.esize).filter fun b => !d.tailByte e b
  match bs.getLast? with
  | some b => ceilDiv (b + 1) 4 * 4
  | none => 0

/-- Width in bits of a port element (Table 03.1), for bytes and elements of a beat. -/
def portWidth (pw : Nat) : Nat := lget [32, 16, 8, 6, 4] pw 32

/-- The valid count of a beat with `n` valid bytes (R112): floor(8n / width); for width code 3 that is floor(4n / 3). -/
def validCount (pw n : Nat) : Nat := 8 * n / portWidth pw

/-! ### Buffers, slots and tags -/

/-- MU_BUFi as mode, slots, words per slot, base word (Table 04.5). -/
structure Buf where
  mode : Nat
  nslot : Nat
  slotw : Nat
  base : Nat
deriving DecidableEq, Repr

def bufOf (v : Word) : Buf := ⟨fld v 63 62, fld v 47 36 + 1, fld v 35 24 + 1, fld v 23 12⟩

def State.buf (s : State) (u i : Nat) : Buf := bufOf (s.rd .MU_BUF u i)

/-- The slot of a declared buffer that holds a bank word, as buffer x 8192 + slot + 1; 0 for none. -/
def State.slotAt (s : State) (u w : Nat) : Nat :=
  match (List.range 16).find? fun i =>
      let b := s.buf u i
      decide (b.mode ≠ 0 ∧ b.base ≤ w ∧ w < b.base + b.nslot * b.slotw) with
  | some i => i * 8192 + (w - (s.buf u i).base) / (s.buf u i).slotw + 1
  | none => 0

/-- Buffer, slot and tag word of a visit code. -/
def visitBuf (v : Nat) : Nat := v / 8192
def visitSlot (v : Nat) : Nat := v % 8192 - 1
def State.visitWord (s : State) (u v : Nat) : Nat :=
  (s.buf u (visitBuf v)).base + visitSlot v * (s.buf u (visitBuf v)).slotw

/-- A slot's tag; true is full. -/
def State.tag (s : State) (u v : Nat) : Bool := mget dFalse (s.mu u).tags (s.visitWord u v)

def State.setTag (s : State) (u v : Nat) (b : Bool) : State :=
  s.setMu u { s.mu u with tags := mput dFalse (s.mu u).tags (s.visitWord u v) b }

/-- The end of a visit sets the tag full after a WRITE or FETCH and empty after a READ or FLUSH, and counts the change;
SCHEDULED buffers keep no tags (R135, R138, R149). -/
def State.endVisit (s : State) (u v : Nat) (fills : Bool) : State :=
  if v = 0 ∨ (s.buf u (visitBuf v)).mode ≤ 1 then s
  else if s.tag u v = fills then s
  else (s.setTag u v fills).inc (if fills then .MU_SLOT_FILLS else .MU_SLOT_DRAINS) u 0 1

/-- Set every tag of a buffer empty, and its ring pointers to slot 0; full tags count as clears (R136, R142, R149). -/
def State.clearBuf (s : State) (u i : Nat) : State :=
  let b := s.buf u i
  let m := s.mu u
  let full := m.tags.filter fun p => decide (b.mode ≠ 0 ∧ b.base ≤ p.1 ∧ p.1 < b.base + b.nslot * b.slotw)
  let s1 := s.setMu u { m with
    tags := full.foldl (fun t p => mput dFalse t p.1 false) m.tags
    fill := mput dNat m.fill i 0
    drain := mput dNat m.drain i 0 }
  s1.inc .MU_SLOT_CLEARS u 0 full.length

/-- How a tag check ends (Table 04.6). -/
inductive TagCheck where
  | go | stall | fault
deriving DecidableEq, Repr

/-- The tag check of a visit's first access; `fills` for a WRITE or FETCH. -/
def State.tagCheck (s : State) (u v : Nat) (fills : Bool) : TagCheck :=
  if v = 0 then .go
  else
    let m := (s.buf u (visitBuf v)).mode
    if m ≤ 1 ∨ s.tag u v ≠ fills then .go
    else if m = 2 then .stall else .fault

/-! ### Generators -/

def State.gen (s : State) (u g : Nat) : Gen := mget dGen (s.mu u).gens g
def State.setGen (s : State) (u g : Nat) (x : Gen) : State :=
  s.setMu u { s.mu u with gens := mput dGen (s.mu u).gens g x }

/-- Whether a record gives its tile steering only (FLAGS[0] of Table 06.2). -/
def recPassOnly (r : List Byte) : Bool := nbit (lget r 3 0).toNat 0

/-- What the tile's own unit takes of a record: nothing under PASS_ONLY. -/
def unitRecord (r : List Byte) : List Byte := if recPassOnly r then [] else r

/-- Descriptor `i` of the stream table of a configuration (Table 06.2). -/
def TileCfg.desc (c : TileCfg) (i : Nat) : Desc := BitVec.ofNat 512 (bytesToNat (((unitRecord c.record).drop (0x400 + 64 * i)).take 64))

/-- Whether the box of real indices of a READ or WRITE leaves the bin (R114). -/
def Desc.outside (d : Desc) : Bool :=
  let n := fun k => d.tails.foldl (fun c t => if t.rule ≠ 0 ∧ t.dim = k then min c t.limit else c) (d.count k)
  if (List.range 5).any (fun k => decide (n k = 0)) then false
  else
    let lo := (List.range 5).foldl (fun a k => a + min 0 (d.stride k * ((n k : Int) - 1))) (d.addr : Int)
    let hi := (List.range 5).foldl (fun a k => a + max 0 (d.stride k * ((n k : Int) - 1))) (d.addr : Int)
    decide (lo < 0 ∨ hi + d.esize > 0x40000)

/-- Whether the active configuration gives the link that PORT names to a READ or a WRITE (R161). -/
def State.portGiven (s : State) (u : Nat) (d : Desc) : Bool :=
  let i := muInst u
  let o := d.dir + if d.scalar then 4 else 0
  if d.kind = 0 then decide (s.osel i o = 0x10)
  else ((List.range 18).all fun k => decide (s.osel i k ≠ o + 1)) && decide (s.joinQs i (o + 1) = [])

/-- The refusals of R114. -/
def State.descBad (s : State) (u g : Nat) (d : Desc) : Bool :=
  let neighbour := decide (d.kind ≤ 1)
  decide (fld d 271 255 ≠ 0 ∨ bit d 223 ∨ fld d 191 128 ≠ 0 ∨ fld d 119 96 ≠ 0 ∨ fld d 79 60 ≠ 0 ∨ fld d 127 120 ≠ 0) ||
  d.tails.any (fun t => decide (t.dim > 4 ∨ t.rule = 3 ∨ t.pgrp = 7 ∨ t.partb > 64)) ||
  decide (d.kind > 3 ∨ fld d 85 83 > 4 ∨ d.pw > 4) ||
  decide ((d.kind = 0 ∨ d.kind = 3) ≠ (g < 2)) ||
  decide (d.addr % d.esize ≠ 0) ||
  (List.range 5).any (fun k => decide (d.count k > 1 ∧ d.stride k % (d.esize : Int) ≠ 0)) ||
  (neighbour && (decide (d.addr ≥ 0x40000) || d.outside || !s.portGiven u d || (d.scalar && decide (d.esize ≠ 4)))) ||
  (!neighbour && (decide ((s.buf u d.buf).mode = 0) || decide (fld d 91 86 ≠ 0))) ||
  d.tails.any fun t => decide (t.rule = 2) &&
    !((decide (t.dim = 0) || decide (d.esize = 64)) && (decide (t.partb = 0) || decide (2 ^ t.pgrp = d.esize)))

/-- Complete the command that issued a stream. A stream of a MATRIX command carries its core + 64: the stream's end says
nothing, but its failure gives MATRIX its status and halts the queue (R238). -/
def State.completeStream (s : State) (u : Nat) (x : Stream) (status : Nat) : State :=
  let ep := (s.tile (muInst u)).epoch.toNat
  match x.cmd with
  | some r =>
    if r.core < 64 then s.complete r ep status none
    else if status = 0 ∨ !(s.core (r.core - 64)).cmds.any (·.ticket = r.ticket) then s
    else (s.complete ⟨r.core - 64, r.ticket⟩ ep status none).haltQueue (r.core - 64) r.ticket
  | none => s

/-- Whether a generator has no place for another stream: its queued descriptor is next in line, also between the end of a
stream and STREAM_ACTIVATE (R109). -/
def Gen.full (k : Gen) : Bool := k.queued.isSome

/-- Enter a checked stream into a generator with a place for it (R109, R122): active when it is idle, else queued. -/
def State.enterStream (s : State) (u g : Nat) (x : Stream) : State :=
  let k := s.gen u g
  let y := { x with desc := setFld x.desc 127 120 k.epoch.toNat }
  match k.active with
  | none => s.setGen u g { k with active := some y, st := 1, ttl := 0 }
  | some _ => s.setGen u g { k with queued := some y }

/-- The active stream ends: its command completes; the queued descriptor becomes active by STREAM_ACTIVATE. -/
def State.endStream (s : State) (u g : Nat) (status : Nat) : State :=
  let k := s.gen u g
  match k.active with
  | none => s
  | some x => (s.setGen u g { k with active := none, st := 0, ttl := 0, rd := none }).completeStream u x status

/-- Cancel at a generator (R123): the epoch advances, active and queued descriptors are discarded with this status, and
a request outstanding four or more epochs back holds the next issue (R126). -/
def State.cancelGen (s : State) (u g : Nat) (status : Nat) : State :=
  let k := s.gen u g
  let ep := k.epoch + 1
  let old := k.reqs.any fun r => decide (4 ≤ (ep - r.epoch).toNat)
  let s1 := s.setGen u g { k with active := none, queued := none, epoch := ep, st := 0, ttl := 0, rd := none, reuse := k.reuse || old }
  let s2 := match k.active with
    | some x => s1.completeStream u x status
    | none => s1
  match k.queued with
  | some x => s2.completeStream u x status
  | none => s2

/-- Move a bank's rotating pointer past a winner (R107). -/
def State.bankWin (s : State) (u bank idx : Nat) : State :=
  s.setMu u { s.mu u with ptr := mput dNat (s.mu u).ptr bank ((idx + 1) % 6) }

/-- Whether data requester `idx` wins a bank against its rivals (R107): the error and configuration classes go first,
scrub last, and within the data class the first at or above the pointer wins, wrapping. -/
def State.bankWins (s : State) (u bank idx : Nat) (rivals : List BankReq) : Bool :=
  let p := mget dNat (s.mu u).ptr bank
  rivals.all fun r => match r with
    | .writeBack | .config => false
    | .data i => decide ((idx + 6 - p) % 6 ≤ (i.val + 6 - p) % 6)
    | .scrub => true

/-- Banks that bytes [b, b + n) of a bin touch, in word order. -/
def banksOf (b n : Nat) : List Nat :=
  ((List.range ((b + n - 1) / 64 + 1 - b / 64)).map fun k => bankOf ((b / 64 + k) * 64)).eraseDups

/-- A data requester that has made its accesses to bytes [b, b + n) has won each of their banks. -/
def State.banksWon (s : State) (u b n idx : Nat) : State := (banksOf b n).foldl (fun a k => a.bankWin u k idx) s

end Sys2Proof.Machine
end

