-- ==== Sys2Proof/Machine/Thresher.lean ====
section
/-!
DEFINITION. The threshers (chapter 03): reading operands, lane activity (R80), writing results to registers, ports and
DOWN (R71, R72), the counter chain (R89, R90), passes and runs (R91, R92), COMPRESS and EXPAND (R93, R94), and matrix
mode (R96 to R101). A stage command issues the word at which the stage's sequencer stands in the active program
(CU_PROG); where that word is another operation, or the stage is not in a pass, the command changes nothing.
-/
namespace Sys2Proof.Machine
open Sys2Proof

def Cu.stage (k : Cu) (st : Nat) : Stage := mget dStage k.stages st
def Cu.setStage (k : Cu) (st : Nat) (g : Stage) : Cu := { k with stages := mput dStage k.stages st g }
def Cu.lf (k : Cu) (lane : Nat) : Word32 := mget lfsrDefault k.lfsr lane

/-- Number of words of a stage program (Table 03.8). -/
def State.nwords (s : State) (u st : Nat) : Nat := s.rdF .CU_CHAIN u st 55 52

/-- Word `w` of a stage's active program (CU_PROG). -/
def State.progWord (s : State) (u st w : Nat) : SW :=
  let j := 16 * st + 2 * w
  SW.decode ((s.rd .CU_PROG u j).toNat + (s.rd .CU_PROG u (j + 1)).toNat * 2 ^ 64)

/-- Mode of a thresher: 0 no section, 1 vector, 2 matrix, 3 fenced (Table 03.11). -/
def State.cuMode (s : State) (u : Nat) : Nat := s.rdF .CU_STATUS u 0 5 4

def State.cuState (s : State) (u x : Nat) : State := s.wrF .CU_STATUS u 0 2 0 x

/-- A cycle in which a thresher's output waits for credit (R104, Table 05.15). -/
def State.countStall (s : State) (u : Nat) : State := (s.inc .CU_STALL_OUT u 0 1).inc .LNK_CREDIT_STALL (cuInst u) 0 1
def State.stallOut (s : State) (u : Nat) : State := (s.cuState u 3).countStall u

/-- Numeric settings of a word's rounding mode under CU_NUMCTL (Table 02.8). -/
def State.num (s : State) (u rm : Nat) : NumSet :=
  let n := s.rd .CU_NUMCTL u 0
  ⟨RMode.ofCode rm (fld n 1 0), bit n 4, bit n 2⟩

/-- Record flags in flag mode only (R59, R60). -/
def State.flag (s : State) (u : Nat) (f : Flags) : State :=
  if bit (s.rd .CU_NUMCTL u 0) 7 then s.wr .CU_FLAGS u 0 (s.rd .CU_FLAGS u 0 ||| f.setWidth 64) else s

/-- The port byte of CU_PORTBIND: VI0-VI3 at 0, 8, 16, 24 and VO0, VO1 at 32, 40 (Table 03.2). -/
def State.portBind (s : State) (u k : Nat) : Nat := nbits (s.rd .CU_PORTBIND u 0).toNat (8 * k + 5) (8 * k)
def State.portEn (s : State) (u k : Nat) : Bool := nbit (s.portBind u k) 5
def State.portWc (s : State) (u k : Nat) : Nat := s.portBind u k / 4 % 8
def State.portStage (s : State) (u k : Nat) : Nat := s.portBind u k % 4
def State.qiBound (s : State) (u st : Nat) : Bool :=
  let b := s.rd .CU_PORTBIND u 0
  bit b 50 && decide (fld b 49 48 = st)

/-- The nearest lower stage with a program, whose DOWN is this stage's UP (a stage with NWORDS 0 passes UP to DOWN,
Table 03.8), and the room its path has: two entries for each boundary (chapter 03). -/
def State.below (s : State) (u st : Nat) : Option Nat := ((List.range st).filter fun k => decide (s.nwords u k ≠ 0)).getLast?

def State.downRoom (s : State) (u st : Nat) : Nat :=
  let nxt := ((List.range 4).filter fun k => decide (st < k ∧ s.nwords u k ≠ 0)).head?
  2 * ((nxt.getD 4) - st)

/-- The last active stage of a thresher. -/
def State.lastStage (s : State) (u : Nat) : Nat :=
  (((List.range 4).filter fun k => decide (s.nwords u k ≠ 0)).getLast?).getD 0

/-! ### Operands -/

/-- The current group of a VI port: lane values and which lanes hold a valid element (R68, R69). -/
def State.viGroup (s : State) (u n : Nat) : List Word32 × List Bool :=
  match (s.tile (cuInst u)).head (12 + n) with
  | some (.beat d v) =>
    let j := mget dNat (s.cu u).viIdx n
    let wc := s.portWc u n
    ((List.range 16).map (fun l => if 16 * j + l < v then beatElem wc d (16 * j + l) else 0),
     (List.range 16).map fun l => decide (16 * j + l < v))
  | _ => (List.replicate 16 0, List.replicate 16 false)

/-- The entry at the head of UP. -/
def State.upHead (s : State) (u st : Nat) : Option DownItem :=
  match s.below u st with
  | none => none
  | some b => ((s.cu u).stage b).down.head?

/-- Value of a source operand in every lane (Table 03.4). -/
def State.operand (s : State) (u st : Nat) (w : SW) (code : Nat) : List Word32 :=
  let k := s.cu u
  let g := k.stage st
  let all (v : Word32) : List Word32 := List.replicate 16 v
  if code < 16 then (List.range 16).map fun l =>
    match mget dNone g.t (code * 16 + l) with
    | some v => v
    | none => if k.gen = 0 then 0 else Config.freeLane (u * 4 + st) k.gen (code * 16 + l)
  else if code < 20 then (List.range 16).map fun l => mget dW32 g.acc ((code - 16) * 16 + l)
  else if code < 24 then (s.viGroup u (code - 20)).1
  else if code = 0x18 then
    match (s.tile (cuInst u)).head 16 with
    | some (.scalar v) => all v
    | _ => all 0
  else if code = 0x19 then
    match s.upHead u st with
    | some (.grp l _) => (List.range 16).map fun i => lget l i 0
    | _ => all 0
  else if code = 0x1A then all (BitVec.ofNat 32 w.imm)
  else if 0x1C ≤ code ∧ code ≤ 0x1E then all (BitVec.ofNat 32 (lget g.cnt (code - 0x1C) 0))
  else if code = 0x1F then (List.range 16).map (BitVec.ofNat 32)
  else if 0x40 ≤ code then all (mget dW32 k.kAct (code - 0x40))
  else all 0

/-- The 64-bit group operand of a dot source in every lane (R85). -/
def State.pairOperand (s : State) (u st : Nat) (w : SW) (code : Nat) : List Nat :=
  let lo := s.operand u st w code
  let hi := s.operand u st w (code + 1)
  (List.range 16).map fun l => (lget lo l 0).toNat + (lget hi l 0).toNat * 2 ^ 32

def Stage.p (g : Stage) (n lane : Nat) : Bool := mget dTrue g.pred (n * 16 + lane)

/-- Whether each lane's guard holds (R80). -/
def Stage.guard (g : Stage) (w : SW) (lane : Nat) : Bool := !w.gen || (g.p w.gidx lane != w.gneg)

/-- Whether TAIL leaves each lane in: its element is valid on the first VI port among the sources (R80). -/
def State.tailOk (s : State) (u : Nat) (w : SW) : List Bool :=
  if w.tail then
    match w.tailPort with
    | some n => (s.viGroup u n).2
    | none => List.replicate 16 true
  else List.replicate 16 true

/-! ### Results -/

/-- Leading lanes that TAIL leaves in: the valid elements of an issue's output (R71). -/
def leading (l : List Bool) : Nat := (l.takeWhile id).length

/-- Send a beat on VO `n` (source codes 0x10 and 0x11, Table 05.4). -/
def State.sendVo (s : State) (u n : Nat) (d : BitVec 512) (v : Nat) : State := s.send (cuInst u) (0x10 + n) (.beat d v)

/-- Add an issue's sixteen elements to a VO port; a full beat is sent (R71). -/
def State.pushVo (s : State) (u n : Nat) (vals : List Word32) (v : Nat) : State :=
  let k := s.cu u
  let old := mget dNil k.vo n
  let oldV := mget dNat k.voV n
  let acc := old ++ vals
  let accV := if oldV = old.length then oldV + v else oldV
  let wc := s.portWc u (4 + n)
  if acc.length ≥ portElems wc then
    (s.setCu u { k with vo := mput dNil k.vo n [], voV := mput dNat k.voV n 0 }).sendVo u n (packBeat wc acc) accV
  else s.setCu u { k with vo := mput dNil k.vo n acc, voV := mput dNat k.voV n accV }

/-- Send a partly filled beat at the end of a pass (R71). -/
def State.flushVo (s : State) (u n : Nat) : State :=
  let k := s.cu u
  let acc := mget dNil k.vo n
  if acc = [] then s
  else (s.setCu u { k with vo := mput dNil k.vo n [], voV := mput dNat k.voV n 0 }).sendVo u n
        (packBeat (s.portWc u (4 + n)) acc) (mget dNat k.voV n)

/-- Put an entry on a stage's DOWN path. -/
def State.pushDown (s : State) (u st : Nat) (d : DownItem) : State :=
  let k := s.cu u
  let g := k.stage st
  s.setCu u (k.setStage st { g with down := g.down ++ [d] })

/-- Write lane values to a destination operand (Table 03.4). `act` says which lanes are active, `tl` which lanes TAIL
leaves in; a lane inactive only through its guard writes zero to a port (R80). -/
def State.writeDst (s : State) (u st dst : Nat) (vals : List Word32) (act tl : List Bool) : State :=
  let k := s.cu u
  let g := k.stage st
  let port := (List.range 16).map fun l => if lget act l false then lget vals l 0 else 0
  let v := leading tl
  if dst < 16 then
    s.setCu u (k.setStage st { g with t := (List.range 16).foldl (fun m l =>
         if lget act l false then mput dNone m (dst * 16 + l) (some (lget vals l 0)) else m) g.t })
  else if dst < 20 then
    s.setCu u (k.setStage st { g with acc := (List.range 16).foldl (fun m l =>
         if lget act l false then mput dW32 m ((dst - 16) * 16 + l) (lget vals l 0) else m) g.acc })
  else if dst = 0x14 ∨ dst = 0x15 then s.pushVo u (dst - 0x14) port v
  else if dst = 0x18 then
    if lget act 0 false then s.send (cuInst u) 0x12 (.scalar (lget vals 0 0)) else s
  else if dst = 0x19 then s.pushDown u st (.grp port v)
  else s

/-- Update accumulator `dst` of every active lane by `f lane old`. A code that names no accumulator counts modulo 4 (the model's
choice, log entry 134). -/
def State.updAcc (s : State) (u st dst : Nat) (act : List Bool) (f : Nat → Word32 → Word32) : State :=
  let k := s.cu u
  let g := k.stage st
  let a := dst % 4
  s.setCu u (k.setStage st { g with acc := (List.range 16).foldl (fun m l =>
       if lget act l false then mput dW32 m (a * 16 + l) (f l (mget dW32 m (a * 16 + l))) else m) g.acc })

/-- Write predicate `pd` of every active lane. -/
def State.writePred (s : State) (u st pd : Nat) (vals act : List Bool) : State :=
  let k := s.cu u
  let g := k.stage st
  s.setCu u (k.setStage st { g with pred := (List.range 16).foldl (fun m l =>
       if lget act l false then mput dTrue m (pd * 16 + l) (lget vals l false) else m) g.pred })

/-- Run an operation over the active lanes in lane order, threading each lane's LFSR and gathering flags. -/
def State.overLanes (s : State) (u : Nat) (act : List Bool) (f : Nat → Word32 → Word32 × Flags × Word32) :
    State × List Word32 :=
  let k := s.cu u
  let r := (List.range 16).map fun l =>
    if lget act l false then f l (k.lf l) else (0, Flags.none, k.lf l)
  let lf := (List.range 16).foldl (fun m l => mput lfsrDefault m l ((r[l]?).getD (0, Flags.none, k.lf l)).2.2) k.lfsr
  ((s.setCu u { k with lfsr := lf }).flag u (r.foldl (fun a x => a ||| x.2.1) Flags.none), r.map (·.1))

/-! ### The operations (Table 03.6) -/

/-- A CVT, MXQ or MXDQ destination value. -/
def State.convLanes (s : State) (u : Nat) (w : SW) (act : List Bool) (f : Nat → RCtx → Nat × Flags) : State × List Word32 :=
  let n := s.num u w.rm
  s.overLanes u act fun l lf =>
    let (c, lf') := draw n lf
    let (x, fl) := f l c
    (BitVec.ofNat 32 x, fl, lf')

/-- The accumulator of each lane, as a value read in its format (AREAD). -/
def State.accVals (s : State) (u st code : Nat) : List Word32 :=
  (List.range 16).map fun l => mget dW32 ((s.cu u).stage st).acc (code % 4 * 16 + l)

/-- AREAD's values: a raw copy when the two formats are equal, else a conversion (Table 03.6). -/
def State.aread (s : State) (u st : Nat) (w : SW) (act : List Bool) : State × List Word32 :=
  let a := s.accVals u st w.s1
  let src := if w.fs = 8 then 8 else 0
  if src = w.fd then (s, a) else s.convLanes u w act fun l c => cvtOp src w.fd c (lget a l 0)

/-- DOTF (R50): the exact group sum is added to the FP32 accumulator with one RNE rounding. -/
def State.dotf (s : State) (u st : Nat) (w : SW) (act : List Bool) : State :=
  let a := s.pairOperand u st w w.s1
  let b := s.pairOperand u st w w.s2
  let ftz := (s.num u 0).ftz
  let r := (List.range 16).map fun l =>
    let (p, f1) := groupDot elemVal w.fs w.fd (lget a l 0) (lget b l 0) (nbit w.imm 0)
    let (v, f2) := p.add (Fmt.fp32.decode (lget (s.accVals u st w.dst) l 0).toNat)
    let (x, f3) := Fmt.fp32.ofVal { RCtx.rne with ftz := ftz } v
    (BitVec.ofNat 32 x, f1 ||| f2 ||| f3)
  let fl := (List.range 16).foldl (fun a l => if lget act l false then a ||| ((r[l]?).getD (0, 0)).2 else a) Flags.none
  (s.updAcc u st w.dst act fun l _ => ((r[l]?).getD (0, 0)).1).flag u fl

/-- DOTI (R51): INT32, wrapping; a wrap raises overflow. -/
def State.doti (s : State) (u st : Nat) (w : SW) (act : List Bool) : State :=
  let a := s.pairOperand u st w w.s1
  let b := s.pairOperand u st w w.s2
  let ex (l : Nat) : Int :=
    sint 32 (lget (s.accVals u st w.dst) l 0).toNat + groupDotI w.fs w.fd (lget a l 0) (lget b l 0) (nbit w.imm 0)
  let wrap := (List.range 16).any fun l => lget act l false && decide (ex l > 2147483647 ∨ ex l < -2147483648)
  (s.updAcc u st w.dst act fun l _ => BitVec.ofInt 32 (ex l)).flag u (if wrap then Flags.overflow else Flags.none)

/-- DOTMX (R50, R86): the group's exact sum joins the block partial of a[DST]; with IMM[1] the partial, scaled by
2^(E_A + E_B - 254), is added to the accumulator with one RNE rounding and cleared. The word with IMM[1] gives the scales, so
the flags met on the way wait for it: under a scale of 0xFF every element was a NaN and none is raised (R39). -/
def State.dotmx (s : State) (u st : Nat) (w : SW) (act : List Bool) : State :=
  let a := s.pairOperand u st w w.s1
  let b := s.pairOperand u st w w.s2
  let sc := s.operand u st w w.s3
  let ftz := (s.num u 0).ftz
  let g := (s.cu u).stage st
  let k0 := w.dst % 4 * 16
  let val (c v : Nat) : FVal := (mxOf c).decode v
  let r := (List.range 16).map fun l =>
    let (p, f1) := groupDot val w.fs w.fd (lget a l 0) (lget b l 0) (nbit w.imm 0)
    let (p2, f2) := (mget dPart g.part (k0 + l)).add p
    let e := (lget sc l 0).toNat
    let ea := e % 256
    let eb := e / 256 % 256
    let blk : FVal := if ea = 0xFF ∨ eb = 0xFF then .nan else FVal.scale ((ea : Int) + eb - 254) p2
    let (v, f3) := blk.add (Fmt.fp32.decode (lget (s.accVals u st w.dst) l 0).toNat)
    let (x, f4) := Fmt.fp32.ofVal { RCtx.rne with ftz := ftz } v
    let f := mget dFlags g.partF (k0 + l) ||| f1 ||| f2
    if nbit w.imm 1 then (partDefault, BitVec.ofNat 32 x, if ea = 0xFF ∨ eb = 0xFF then Flags.none else f ||| f3 ||| f4)
    else (p2, lget (s.accVals u st w.dst) l 0, f)
  let at' (l : Nat) : FVal × Word32 × Flags := (r[l]?).getD (partDefault, 0, 0)
  let ends := nbit w.imm 1
  let s1 := s.updAcc u st w.dst act fun l _ => (at' l).2.1
  let k := s1.cu u
  let g1 := k.stage st
  let s2 := s1.setCu u (k.setStage st { g1 with
    part := (List.range 16).foldl (fun m l => if lget act l false then mput dPart m (k0 + l) (at' l).1 else m) g1.part
    partF := (List.range 16).foldl (fun m l =>
      if lget act l false then mput dFlags m (k0 + l) (if ends then Flags.none else (at' l).2.2) else m) g1.partF })
  s2.flag u ((List.range 16).foldl (fun a l => if ends && lget act l false then a ||| (at' l).2.2 else a) Flags.none)

/-- COMPRESS (R93): selected active lanes join the pack buffer in lane order; each complete group of 16 goes to DST. -/
def State.compress (s : State) (u st : Nat) (w : SW) (act : List Bool) : State :=
  let x := s.operand u st w w.s1
  let k := s.cu u
  let g := k.stage st
  let new := (List.range 16).filterMap fun l => if lget act l false && g.p w.psel l then some (lget x l 0) else none
  let buf := g.pack ++ new
  let g1 := { g with pack := if buf.length ≥ 16 then buf.drop 16 else buf, packed := g.packed + new.length }
  let s1 := s.setCu u (k.setStage st g1)
  if buf.length ≥ 16 then s1.writeDst u st w.dst (buf.take 16) (List.replicate 16 true) (List.replicate 16 true) else s1

/-- How many packed values an EXPAND issue needs (R94). -/
def State.expandNeed (s : State) (u st : Nat) (w : SW) (act : List Bool) : Nat :=
  ((List.range 16).filter fun l => lget act l false && ((s.cu u).stage st).p w.psel l).length

/-- EXPAND distributes packed values to the selected active lanes in lane order; a lane that finds none valid takes
SRC2 (R94). Gives the lane values, the values left, and whether a lane went short. -/
def expandFill : List Bool → List Word32 → List Word32 → List Word32 × List Word32 × Bool
  | [], pk, _ => ([], pk, false)
  | true :: sel, p :: pk, _ :: other =>
    let (v, r, b) := expandFill sel pk other
    (p :: v, r, b)
  | true :: sel, [], o :: other =>
    let (v, r, _) := expandFill sel [] other
    (o :: v, r, true)
  | false :: sel, pk, o :: other =>
    let (v, r, b) := expandFill sel pk other
    (o :: v, r, b)
  | _, pk, [] => ([], pk, false)

/-- Advance a VI port by one group: the beat is popped after the last issue that reads a group holding a valid element
(R69). -/
def State.advVi (s : State) (u n : Nat) : State :=
  match (s.tile (cuInst u)).head (12 + n) with
  | some (.beat _ v) =>
    let k := s.cu u
    let j := mget dNat k.viIdx n + 1
    if 16 * j ≥ v then (s.setCu u { k with viIdx := mput dNat k.viIdx n 0 }).popQ (cuInst u) (12 + n)
    else s.setCu u { k with viIdx := mput dNat k.viIdx n j }
  | _ => s

/-- Remove the head of UP. -/
def State.popUp (s : State) (u st : Nat) : State :=
  match s.below u st with
  | none => s
  | some b =>
    let k := s.cu u
    let g := k.stage b
    s.setCu u (k.setStage b { g with down := g.down.drop 1 })

/-- Take the sources an issue has read: VI ports without KEEP (R70), QI, and UP. -/
def State.consume (s : State) (u st : Nat) (w : SW) (skip : List Nat) : State :=
  let s1 := w.vis.foldl (fun a n => if nbit w.keep n || skip.contains (0x14 + n) then a else a.advVi u n) s
  let s2 := if w.readsQi && !skip.contains 0x18 then s1.popQ (cuInst u) 16 else s1
  if w.readsUp && !skip.contains 0x19 then s2.popUp u st else s2

/-- The lanes in which a word acts (R80): its guard holds, and TAIL leaves the lane in. -/
def State.lanesOn (s : State) (u st : Nat) (w : SW) : List Bool :=
  (List.range 16).map fun l => ((s.cu u).stage st).guard w l && lget (s.tailOk u w) l false

/-- Advance EXPAND's packed source by one group (R94): the group at its head is used up. -/
def State.expandAdv (s : State) (u st : Nat) (w : SW) : State :=
  if 0x14 ≤ w.s1 ∧ w.s1 ≤ 0x17 then (if nbit w.keep (w.s1 - 0x14) then s else s.advVi u (w.s1 - 0x14))
  else if w.s1 = 0x18 then s.popQ (cuInst u) 16
  else if w.s1 = 0x19 then s.popUp u st
  else s

/-- The valid values of the group at the head of EXPAND's source. -/
def State.expandGroup (s : State) (u st : Nat) (w : SW) : List Word32 :=
  let valid : Nat :=
    if 0x14 ≤ w.s1 ∧ w.s1 ≤ 0x17 then leading (s.viGroup u (w.s1 - 0x14)).2
    else match s.upHead u st with
      | some (.grp _ v) => if w.s1 = 0x19 then v else 16
      | _ => 16
  (s.operand u st w w.s1).take valid

/-- Whether an EXPAND has to take a further group: its lanes need more than is left of the one in use, which was whole (R94). -/
def State.expandMore (s : State) (u st : Nat) (w : SW) : Bool :=
  let g := (s.cu u).stage st
  !g.expBad && decide (g.exp.length < s.expandNeed u st w (s.lanesOn u st w))

/-- The state in which the next group of EXPAND's source stands at the head: the one in use, if any, is used up. -/
def State.expandNext (s : State) (u st : Nat) (w : SW) : State :=
  if ((s.cu u).stage st).expOn then s.expandAdv u st w else s

/-- EXPAND (R94): fill from the group in use, and from the next one when it runs out; a group all of whose values are given out
leaves the source. -/
def State.expand (s : State) (u st : Nat) (w : SW) : State :=
  let g := (s.cu u).stage st
  let act := s.lanesOn u st w
  let sel := (List.range 16).map fun l => lget act l false && g.p w.psel l
  let more := s.expandMore u st w
  let s0 := if more then s.expandNext u st w else s
  let new := s0.expandGroup u st w
  let (vals, rest, short) := expandFill sel (if more then g.exp ++ new else g.exp) (s.operand u st w w.s2)
  let bad := g.expBad || (more && decide (new.length < 16))
  let used := (g.expOn || more) && decide (rest = []) && !bad
  let s1 := if used then s0.expandAdv u st w else s0
  let s2 := s1.setCu u ((s1.cu u).setStage st { (s1.cu u).stage st with exp := rest, expBad := bad, expOn := (g.expOn || more) && !used })
  let s3 := if short then s2.wrF .CU_STATUS u 0 9 9 1 else s2
  (s3.writeDst u st w.dst vals act (s.tailOk u w)).consume u st w [w.s1]

/-- SRC1 and SRC2 of one lane. -/
def State.src1 (s : State) (u st : Nat) (w : SW) (l : Nat) : Word32 := lget (s.operand u st w w.s1) l 0
def State.src2 (s : State) (u st : Nat) (w : SW) (l : Nat) : Word32 := lget (s.operand u st w w.s2) l 0
def State.src3 (s : State) (u st : Nat) (w : SW) (l : Nat) : Word32 := lget (s.operand u st w w.s3) l 0

/-- Write lane values to DST of `t`, with the lanes as they stand in `s`. -/
def State.putLanes (s t : State) (u st : Nat) (w : SW) (vals : List Word32) : State :=
  t.writeDst u st w.dst vals (s.lanesOn u st w) (s.tailOk u w)

/-- A value per lane to DST. -/
def State.mapLanes (s : State) (u st : Nat) (w : SW) (f : Nat → Word32) : State :=
  s.putLanes s u st w ((List.range 16).map f)

/-- A truth value per lane to predicate PD, where PDW says that the word writes it (R76). -/
def State.mapPred (s : State) (u st : Nat) (w : SW) (f : Nat → Bool) : State :=
  if w.pdw then s.writePred u st w.pd ((List.range 16).map f) (s.lanesOn u st w) else s

/-- Active lanes' SRC1 for the reductions of R87. -/
def State.optLanes (s : State) (u st : Nat) (w : SW) : List (Option Word32) :=
  (List.range 16).map fun l => if lget (s.lanesOn u st w) l false then some (s.src1 u st w l) else none

/-- A predicate of the stage in one lane. -/
def State.predOf (s : State) (u st n l : Nat) : Bool := ((s.cu u).stage st).p n l

/-- Class 0, moves. -/
def State.opMove (s : State) (u st : Nat) (w : SW) (op : Nat) : State :=
  match op with
  | 1 => s.mapLanes u st w (s.src1 u st w)
  | 2 => s.mapLanes u st w fun l => s.src1 u st w ((l + w.imm % 16) % 16)
  | 3 => s.mapLanes u st w fun _ => s.src1 u st w (w.imm % 16)
  | 4 => s.mapLanes u st w fun l => if s.predOf u st w.psel l then 1 else 0
  | 5 => s.mapPred u st w fun l => decide (s.src1 u st w l ≠ 0)
  | _ => s

/-- Whether a word of class 1 works on pairs: 16-bit values whose results are no wider. Of a pair whose result is 32 bits wide the low
element is taken (log entry 10). -/
def SW.pairs (w : SW) : Bool := decide (fmtBits w.fs = 16 ∧ fmtBits w.fd ≤ 16)

/-- Class 1, float arithmetic from FMT_S to FMT_D with one rounding (R44). -/
def State.opFloat (s : State) (u st : Nat) (w : SW) (op : Nat) : State :=
  match fmtOf w.fs with
  | none => s
  | some fs =>
    let r := s.overLanes u (s.lanesOn u st w) fun l lf =>
      let e := pairwise w.pairs (s.num u w.rm) lf (s.src1 u st w l) (s.src2 u st w l) (s.src3 u st w l) (floatOp op fs w.fd)
      (e.1, e.2.1, if floatDraws op (w.fs != w.fd) then e.2.2 else lf)
    s.putLanes r.1 u st w r.2

/-- Class 4, conversions. -/
def State.opConvert (s : State) (u st : Nat) (w : SW) (op : Nat) : State :=
  let on := s.lanesOn u st w
  match op with
  | 0 =>
    let r := s.convLanes u w on fun l c => cvtOp w.fs w.fd c (s.src1 u st w l)
    s.putLanes r.1 u st w r.2
  | 1 =>
    let vals := (s.operand u st w w.s1 ++ s.operand u st w w.s2).map fun x => elemVal w.fs x.toNat
    s.putLanes s u st w (List.replicate 16 (BitVec.ofNat 32 (mxScale (mxOf w.fd) vals)))
  | 2 =>
    let r := s.convLanes u w on fun l c =>
      mxQuantNan w.fd (mxOf w.fd) c ((s.src2 u st w l).toNat % 256) (elemVal w.fs (s.src1 u st w l).toNat)
    s.putLanes r.1 u st w r.2
  | _ =>
    let r := s.convLanes u w on fun l c =>
      elemOf c w.fd (mxValue (mxOf w.fs) ((s.src2 u st w l).toNat % 256) ((s.src1 u st w l).toNat % 2 ^ fmtBits w.fs))
    s.putLanes r.1 u st w r.2

/-- Class 5, comparisons, selection and predicate logic. -/
def State.opCompare (s : State) (u st : Nat) (w : SW) (op : Nat) : State :=
  let g := s.predOf u st
  match op with
  | 8 => s.mapLanes u st w fun l => if g w.psel l then s.src1 u st w l else s.src2 u st w l
  | 9 => s.mapPred u st w fun l => g w.psel l && g (w.imm % 8) l
  | 10 => s.mapPred u st w fun l => g w.psel l || g (w.imm % 8) l
  | 11 => s.mapPred u st w fun l => g w.psel l != g (w.imm % 8) l
  | 12 => s.mapPred u st w fun l => !g w.psel l
  | o => s.mapPred u st w fun l => cmpOp o w.fs (s.src1 u st w l) (s.src2 u st w l)

/-- The shared function of an OP code of class 6. -/
def sfunOf : Nat → SFun
  | 0 => .exp2 | 1 => .log2 | 2 => .rcp | 3 => .rsqrt | 4 => .tanh | _ => .sigm

/-- Class 6, shared functions (R56). -/
def State.opShared (s : State) (u st : Nat) (w : SW) (op : Nat) : State :=
  let r := s.overLanes u (s.lanesOn u st w) fun l lf =>
    let e := sfEval (sfunOf op) (s.num u 0).ftz (Config.special op (s.src1 u st w l)) (s.src1 u st w l)
    (e.1, e.2, lf)
  s.putLanes r.1 u st w r.2

/-- Class 7, lanes: COMPRESS and the reductions (R87, R93); EXPAND is taken by `expand`. -/
def State.opLane (s : State) (u st : Nat) (w : SW) (op : Nat) : State :=
  let every (v : Word32) : State := s.putLanes s u st w (List.replicate 16 v)
  match op with
  | 0 => s.compress u st w (s.lanesOn u st w)
  | 2 =>
    let r := laneSum (s.num u 0).ftz (s.optLanes u st w)
    (every r.1).flag u r.2
  | 3 =>
    let r := laneMax (s.num u 0).ftz (s.optLanes u st w)
    (every r.1).flag u r.2
  | 4 => every ((s.optLanes u st w).foldl (fun x o => x + o.getD 0) 0)
  | 5 => every (BitVec.ofNat 32 ((List.range 16).filter fun l => s.predOf u st w.psel l).length)
  | _ => s

/-- AADD in FP32: one RNE rounding in each active lane. -/
def State.aaddFloat (s : State) (u st : Nat) (w : SW) : State :=
  let on := s.lanesOn u st w
  let r (l : Nat) (x : Word32) : Word32 × Flags :=
    let p := (Fmt.fp32.decode x.toNat).add (Fmt.fp32.decode (s.src1 u st w l).toNat)
    let y := Fmt.fp32.ofVal { RCtx.rne with ftz := (s.num u 0).ftz } p.1
    (BitVec.ofNat 32 y.1, p.2 ||| y.2)
  let old := s.accVals u st w.dst
  (s.updAcc u st w.dst on fun l x => (r l x).1).flag u
    ((List.range 16).foldl (fun f l => if lget on l false then f ||| (r l (lget old l 0)).2 else f) Flags.none)

/-- Class 8, accumulators. -/
def State.opAcc (s : State) (u st : Nat) (w : SW) (op : Nat) : State :=
  let on := s.lanesOn u st w
  match op with
  | 0 => s.updAcc u st w.dst on fun _ _ => 0
  | 1 => s.putLanes (s.aread u st w on).1 u st w (s.aread u st w on).2
  | 2 => s.updAcc u st w.dst on fun l _ => s.src1 u st w l
  | 3 => if w.fs = 8 then s.updAcc u st w.dst on fun l x => x + s.src1 u st w l else s.aaddFloat u st w
  | 4 => s.putLanes ((s.aread u st w on).1.updAcc u st w.s1 on fun _ _ => 0) u st w (s.aread u st w on).2
  | _ => s

/-- The effect of one issue of a word (R81): operands, lanes, destination, flags. Sources are taken afterwards. -/
def State.operate (s : State) (u st : Nat) (w : SW) : State :=
  match w.cls with
  | 0 => s.opMove u st w w.op
  | 1 => s.opFloat u st w w.op
  | 2 => s.mapLanes u st w fun l => intOp w.op (s.src1 u st w l) (s.src2 u st w l)
  | 3 =>
    match w.op with
    | 0 => s.dotf u st w (s.lanesOn u st w)
    | 1 => s.doti u st w (s.lanesOn u st w)
    | _ => s.dotmx u st w (s.lanesOn u st w)
  | 4 => s.opConvert u st w w.op
  | 5 => s.opCompare u st w w.op
  | 6 => s.opShared u st w w.op
  | 7 => s.opLane u st w w.op
  | 8 => s.opAcc u st w w.op
  | _ => s

/-! ### Sequencing -/

/-- The COMPRESS word and the EXPAND word of a stage program, if it has them (R95). -/
def State.compressWord (s : State) (u st : Nat) : Option SW :=
  ((List.range (s.nwords u st)).map (s.progWord u st)).find? fun w => decide (w.cls = 7 ∧ w.op = 0)
def State.expandWord (s : State) (u st : Nat) : Option SW := ((List.range (s.nwords u st)).map (s.progWord u st)).find? SW.isExpand

/-- The group an EXPAND still has in use at the end of a pass is discarded (R94). -/
def State.expandDrop (s : State) (u st : Nat) : State :=
  match s.expandWord u st with
  | some w => if ((s.cu u).stage st).expOn then s.expandAdv u st w else s
  | none => s

/-- Whether every path the end of a pass may send on has credit: bound VO ports with elements waiting or packed values,
DOWN and QO of a COMPRESS. -/
def State.endRoom (s : State) (u st : Nat) : Bool :=
  let k := s.cu u
  let vo := (List.range 2).all fun n =>
    !(s.portEn u (4 + n) && decide (s.portStage u (4 + n) = st)) ||
      (decide (mget dNil k.vo n = []) && (s.compressWord u st).isNone) || s.canSend (cuInst u) (0x10 + n)
  let cw := match s.compressWord u st with
    | none => true
    | some w => (w.dst ≠ 0x19 || decide ((k.stage st).down.length < s.downRoom u st)) &&
                (!nbit w.imm 0 || s.canSend (cuInst u) 0x12)
  vo && cw

/-- The end of a pass (R71, R89, R93, R94): the remaining packed group and the count, partly filled beats, PASSES of S0.
It waits, with the sequencer past its last word, while a path it must send on has no credit. -/
def State.endPass (s : State) (u st : Nat) : State :=
  if s.endRoom u st then
    let g := (s.cu u).stage st
    let s1 := match s.compressWord u st with
      | none => s
      | some w =>
        let part := g.pack
        let pad := part ++ List.replicate (16 - part.length) 0
        let tl := (List.range 16).map fun l => decide (l < part.length)
        let s0 := if part = [] then s else s.writeDst u st w.dst pad tl tl
        if nbit w.imm 0 then s0.send (cuInst u) 0x12 (.scalar (BitVec.ofNat 32 g.packed)) else s0
    let s2 := (List.range 2).foldl (fun a n =>
      if a.portEn u (4 + n) && decide (a.portStage u (4 + n) = st) then a.flushVo u n else a) s1
    let s2 := s2.expandDrop u st
    let k := s2.cu u
    let g2 := k.stage st
    let s3 := s2.setCu u (k.setStage st { g2 with
      inPass := false, w := 0, rep := 0, pack := [], packed := 0, exp := [], expBad := false, expOn := false })
    let s4 := s3.cuState u 1
    if st = 0 then s4.wrF .CU_STATUS u 0 47 32 (s4.rdF .CU_STATUS u 0 47 32 + 1) else s4
  else
    let k := s.cu u
    let g := k.stage st
    (s.setCu u (k.setStage st { g with w := s.nwords u st })).cuState u 3

/-- Advance the sequencer after an issue (R89): REP, then the loop the word closes, then the next word. -/
def State.advance (s : State) (u st : Nat) (w : SW) : State :=
  let k := s.cu u
  let g := k.stage st
  if g.rep < w.rep then s.setCu u (k.setStage st { g with rep := g.rep + 1 })
  else
    let L := w.loop
    let c := lget g.cnt (L - 1) 0
    let g1 :=
      if L ≠ 0 ∧ c + 1 < lget g.lim (L - 1) 0 then
        { g with rep := 0, cnt := lset g.cnt (L - 1) (c + 1), w := w.target }
      else { g with rep := 0, cnt := if L ≠ 0 then lset g.cnt (L - 1) 0 else g.cnt, w := g.w + 1 }
    let s1 := s.setCu u (k.setStage st g1)
    if g1.w ≥ s.nwords u st then s1.endPass u st else s1

/-- The word a stage may issue: the one it stands at, when it is in a pass of a section not being aborted and the throttle
leaves array cycles (R479). -/
def State.curWord (s : State) (u st : Nat) : Option SW :=
  let g := (s.cu u).stage st
  if g.inPass && decide (g.w < s.nwords u st) && decide (s.cuMode u = 1) && !(s.tile (cuInst u)).aborting && !s.throttled then
    some (s.progWord u st g.w)
  else none

/-- Whether a source holds data, and whether the end-of-section token heads it; sources other than VI, QI and UP always hold data. -/
def State.srcData (s : State) (u st code : Nat) : Bool :=
  if 0x14 ≤ code ∧ code ≤ 0x17 then (s.tile (cuInst u)).headData (code - 8)
  else if code = 0x18 then (s.tile (cuInst u)).headData 16
  else if code = 0x19 then (match s.upHead u st with
    | some (.grp _ _) => true
    | _ => false)
  else true
def State.srcEos (s : State) (u st code : Nat) : Bool :=
  if 0x14 ≤ code ∧ code ≤ 0x17 then (s.tile (cuInst u)).headEos (code - 8)
  else if code = 0x18 then (s.tile (cuInst u)).headEos 16
  else decide (code = 0x19) && decide (s.upHead u st = some .eos)

/-- The sources an issue looks at: those it reads, and the port TAIL takes validity from. -/
def SW.looksAt (w : SW) : List Nat := w.reads ++ (if w.tail then w.tailPort.toList.map (0x14 + ·) else [])

/-- Whether the word's sources all hold data (R91). EXPAND needs its packed source only when its group runs out. -/
def State.inputsReady (s : State) (u st : Nat) (w : SW) : Bool :=
  w.looksAt.all (s.srcData u st) && (!w.isExpand || !s.expandMore u st w || (s.expandNext u st w).srcData u st w.s1)

/-- Whether a source inside the pass is headed by the end-of-section token (R92). -/
def State.truncated (s : State) (u st : Nat) (w : SW) : Bool :=
  w.looksAt.any (s.srcEos u st) || (w.isExpand && s.expandMore u st w && (s.expandNext u st w).srcEos u st w.s1)

/-- Whether every port and DOWN destination has credit (R91). -/
def State.outputsReady (s : State) (u st : Nat) (w : SW) : Bool :=
  let down := decide (((s.cu u).stage st).down.length < s.downRoom u st)
  (w.noDst || decide (w.dst ≠ 0x14 ∧ w.dst ≠ 0x15) || s.canSend (cuInst u) (0x10 + (w.dst - 0x14))) &&
  (w.noDst || decide (w.dst ≠ 0x18) || s.canSend (cuInst u) 0x12) &&
  ((w.noDst || decide (w.dst ≠ 0x19)) && !w.fwd || down)

/-- Issue the word a stage stands at, if it is operation (cls, op) (R67, R91, R92): a source headed by end of section
aborts the task with PASS_TRUNCATED; a missing source or credit stalls the stage for the cycle and no part issues;
otherwise the word takes effect, its sources advance, FWD passes SRC1 on, and the sequencer moves. FWD passes all sixteen lanes on,
all valid, whatever the guard or TAIL say (the model's choice, log entry 135). Each issue, and each stall, is an array cycle of its
own (log entry 5), so the activity counters of R104 advance by one. -/
def State.issue (s : State) (u st cls op : Nat) : State :=
  match s.curWord u st with
  | none => s
  | some w =>
    if w.cls = cls ∧ w.op = op then
      if s.truncated u st w then s.taskFault (cuInst u) 0x0102 (errRec 0x0102 sevTransient 0 u 0)
      else if s.inputsReady u st w = false then (s.cuState u 2).inc .CU_STALL_IN u 0 1
      else if s.outputsReady u st w = false then s.stallOut u
      else
        let fw := s.operand u st w w.s1
        let s1 := if w.isExpand then s.expand u st w else (s.operate u st w).consume u st w []
        let s2 := if w.fwd then s1.pushDown u st (.grp fw 16) else s1
        ((s2.cuState u 1).inc .CU_ISSUE_CYC u 0 1).advance u st w
    else s

/-- Loop levels some word of the program closes. -/
def State.loopLevels (s : State) (u st : Nat) : List Nat :=
  [1, 2, 3].filter fun L => ((List.range (s.nwords u st)).any fun w => decide ((s.progWord u st w).loop = L))

/-- A loop limit at the start of a pass (R89, R90, Table 03.8): immediate limits are held minus 1, a k entry gives its
unsigned value. -/
def State.loopLimit (s : State) (u st L : Nat) : Nat :=
  let lo := 17 * (L - 1)
  let lim := s.rdF .CU_CHAIN u st (lo + 15) lo
  if bit (s.rd .CU_CHAIN u st) (lo + 16) then (mget dW32 (s.cu u).kAct (lim % 64)).toNat else lim + 1

/-- Ports whose end-of-section token a stage awaits (R91): its bound VI ports and QI; in matrix mode the ports of Table
03.9, VI3 only with scales. -/
def State.eosQueues (s : State) (u st : Nat) : List Nat :=
  if s.cuMode u = 2 then
    if st = 0 then [12, 13, 14] ++ (if s.osel (cuInst u) 15 ≠ 0 then [15] else []) else []
  else
    ((List.range 4).filter fun n => s.portEn u n && decide (s.portStage u n = st)).map (12 + ·) ++
    (if s.qiBound u st then [16] else [])

/-- Whether a stage finds the end-of-section token (R91): on UP where a lower stage has a program, else on all its ports. A stage of S1
to S3 below which no stage has a program has no UP to look at and looks at its own ports (the model's choice, log entry 136). -/
def State.stageEos (s : State) (u st : Nat) : Bool :=
  match s.below u st with
  | none => decide (s.eosQueues u st ≠ []) && (s.eosQueues u st).all fun q => (s.tile (cuInst u)).headEos q
  | some _ => decide (s.upHead u st = some .eos)

/-- The tokens at the head of a stage's own ports are consumed; one that comes after the stage has ended is consumed then. -/
def State.takeEos (s : State) (u st : Nat) : State :=
  ((s.eosQueues u st).filter fun q => (s.tile (cuInst u)).headEos q).foldl (fun a q => a.popQ (cuInst u) q) s

/-- Starting a pass (R89, R90). -/
def State.passStart (s : State) (u st : Nat) : State :=
  let k := s.cu u
  let g := k.stage st
  if s.nwords u st = 0 ∨ s.cuMode u = 0 ∨ s.cuMode u = 3 ∨ (s.tile (cuInst u)).aborting ∨ g.ended then s
  else if g.inPass then
    (if g.w < s.nwords u st then s else if s.endRoom u st then s.endPass u st else (s.endPass u st).countStall u)
  else if s.stageEos u st then s
  else
    let ls := s.loopLevels u st
    let lims := [1, 2, 3].map fun L => if L ∈ ls then s.loopLimit u st L else 1
    if lims.any (· > 65536) then s.taskFault (cuInst u) 0x0101 (errRec 0x0101 sevTransient 0 u 0)
    else
      let s1 := (s.setCu u (k.setStage st { g with inPass := true, w := 0, rep := 0, cnt := [0, 0, 0], lim := lims })).cuState u 1
      if lims.any (· = 0) then s1.endPass u st else s1

/-- Fold a thresher's flags into the section-wide word of its run and clear CU_FLAGS (R59). -/
def State.foldFlags (s : State) (u : Nat) : State :=
  let t := s.tile (cuInst u)
  match s.plotOf (cuInst u) with
  | none => s
  | some p =>
    let x := s.plot p
    let f : Flags := (s.rd .CU_FLAGS u 0).setWidth 5
    let runs := x.runs.map fun r =>
      if r.epoch = t.epoch then { r with flags := r.flags ||| f, folded := u :: r.folded } else r
    let s1 := s.setPlot p { x with runs := runs }
    if bit (s.rd .CU_NUMCTL u 0) 7 then s1.wr .CU_FLAGS u 0 0 else s1

/-- Ending a run at a stage (R91): the tokens are consumed; the token goes DOWN, or from the last active stage onto
every bound VO port and QO, after which the thresher is ready to switch and its flags are folded. -/
def State.runEnd (s : State) (u st : Nat) : State :=
  let k := s.cu u
  let g := k.stage st
  let inst := cuInst u
  let mat := decide (s.cuMode u = 2)
  if s.nwords u st = 0 ∨ s.cuMode u = 0 ∨ s.cuMode u = 3 ∨ (s.tile inst).aborting then s
  else if g.ended then s.takeEos u st
  else if g.inPass ∨ s.stageEos u st = false ∨ k.mtile ≠ [] then s
  else
    let last := mat || decide (st = s.lastStage u)
    let b := s.rd .CU_PORTBIND u 0
    let outs := if mat then [0x10, 0x11]
      else ((List.range 2).filter fun n => s.portEn u (4 + n)).map (0x10 + ·) ++ (if bit b 54 then [0x12] else [])
    let room := if last then outs.all fun c => s.canSend inst c
      else decide (g.down.length < s.downRoom u st)
    if room = false then s.stallOut u
    else
      let s1 := s.takeEos u st
      let s2 := s1.popUp u st
      let k2 := s2.cu u
      let s3 := s2.setCu u (k2.setStage st { k2.stage st with ended := true })
      if last then
        ((outs.foldl (fun a c => a.send inst c .eos) s3).cuState u 5).foldFlags u
      else (s3.pushDown u st .eos).cuState u 4

end Sys2Proof.Machine
end

