-- ==== Sys2Proof/Machine/Sheaf.lean ====
section
/-!
DEFINITION. Sheaf images (R186 to R188) and the load checks of Table 06.4 (R189), with the credit depths that the
routes of a sheaf give its origin outputs.
-/
namespace Sys2Proof.Machine
open Sys2Proof

/-- Little-endian field of an image. -/
def le (img : List Byte) (off n : Nat) : Nat := bytesToNat ((img.drop off).take n)

/-- Whether image bytes [lo, hi) are all zero. -/
def zeroAt (img : List Byte) (lo hi : Nat) : Bool := ((img.drop lo).take (hi - lo)).all (· = 0)

/-- A parsed sheaf: the image, its tile records with their logical tiles. -/
structure Sheaf where
  img : List Byte
  recs : List (Pos × List Byte)
deriving DecidableEq, Repr

def recPos (r : List Byte) : Pos := ⟨(lget r 0 0).toNat, (lget r 1 0).toNat, (lget r 2 0).toNat⟩

def Sheaf.parse (img : List Byte) : Sheaf :=
  let off := le img 0x20 8
  ⟨img, (chunks 2048 (min 33792 (le img 0x10 4)) (img.drop off)).map fun r => (recPos r, r)⟩

/-- The record of a logical tile. -/
def Sheaf.record (h : Sheaf) (p : Pos) : List Byte :=
  match h.recs.find? fun x => decide (x.1 = p) with
  | some x => x.2
  | none => []

def recOsel (r : List Byte) (o : Nat) : Nat := (lget r (8 + o) 0).toNat
def recJoin (r : List Byte) (j : Nat) : Nat := le r (0x20 + 8 * j) 8

/-- The steering a sheaf gives its tiles, keyed by logical instance. -/
def Sheaf.steer (h : Sheaf) : Steer where
  outs i code := (List.range 18).filter fun o => decide (recOsel (h.record (posOfInst i)) o = code ∧ code ≠ 0)
  joins i code :=
    (List.range 2).flatMap fun j =>
      let x := recJoin (h.record (posOfInst i)) j
      if nbit x 14 then
        (if nbits x 13 8 = code then [30 + 2 * j] else []) ++ (if nbits x 5 0 = code then [31 + 2 * j] else [])
      else []
  inst p := p.inst

/-- Depth of the terminating queue that an origin output feeds: 0 for an unused or pass-through output (Table 05.13). -/
def Sheaf.depth (h : Sheaf) (p : Pos) (o : Nat) : Nat :=
  let code := recOsel (h.record p) o
  if code < 0x10 then (if o ≥ 12 ∧ code ≠ 0 then 0 else 0)
  else
    let r := route h.steer 20 p o
    (r.ends.map fun e => queueDepth e.2).foldl min 40

/-- Link inputs of a memory tile that end a route for a WRITE, by source code: the neighbour drives them, and no output or join
of the tile uses them (R161). -/
def Sheaf.writes (h : Sheaf) (p : Pos) : List Nat :=
  ((List.range 8).map (· + 1)).filter fun code =>
    decide (p.kind = 1 ∧ h.steer.outs p.inst code = [] ∧ h.steer.joins p.inst code = []) &&
    match p.step ((code - 1) % 4) with
    | none => false
    | some (q, _) => decide (recOsel (h.record q) ((code - 1) / 4 * 4 + ((code - 1) % 4 + 2) % 4) ≠ 0)

/-- First failure of a check: tile and byte offset (Table 06.16). -/
structure LoadFault where
  reason : Nat
  pos : Pos
  off : Nat
deriving DecidableEq, Repr

def noPos : Pos := ⟨0, 0, 0⟩

/-- First element of a list on which `f` answers. -/
def firstSome {α β : Type} (f : α → Option β) : List α → Option β
  | [] => none
  | x :: xs => match f x with
    | some y => some y
    | none => firstSome f xs

def failIf (b : Bool) (off : Nat) : Option Nat := if b then some off else none

/-- Check 1 on the header: byte offset of the first failing field. -/
def headerBad (img : List Byte) : Option Nat :=
  let tot := le img 8 8
  let run := fun (o n : Nat) => decide (le img o 8 % 64 ≠ 0 ∨ le img o 8 + n > tot)
  firstSome id [
    failIf (le img 0 4 ≠ 0x31464853) 0, failIf (le img 5 1 ≠ 1) 4, failIf (le img 6 2 ≥ 4) 6,
    failIf (tot < 4096) 8, failIf (le img 0x10 4 = 0 ∨ le img 0x10 4 > 33792) 0x10,
    failIf (le img 0x14 4 > 65536) 0x14, failIf (le img 0x18 2 > 64) 0x18, failIf (!zeroAt img 0x1A 0x1C) 0x1A,
    failIf (run 0x20 (le img 0x10 4 * 2048)) 0x20, failIf (run 0x28 (le img 0x14 4 * 16)) 0x28,
    failIf (run 0x30 (le img 0x18 2 * 16)) 0x30, failIf (!zeroAt img 0x38 0x40) 0x38,
    failIf (!zeroAt img 0x4C 0x50) 0x4C, failIf (!zeroAt img 0x58 0x100) 0x58, failIf (!zeroAt img 0x200 0xFE0) 0x200]

/-- Reserved bits of a memory tile's buffer register and of a join register. -/
def bufReserved (x : Nat) : Bool := decide (nbits x 61 48 ≠ 0 ∨ nbits x 11 0 ≠ 0)
def joinReserved (x : Nat) : Bool := decide (nbits x 63 15 ≠ 0 ∨ nbits x 7 6 ≠ 0)

/-- Reserved bits of CU_PORTBIND, CU_NUMCTL and CU_CHAIN (Tables 03.2, 02.8 and 03.8). -/
def bindReserved (x : Nat) : Bool := decide (Nat.land x 0xFF88C0C0C0C0C0C0 ≠ 0)
def numReserved (x : Nat) : Bool := decide (nbits x 63 8 ≠ 0 ∨ nbits x 6 5 ≠ 0 ∨ nbit x 3 = true)
def chainReserved (x : Nat) : Bool := decide (nbits x 63 56 ≠ 0 ∨ nbit x 51 = true)

/-- Check 1 on one record (Table 06.2). -/
def recordBad (p : Pos) (r : List Byte) : Option Nat :=
  firstSome id ([
    failIf ((lget r 3 0).toNat ≥ 2) 3, failIf (!zeroAt r 4 8) 4, failIf (!zeroAt r 0x1A 0x20) 0x1A,
    failIf (joinReserved (recJoin r 0)) 0x20, failIf (joinReserved (recJoin r 1)) 0x28, failIf (!zeroAt r 0x30 0x40) 0x30] ++
    if p.kind = 0 then [failIf (bindReserved (le r 0x40 8)) 0x40, failIf (numReserved (le r 0x48 8)) 0x48] ++
      (List.range 4).map (fun st => failIf (chainReserved (le r (0x50 + 8 * st) 8)) (0x50 + 8 * st)) ++
      [failIf (!zeroAt r 0x70 0x100) 0x70, failIf (!zeroAt r 0x300 0x800) 0x300]
    else (List.range 16).map (fun i => failIf (bufReserved (le r (0x40 + 8 * i) 8)) (0x40 + 8 * i)) ++
      [failIf (le r 0xC0 8 ≥ 32) 0xC0, failIf (!zeroAt r 0xC8 0x400) 0xC8])

/-- Check 1 on the live-range and cheap-point tables (Table 06.3). -/
def tablesBad (img : List Byte) : Option Nat :=
  let lo := le img 0x28 8
  let co := le img 0x30 8
  firstSome id (
    (List.range (le img 0x14 4)).map (fun i => failIf (!zeroAt img (lo + 16 * i + 2) (lo + 16 * i + 4)) 0x28) ++
    (List.range (le img 0x18 2)).map fun i => failIf (le img (co + 16 * i + 8) 4 ≥ 2 || !zeroAt img (co + 16 * i + 12) (co + 16 * i + 16)) 0x30)

/-- Check 2: SHA-256 over the image with the digest field zero. -/
def digestBad (img : List Byte) : Bool :=
  let m := img.take (le img 8 8)
  decide (sha256 (m.take 0xFE0 ++ List.replicate 32 0 ++ m.drop 0x1000) ≠ (img.drop 0xFE0).take 32)

/-! ### Stage programs (checks 4 and 7) -/

/-- Defined operations of each class (Table 03.6). -/
def opDefined (cls op : Nat) : Bool :=
  decide ((cls = 0 ∧ op ≤ 5) ∨ (cls = 1 ∧ op ≤ 8) ∨ (cls = 2 ∧ op ≤ 10) ∨ (cls = 3 ∧ op ≤ 2) ∨ (cls = 4 ∧ op ≤ 3) ∨
    (cls = 5 ∧ (op ≤ 6 ∨ (8 ≤ op ∧ op ≤ 12))) ∨ (cls = 6 ∧ op ≤ 5) ∨ (cls = 7 ∧ op ≤ 5) ∨ (cls = 8 ∧ op ≤ 4) ∨ (cls = 15 ∧ op = 0))

def srcBad (c : Nat) : Bool := decide (0x20 ≤ c ∧ c < 0x40)
def dstBad (c : Nat) : Bool := decide (c = 0x16 ∨ c = 0x17 ∨ c = 0x1A ∨ c ≥ 0x1C)

/-- A dot source: an even t or k register, VI0 or VI2 (R85). -/
def dotSrcOk (c : Nat) : Bool :=
  decide ((c < 0x10 ∧ c % 2 = 0) ∨ (c ≥ 0x40 ∧ c % 2 = 0) ∨ c = 0x14 ∨ c = 0x16)

def SW.isMatrix (w : SW) : Bool := decide (w.cls = 15)
def SW.mxOk (w : SW) : Bool := decide ((w.cls = 3 ∧ w.op = 2) ∨ (w.cls = 4 ∧ 2 ≤ w.op) ∨ (w.cls = 15 ∧ w.s3 = 0x17))

/-- Rate class of a format (R54). -/
def rateClass (f : Nat) : Nat := if f = 2 then 1 else if f = 4 then 3 else if f = 6 then 5 else f

/-- Names of ports in a word: VI0-3 as 0-3, VO0-1 as 4, 5. -/
def SW.ports (w : SW) : List Nat :=
  ((w.fields.filter fun c => decide (0x14 ≤ c ∧ c ≤ 0x17)).map (· - 0x14)) ++ (if w.dst = 0x14 then [4] else if w.dst = 0x15 then [5] else [])

/-- QO is named by DST, and by a COMPRESS that sends its count (R95). -/
def SW.isCompress (w : SW) : Bool := decide (w.cls = 7 ∧ w.op = 0)
def SW.namesQo (w : SW) : Bool := decide (w.dst = 0x18) || (w.isCompress && nbit w.imm 0)

/-- A compute record's stage words: stage st holds NWORDS of them. -/
def recChain (r : List Byte) (st : Nat) : Nat := le r (0x50 + 8 * st) 8
def recWords (r : List Byte) (st : Nat) : List (Nat × SW × Nat) :=
  (List.range (min 8 (nbits (recChain r st) 55 52))).map fun w =>
    let x := le r (0x100 + 0x80 * st + 0x10 * w) 16
    (w, SW.decode x, x)

def recMatrix (r : List Byte) : Bool := ((List.range 4).any fun st => (recWords r st).any fun x => x.2.1.isMatrix)

/-- Check 4 on one word of stage `st`: R66, R73, R77, R79, R85. FWD in S3, which has no DOWN, counts as naming it; a source field
counts as naming a port or UP whether or not the operation reads it (the model's choices, log entry 131). A word of class 1 in
another format than Table 03.6 gives the class, a predicate writer without PDW and a COMPRESS to another place than R93 lists are
undefined operations. -/
def wordBad (bind : Nat) (st : Nat) (mat : Bool) (w : SW) (raw : Nat) : Bool :=
  let port := fun k => nbits bind (8 * k + 5) (8 * k)
  decide (raw % 2 ^ 15 ≠ 0) || !opDefined w.cls w.op || [w.s1, w.s2, w.s3].any srcBad || dstBad w.dst || decide (w.fs > 10 ∨ w.fd > 10) ||
  (w.fwd && decide (w.dst = 0x19)) || (w.tail && w.tailPort.isNone) ||
  decide (w.cls = 1 ∧ w.fs > 2) || (w.predOnly && !w.pdw) || (w.isCompress && !([0x14, 0x15, 0x19].contains w.dst)) ||
  (decide (st = 0) && w.fields.contains 0x19) || (decide (st = 3) && (decide (w.dst = 0x19) || w.fwd)) ||
  (decide (w.cls = 3) && !(dotSrcOk w.s1 && dotSrcOk w.s2)) ||
  (!mat && (w.ports.any (fun k => decide (port k / 32 % 2 = 0 ∨ port k % 4 ≠ st)) ||
    (w.fields.contains 0x18 && !(nbit bind 50 && decide (nbits bind 49 48 = st))) ||
    (w.namesQo && !(nbit bind 54 && decide (nbits bind 53 52 = st)))))

/-- Loops nest (R88): no word closing a lower level reaches back before a loop of a higher level whose span holds it. -/
def loopsBad (ws : List (Nat × SW × Nat)) : Bool :=
  ws.any fun a => decide (a.2.1.target > a.1) ||
    ws.any fun b => decide (a.2.1.loop ≠ 0 ∧ b.2.1.loop > a.2.1.loop ∧ b.2.1.target ≤ a.1 ∧ a.1 ≤ b.1 ∧ a.2.1.target < b.2.1.target)

/-- Check 4 on a compute record: byte offset of the first failing field. -/
def programBad (r : List Byte) : Option Nat :=
  let bind := le r 0x40 8
  let mat := recMatrix r
  let all := (List.range 4).flatMap fun st => recWords r st
  let ks := fun (c L : Nat) => nbit c (17 * L + 16) && decide (nbits c (17 * L + 15) (17 * L) ≥ 64)
  firstSome id (
    [failIf (!mat && (List.range 6).any fun k => decide (nbits bind (8 * k + 4) (8 * k + 2) > 4)) 0x40] ++
    (List.range 4).map (fun st =>
      let c := recChain r st
      failIf (decide (nbits c 55 52 > 8) || ks c 0 || ks c 1 || ks c 2) (0x50 + 8 * st)) ++
    ((List.range 4).flatMap fun st => (recWords r st).map fun x =>
      failIf (wordBad bind st mat x.2.1 x.2.2) (0x100 + 0x80 * st + 0x10 * x.1)) ++
    (List.range 4).map (fun st => failIf (loopsBad (recWords r st)) (0x100 + 0x80 * st)) ++
    (List.range 4).map (fun st =>
      let ws := (recWords r st).map (·.2.1)
      let comp := ws.filter SW.isCompress
      failIf (decide (comp.length > 1 ∨ (ws.filter SW.isExpand).length > 1) ||
        (comp.any (fun w => nbit w.imm 0) && ws.any fun w => decide (w.dst = 0x18))) (0x100 + 0x80 * st)) ++
    [failIf (mat && (decide ((all.filter fun x => x.2.1.isMatrix).length ≠ 1 ∨ nbits (recChain r 1) 55 52 ≠ 0 ∨
        nbits (recChain r 2) 55 52 ≠ 0 ∨ nbits (recChain r 3) 55 52 ≠ 0) ||
      (recWords r 0).any fun x =>
        let w := x.2.1
        if w.isMatrix then
          decide (w.s1 ≠ 0x14 ∨ w.s2 ≠ 0x16 ∨ w.dst ≠ 0x14 ∨ (w.s3 ≠ 0x17 ∧ w.s3 ≠ 0x1B) ∨ rateClass w.fs ≠ rateClass w.fd) ||
          (!nbit w.imm 31 && decide (nbits w.imm 15 0 = 0)) || !([0, 1, 2, 3, 4, 8, 9].contains (nbits w.imm 27 24))
        else decide (w.cls ≠ 0 ∨ w.op ≠ 0))) 0x100])

/-- Check 7 on a compute record: R34, R53, R62. -/
def numericsBad (r : List Byte) : Option Nat :=
  firstSome id (
    [failIf (le r 0x48 8 % 4 = 3) 0x48] ++
    (List.range 4).flatMap fun st => (recWords r st).map fun x =>
      let w := x.2.1
      failIf ((!w.mxOk && (decide (5 ≤ w.fs ∧ w.fs ≤ 7) || decide (5 ≤ w.fd ∧ w.fd ≤ 7))) ||
        (decide (w.cls = 3 ∨ w.cls = 15) && (isIntFmt w.fs != isIntFmt w.fd)))
        (0x100 + 0x80 * st + 0x10 * x.1))

/-! ### Steering and buffers (checks 5 and 6) -/

/-- Kinds: 0 vector, 1 scalar, 2 token. -/
def outKind (o : Nat) : Nat := if o < 12 then o / 4 else if o < 16 then 0 else if o = 16 then 1 else 2

/-- Kinds a source code may have in a tile; none when undefined there (Table 05.4). -/
def srcKinds (kind : Nat) (r : List Byte) (code : Nat) : List Nat :=
  if 1 ≤ code ∧ code ≤ 12 then [(code - 1) / 4]
  else if code = 0x10 then (if kind = 0 then [0] else [0, 1])
  else if code = 0x11 then (if kind = 0 then [0] else [])
  else if code = 0x12 then (if kind = 0 then [1] else [])
  else if code = 0x14 then (if kind = 1 then [2] else [])
  else if 0x18 ≤ code ∧ code < 0x20 then
    let x := recJoin r ((code - 0x18) / 4)
    if nbit x 14 then
      let d := nbits x 13 8
      if 1 ≤ d ∧ d ≤ 12 then [(d - 1) / 4] else if d = 0x11 then [0] else if d = 0x12 then [1] else if d = 0x14 then [2]
      else if d = 0x10 then (if kind = 0 then [0] else [0, 1]) else []
    else []
  else []

/-- Number of steering units a route passes through, those of the spare rows and of a skipped pair included; none when the
route leaves the bounds or closes on itself. -/
def routeLen (st : Steer) (bounds remap : Word) : Nat → Pos → Nat → Option Nat
  | 0, _, _ => none
  | n + 1, p, o =>
    if o ≥ 12 then some 0
    else
      match p.step (o % 4) with
      | none => none
      | some (q, _) =>
        if !inBounds bounds q ∨ withdrawn remap q.d (q.col / 16) then none
        else
          let extra := (hopMid remap p (o % 4)).length
          let os := (st.outs (st.inst q) (arriveCode o)).filter (· < 12)
          os.foldl (fun acc k =>
            match acc, routeLen st bounds remap n q k with
            | some a, some b => some (max a (b + 1 + extra))
            | _, _ => none) (some extra)

/-- Whether the chain of pass-through outputs that brings a link's transfers, followed upstream, closes on itself: more hops
than a sheaf has outputs (R162). -/
def Sheaf.chainCloses (h : Sheaf) : Nat → Pos → Nat → Bool
  | 0, _, _ => true
  | n + 1, p, code =>
    if code = 0 ∨ 12 < code then false
    else
      match p.step ((code - 1) % 4) with
      | none => false
      | some (q, _) => h.chainCloses n q (recOsel (h.record q) ((code - 1) / 4 * 4 + ((code - 1) % 4 + 2) % 4))

/-- Check 5 on one record (R159, R162). -/
def steerBad (h : Sheaf) (bounds remap : Word) (p : Pos) (r : List Byte) : Option Nat :=
  let st := h.steer
  firstSome id (
    (List.range 2).map (fun j =>
      let x := recJoin r j
      let d := nbits x 13 8
      let t := nbits x 5 0
      let dOk := decide ((1 ≤ d ∧ d ≤ 12) ∨ d = 0x10 ∨ (p.kind = 0 ∧ (d = 0x11 ∨ d = 0x12)) ∨ (p.kind = 1 ∧ d = 0x14))
      let tOk := decide ((5 ≤ t ∧ t ≤ 12) ∨ (p.kind = 1 ∧ (t = 0x14 ∨ t = 0x10)) ∨ (t = 0x12 ∧ p.kind = 0))
      failIf (nbit x 14 && !(dOk && tOk)) (0x20 + 8 * j)) ++
    (List.range 18).map fun o =>
      let code := recOsel r o
      let ks := srcKinds p.kind r code
      let tokenOut := decide (outKind o = 2)
      let consumed := (List.range 6).any (fun k => decide (recOsel r (12 + k) = code)) || decide (st.joins p.inst code ≠ [])
      failIf (decide (code ≠ 0) && (
        !(ks.contains (outKind o) || (tokenOut && ks.contains 1)) ||
        (decide (p.kind = 1) && decide (12 ≤ o ∧ o ≤ 16)) ||
        (decide (o < 12 ∧ code ≤ 12) && (consumed || h.chainCloses (12 * h.recs.length + 1) p code)) ||
        (decide (code ≥ 0x10) && (match routeLen st bounds remap 20 p o with
          | none => true
          | some n => decide (n > 16))))) (8 + o))

/-- Check 6 on a memory record (R134, MU_SLOTCTL). -/
def buffersBad (r : List Byte) : Option Nat :=
  let b := fun i => bufOf (BitVec.ofNat 64 (le r (0x40 + 8 * i) 8))
  let hi := fun i => (b i).base + (b i).nslot * (b i).slotw
  let t := le r 0xC0 8
  firstSome id (
    (List.range 16).map (fun i => failIf (decide ((b i).mode ≠ 0) && (decide (hi i > 4096) ||
      (List.range i).any fun k => decide ((b k).mode ≠ 0 ∧ (b k).base < hi i ∧ (b i).base < hi k))) (0x40 + 8 * i)) ++
    [failIf (decide (t ≠ 0 ∧ (t < 10 ∨ t > 30))) 0xC0])

/-- Check 9 (R188): live ranges within the bounds, SAVE_BYTES the sum of its ranges. -/
def liveBad (img : List Byte) (bounds : Word) : Bool :=
  let lo := le img 0x28 8
  let co := le img 0x30 8
  let live := (List.range (le img 0x14 4)).map fun i => lo + 16 * i
  live.any (fun o => decide (le img o 2 ≥ 16384) || !inBounds bounds (posOfLbin (le img o 2)) ||
    decide (le img (o + 4) 2 + le img (o + 6) 2 + 1 > 4096)) ||
  (List.range (le img 0x18 2)).any fun i =>
    let sum := (live.filter fun o => nbit (le img (o + 8) 8) i).foldl (fun a o => a + 64 * (le img (o + 6) 2 + 1)) 0
    decide (le img (co + 16 * i) 8 ≠ sum)

/-- All load checks in the order of Table 06.4 (R189). -/
def Sheaf.check (h : Sheaf) (bounds remap : Word) : Option LoadFault :=
  let img := h.img
  let perRec := fun (n : Nat) (f : Pos → List Byte → Option Nat) =>
    firstSome (fun (x : Pos × List Byte) => (f x.1 x.2).map fun o => LoadFault.mk n x.1 o) h.recs
  let dup := fun (p : Pos) => decide ((h.recs.filter fun x => decide (x.1 = p)).length > 1)
  let compute := fun (f : List Byte → Option Nat) (p : Pos) (r : List Byte) => if p.kind = 0 then f r else none
  match headerBad img with
  | some o => some ⟨1, noPos, o⟩
  | none =>
    firstSome id [
      if img.length < le img 8 8 then some ⟨1, noPos, 8⟩ else none,
      perRec 1 recordBad, (tablesBad img).map fun o => ⟨1, noPos, o⟩,
      if digestBad img then some ⟨2, noPos, 0xFE0⟩ else none,
      perRec 3 fun p _ => failIf (decide (p.d ≥ 4 ∨ p.row ≥ 64 ∨ p.col ≥ 128) || !inBounds bounds p || withdrawn remap p.d (p.col / 16) || dup p) 0,
      perRec 4 (compute programBad),
      perRec 5 (steerBad h bounds remap),
      perRec 6 fun p r => if p.kind = 1 then buffersBad r else none,
      perRec 7 (compute numericsBad),
      if nbit (le img 6 2) 0 ∧ le img 0x1C 4 > 1024 then some ⟨7, noPos, 0x1C⟩ else none,
      if ((bit remap 7 && holdsDieRow bounds 0) || (bit remap 15 && holdsDieRow bounds 1)) && !nbit (le img 6 2) 1
        then some ⟨8, noPos, 6⟩ else none,
      if liveBad img bounds then some ⟨9, noPos, 0x28⟩ else none]

end Sys2Proof.Machine
end

