-- ==== Sys2Proof/Machine/Sections.lean ====
section
/-!
DEFINITION. Sections in the tiles (chapter 06): the tiles of a plot (R200), the conditions of a switch (R194), the switch
itself (R195, R48, R64, R74, R142), the end of a run (R234), discarding shadows (R190, R199, R209) and the abort of a
task (R131, R199).
-/
namespace Sys2Proof.Machine
open Sys2Proof

/-! ### Conditions of a switch -/

/-- Terminating queues and join inputs that the active configuration consumes. -/
def State.eosQueuesOf (s : State) (inst : Nat) : List Nat :=
  ((List.range 6).map (12 + ·)).filter (fun o => decide (s.osel inst o ≠ 0)) ++
  ((List.range 2).flatMap fun j => if s.joinEn inst j then [30 + 2 * j, 31 + 2 * j] else []) ++
  (if inst % 2 = 1 then (s.tile inst).active.writes.map (20 + ·) else [])

/-- Conditions 2 to 6 of R194 for one tile. The idle configuration and a drained tile meet them at once. -/
def State.tileDone (s : State) (inst : Nat) : Bool :=
  let t := s.tile inst
  let u := inst / 2
  decide (t.active.record = []) || t.drained ||
  ((s.eosQueuesOf inst).all (fun q => t.eosDone.contains q) &&
   (List.range 12).all (fun o => decide (s.osel inst o = 0 ∨ s.osel inst o > 12) || t.eosDone.contains (100 + o)) &&
   (List.range 18).all (fun o => decide (s.credits inst o = s.rdF .LNK_CRED inst o 13 8)) &&
   (if inst % 2 = 0 then decide (s.rdF .CU_STATUS u 0 5 4 = 0 ∨ s.rdF .CU_STATUS u 0 5 4 = 3 ∨ s.rdF .CU_STATUS u 0 2 0 = 5)
    else (List.range 4).all fun g =>
      let k := s.gen u g
      decide (k.active = none ∧ k.queued = none) && !(k.held.any fun p => decide (p.2 = t.epoch)) && k.reqs.all fun r => decide (r.epoch ≠ k.epoch)))

/-- Condition 7: the tile stands at the run a save is bound to. -/
def State.preHeld (s : State) (p inst : Nat) : Bool := decide ((s.plot p).bound = some (s.tile inst).epoch)

/-- A power hold holds a tile at the end of a run marked as a cheap point (R484). -/
def State.pwrHeld (s : State) (p inst : Nat) : Bool :=
  s.pwr.hold && (s.plot p).runs.any fun r => decide (r.epoch = (s.tile inst).epoch ∧ r.cp ≠ 0)

/-! ### Runs -/

/-- Whether every unit of a plot has ended its part of the run with this epoch: a unit may already stand at a later one. -/
def State.runDone (s : State) (p : Nat) (e : Byte) : Bool :=
  (s.plotTiles p).all fun i => !(s.tile i).holds e && (decide ((s.tile i).epoch ≠ e) || s.tileDone i)

/-- Forget loads whose shadow no tile of the plot still waits for. -/
def State.pruneLoads (s : State) (p : Nat) : State :=
  let x := s.plot p
  let ts := s.plotTiles p
  s.setPlot p { x with loads := x.loads.filter fun l =>
    !(l.armed && ts.all fun i => !(s.tile i).holds l.epoch) }

/-- The oldest run of a plot completes once it is closed, every unit has ended it and its flag word is available (R234); the run
a save is bound to is kept for it (R209). -/
def State.settle (s : State) (p : Nat) : State :=
  let x := s.plot p
  match x.runs with
  | [] => s
  | r :: rs =>
    if r.status = 0 ∧ r.closed ∧ s.runDone p r.epoch ∧ (!r.flagMode ∨ r.flagsSeen) then
      ((s.setPlot p { x with runs := rs, ended := if x.bound = some r.epoch then some r else x.ended }).complete r.cmd r.epoch.toNat stOK (if r.flagMode then some r.flags else none)).inc
        .SEED_PLOT_EPOCHS p 0 1
    else s

/-- `settle` for the plot that holds a tile. -/
def State.settleAt (s : State) (inst : Nat) : State :=
  match s.plotOf inst with
  | some p => s.settle p
  | none => s

/-! ### The switch -/

/-- Load the registers of a thresher's record and its state at a switch (R48, R62, R64, R74, R195). FLAG_EN is the sheaf's
FLAG_MODE, whatever bit 7 of the record's CU_NUMCTL says; a thresher that takes the idle configuration holds CU_NUMCTL at its
reset value (DESIGN CHOICE, log entry 143). Its flags begin clear (R60). -/
def State.loadCu (s : State) (u : Nat) (c : TileCfg) : State :=
  let r := unitRecord c.record
  let s1 := ((s.wr .CU_PORTBIND u 0 (BitVec.ofNat 64 (le r 0x40 8))).wr .CU_NUMCTL u 0
    (if r = [] then (0x4 : Word) else setFld (BitVec.ofNat 64 (le r 0x48 8) &&& 0x97) 7 7 c.flagMode.toNat)).wr .CU_FLAGS u 0 0
  let s2 := (List.range 4).foldl (fun a k => a.wr .CU_CHAIN u k (BitVec.ofNat 64 (recChain r k))) s1
  let s3 := (List.range 64).foldl (fun a k => a.wr .CU_PROG u k (BitVec.ofNat 64 (le r (0x100 + 8 * k) 8))) s2
  let prog := (List.range 4).any fun k => decide (nbits (recChain r k) 55 52 ≠ 0)
  let mode := if s.rdF .CU_STATUS u 0 5 4 = 3 then 3 else if recMatrix r then 2 else if prog then 1 else 0
  let s4 := (((s3.wrF .CU_STATUS u 0 47 32 0).wrF .CU_STATUS u 0 5 4 mode).wrF .CU_STATUS u 0 2 0 0).wr .CU_SR_SEED u 0 (c.srSeed.setWidth 64)
  let k := s4.cu u
  s4.setCu u { Cu.reset with
    gen := k.gen + 1
    kAct := k.kStg
    kStg := k.kStg
    lfsr := (List.range 16).foldl (fun m l => mput lfsrDefault m l (lfsrLoad c.srSeed l)) [] }

/-- Load the registers of a bin's record at a switch: a buffer whose register changes has its tags set empty (R142). -/
def State.loadMu (s : State) (u : Nat) (c : TileCfg) : State :=
  let s1 := (List.range 16).foldl (fun a i =>
    let v : Word := BitVec.ofNat 64 (le (unitRecord c.record) (0x40 + 8 * i) 8)
    if a.rd .MU_BUF u i = v then a else (a.clearBuf u i).wr .MU_BUF u i v) s
  s1.wr .MU_SLOTCTL u 0 (BitVec.ofNat 64 (le (unitRecord c.record) 0xC0 8 % 32))

/-- A held issue enters its generator under epoch `e` (R233), unless the generator waits for epoch reuse (R126): then it
enters at EPOCH_REUSE_RELEASE. -/
def State.enterHeldGen (s : State) (u : Nat) (e : Byte) (g : Nat) : State :=
  let k := s.gen u g
  match k.held with
  | some (x, h) =>
    if h = e ∧ !k.reuse then
      let a1 := s.setGen u g { k with held := none }
      if a1.descBad u g x.desc then a1.completeStream u x 0x0205 else a1.enterStream u g x
    else s
  | none => s

/-- Issues held for the shadow enter their generators at the switch (R233). -/
def State.enterHeld (s : State) (u : Nat) (e : Byte) : State := (List.range 4).foldl (fun a g => a.enterHeldGen u e g) s

/-- Whether a generator holds an issue of its tile's active epoch, kept back by epoch reuse. -/
def State.heldNow (s : State) (u g : Nat) : Bool := (s.gen u g).held.any fun p => decide (p.2 = (s.tile (muInst u)).epoch)

/-- The switch of one tile (R195): registers, unit state, credits to the depth of the new routes, an empty shadow. -/
def State.switchTo (s : State) (inst : Nat) (sh : Shadow) : State :=
  let c := sh.cfg
  let u := inst / 2
  let s1 := (List.range 18).foldl (fun a o =>
    let d := lget c.depth o 0
    (a.wr .LNK_OSEL inst o (BitVec.ofNat 64 (recOsel c.record o % 64))).wr .LNK_CRED inst o (BitVec.ofNat 64 (d * 256 + d))) s
  let s2 := (List.range 2).foldl (fun a j => a.wr .LNK_JOIN inst j (BitVec.ofNat 64 (recJoin c.record j))) s1
  let s3 := if inst % 2 = 0 then s2.loadCu u c else s2.loadMu u c
  let s4 := s3.setTile inst { s3.tile inst with
    active := c, epoch := sh.epoch, shadow := none, eosDone := [], jcount := [], eosSent := [],
    drained := false, aborting := false }
  if inst % 2 = 1 then s4.enterHeld u sh.epoch else s4

/-- Whether a tile's shadow slot holds a valid, armed configuration (R194 condition 1). -/
def State.shadowArmed (s : State) (p inst : Nat) : Bool :=
  match (s.tile inst).shadow with
  | none => false
  | some sh => (s.plot p).loads.any fun l => decide (l.epoch = sh.epoch) && l.armed

/-- A tile switches when its conditions all hold (R194) and no power hold holds it (R484). -/
def State.switchTile (s : State) (inst : Nat) : State :=
  match s.plotOf inst, (s.tile inst).shadow with
  | some p, some sh =>
    if s.shadowArmed p inst && s.tileDone inst && !s.preHeld p inst && !s.pwrHeld p inst then
      let old := s.tile inst
      let s1 := s.switchTo inst sh
      let x := s1.plot p
      let s2 := s1.setPlot p { x with
        runs := x.runs.map fun r =>
          if r.epoch = sh.epoch then { r with started := true }
          else if r.epoch = old.epoch ∧ old.eosDone.any (· < 100) then { r with left := true } else r
        sheaf := ((x.loads.find? fun l => decide (l.epoch = sh.epoch)).map LoadRec.sheaf).getD x.sheaf
        remapped := x.remapped && ((x.loads.find? fun l => decide (l.epoch = sh.epoch)).map LoadRec.rerun).getD true }
      (s2.pruneLoads p).settle p
    else s
  | _, _ => s

/-! ### Discarding shadows and aborting -/

/-- Issues held in a bin end with a status (R233): those that wait for a discarded shadow, or those of the active epoch. -/
def State.dropHeld (s : State) (u : Nat) (now : Bool) (status : Nat) : State :=
  (List.range 4).foldl (fun a g =>
    match (a.gen u g).held with
    | some (x, _) =>
      if a.heldNow u g = now then (a.setGen u g { a.gen u g with held := none }).completeStream u x status else a
    | none => a) s

/-- Empty every shadow slot of a plot and forget its loads; the commands that armed them complete with NOT_RUN, and
unarmed loads with them (R190, R199, R209). A plot of which only some tiles had switched takes a full load next. -/
def State.discardShadows (s : State) (p : Nat) : State :=
  let s1 := (s.plotTiles p).foldl (fun a i =>
    let t := a.tile i
    let a1 := a.setTile i { t with shadow := none, incoming := [], cfgLeft := [] }
    if i % 2 = 1 then a1.dropHeld (i / 2) false 0x0402 else a1) s
  let x := s1.plot p
  let gone := x.loads
  let ts := s1.plotTiles p
  let torn := gone.any fun l => l.armed && ts.any fun i => decide ((s1.tile i).epoch = l.epoch)
  let s2 := s1.setPlot p { x with loads := [], remapped := x.remapped || torn }
  gone.foldl (fun a l =>
    if l.armed then
      let y := a.plot p
      let mine := y.runs.filter fun r => decide (r.epoch = l.epoch ∧ r.status = 0)
      mine.foldl (fun b r => b.complete r.cmd r.epoch.toNat 0x0402 none) (a.setPlot p { y with runs := y.runs.filter fun r => decide (r.epoch ≠ l.epoch ∨ r.status ≠ 0) })
    else if l.valid then a else a.complete l.cmd l.epoch.toNat 0x0402 none) s2

/-- One unit of an aborted section (R131 steps 2 to 4): streams cancelled with the task's status, queued data discarded,
tags set empty. -/
def State.abortTile (s : State) (inst status : Nat) : State :=
  let u := inst / 2
  let s1 := s.setTile inst { s.tile inst with aborting := true }
  let s2 := if inst % 2 = 1 then
      (List.range 16).foldl (fun a i => a.clearBuf u i)
        ((List.range 4).foldl (fun a g => a.cancelGen u g status) (s1.dropHeld u true status))
    else s1.setCu u { s1.cu u with mtile := [], mq := 0 }
  ((s2.tile inst).queues.map (·.1)).foldl (fun a q => dropAll ((a.tile inst).queue q).length a inst q) s2

/-- The abort of a plot's run (R131 to R133, R199): its units abort, every shadow is disarmed, and runs begun after it
end with NOT_RUN. A run already aborting keeps its first status. -/
def State.abortRun (s : State) (p : Nat) (e : Byte) (status : Nat) : State :=
  let x := s.plot p
  match x.runs.find? (fun r => decide (r.epoch = e)) with
  | none => s
  | some r =>
    if r.status ≠ 0 then s
    else
      let older := x.runs.takeWhile fun q => decide (q.epoch ≠ e)
      let newer := (x.runs.dropWhile fun q => decide (q.epoch ≠ e)).drop 1
      let s1 := newer.foldl (fun a q => a.complete q.cmd q.epoch.toNat 0x0402 none)
        (s.setPlot p { x with
          runs := older ++ [{ r with status := status }]
          bound := if x.bound = some e then none else x.bound })
      let hit := fun i => decide ((s.tile i).epoch = e) || newer.any fun q => decide (q.epoch = (s.tile i).epoch)
      let s2 := ((s.plotTiles p).filter hit).foldl (fun a i => a.abortTile i status) s1
      s2.discardShadows p

/-- Abort every run of a plot (R202, R207, R211, R509). -/
def State.abortAll (s : State) (p status : Nat) : State :=
  match (s.plot p).runs with
  | [] => s.discardShadows p
  | r :: _ => s.abortRun p r.epoch status

/-- A unit of an aborted section has drained (R199). -/
def State.tileDrained (s : State) (inst : Nat) : Bool :=
  let t := s.tile inst
  (t.queues.all fun q => decide (q.2 = [])) &&
  ((List.range 18).all fun o => decide (s.credits inst o = s.rdF .LNK_CRED inst o 13 8)) &&
  (decide (inst % 2 = 0) || (List.range 4).all fun g => (s.gen (inst / 2) g).reqs.all fun r => decide (r.epoch ≠ (s.gen (inst / 2) g).epoch))

/-- The abort drain of a plot's aborting run is over: its units are drained and the task completes with its fault
status (R199). -/
def State.finishAbort (s : State) (p : Nat) : State :=
  let x := s.plot p
  match x.runs.find? (fun r => decide (r.status ≠ 0)) with
  | none => s
  | some r =>
    let ts := (s.plotTiles p).filter fun i => (s.tile i).aborting
    if ts.all s.tileDrained then
      let s1 := ts.foldl (fun a i => a.setTile i { a.tile i with drained := true }) s
      (s1.setPlot p { s1.plot p with runs := (s1.plot p).runs.filter fun q => decide (q.epoch ≠ r.epoch) }).complete
        r.cmd r.epoch.toNat r.status none
    else s

/-- A tile takes the idle configuration at once (R187, R202, R209). -/
def State.makeIdle (s : State) (inst : Nat) : State :=
  let t := s.tile inst
  let s1 := s.switchTo inst ⟨TileCfg.idle, t.epoch⟩
  s1.setTile inst { s1.tile inst with incoming := [], cfgLeft := [], queues := [], flight := [], owed := [], credBack := [], retry := [] }

end Sys2Proof.Machine
end

