-- ==== Sys2Proof/Machine/Bins.lean ====
section
/-!
DEFINITION. The bins' commands (chapter 04): the elements of the four stream kinds, cartway responses, epochs, task
aborts, slot time-outs and remote windows. A command that cannot occur in the state leaves it unchanged (log entry 12).
-/
namespace Sys2Proof.Machine
open Sys2Proof

/-! ### The checks of Table 04.12 -/

/-- A plot number as an index. -/
def plotFin (p : Nat) : Fin 16 := ⟨p % 16, Nat.mod_lt _ (by decide)⟩

/-- Check order 1 of Table 04.12 (R532): whether a sender may reach the windows of the plot that holds a bin. -/
def State.senderOk (s : State) (u : Nat) (w : Sender) : Bool :=
  match w with
  | .gleaner | .riddle | .firmware => true
  | .plot q =>
    match s.plotOf (muInst u) with
    | some p => decide (q.val = p) || nbit (s.rdF .HSP_PLOT_A p 0 15 0) q
    | none => false
  | .slice x =>
    match s.plotOf (muInst u) with
    | some p => nbit (s.rdF .HSP_PLOT_A p 0 47 32) x
    | none => false
  | .core c =>
    match s.plotOf (muInst u) with
    | some p => nbit (s.plotMask c) p
    | none => false

/-- The checks of Table 04.12 in order; 0 when all pass (R144). -/
def State.windowCheck (s : State) (u : Nat) (sender : Sender) (win gen off len : Nat) (wr : Bool) : Nat :=
  let w := s.rd .MU_WIN u win
  if !s.senderOk u sender then stProt
  else if win ≥ 8 ∨ !bit w 63 then 0x0204
  else if gen ≠ fld w 47 32 then 0x0204
  else if off < fld w 11 0 * 64 ∨ (fld w 11 0 + fld w 27 16 + 1) * 64 < off + len then 0x0204
  else if (if wr then bit w 62 else bit w 61) then 0 else stProt

/-! ### READ and WRITE -/

/-- STREAM_ACTIVATE (R109): the queued descriptor becomes active once the active stream has ended. -/
def execStreamActivate (unit : Fin 16896) (gen : Fin 4) (s : State) : Out :=
  let k := s.gen unit gen
  match k.active, k.queued with
  | none, some x => .next ((s.setGen unit gen { k with active := some x, queued := none, st := 1, ttl := 0 }))
  | _, _ => .next s

/-- A generator held by a tag for one cycle (R140): the cycles of one tag check count towards its timeout, with stalls for
other reasons between them not counted. -/
def State.tagStall (s : State) (u g : Nat) : State :=
  let k := s.gen u g
  (s.setGen u g { k with st := 2, ttl := k.ttl + 1 }).inc .MU_AG_STALL_TAG u g 1

/-- A CHECKED access that finds the wrong tag (R141): MU_SLOTFAULT takes the first violation, and the task faults. -/
def State.slotFault (s : State) (u g v : Nat) (fills : Bool) : State :=
  let ep := (s.tile (muInst u)).epoch.toNat
  let w : Word := setFld (setFld (setFld (setFld (setFld (setFld (setFld 0 63 63 1) 62 62 fills.toNat) 61 60 g) 59 52 ep)
    51 48 (visitBuf v)) 47 36 (visitSlot v)) 31 0 s.time
  let s1 := if bit (s.rd .MU_SLOTFAULT u 0) 63 then s else s.wr .MU_SLOTFAULT u 0 w
  s1.taskFault (muInst u) 0x0203 (errRec 0x0203 sevTransient 1 u 0)

/-- A generator that loses a bank (R108). -/
def State.bankLoss (s : State) (u g bank : Nat) : State :=
  ((s.setGen u g { s.gen u g with st := 3 }).inc .MU_CONFLICT u bank 1).inc .MU_AG_STALL_BANK u g 1

/-- A generator held by credit or by its outstanding limit (R116, Table 04.15). -/
def State.creditStall (s : State) (u g : Nat) : State :=
  (s.setGen u g { s.gen u g with st := 4 }).inc .MU_AG_STALL_CREDIT u g 1

/-- A lasting bank error: the row is spared and its granule poisoned, and the task ends with STREAM_FAULT (R130, R131,
R505). -/
def State.bankLasting (s : State) (u b g : Nat) : State :=
  let spare := mget dNat (s.mu u).rowMap (bankOf b * 256 + rowOf b)
  let e := { (errRec 0x0201 sevLasting 1 u 1).withAddr (s.binAddr u b) with detail0 := binDetail b g spare, flags := 9 }
  let s1 := s.spareRow u b (some g) e
  let ep := (s1.tile (muInst u)).epoch.toNat
  match s1.plotOf (muInst u) with
  | none => s1
  | some p => s1.setPlot p { s1.plot p with faults := (s1.plot p).faults ++ [0x0201 * 256 + ep] }

/-- What the check bits of a bank read do to the state, and whether the data may be used (R130). A poisoned granule is
uncorrectable at both attempts (R505). -/
def State.bankRead (s : State) (u b n : Nat) (ecc : Ecc) : State × Bool :=
  let pois := (List.range (n / 4)).find? fun k => mget dFalse s.mem.pBin (u * 0x10000 + b / 4 + k)
  match pois with
  | some k => (s.bankLasting u b ((b / 4 + k) % 16), false)
  | none =>
    match ecc with
    | .clean => (s, true)
    | .corrected g => (s.binCorrected u b g, true)
    | .transient g =>
      (s.raise { (errRec 0x0201 sevTransient 1 u 1).withAddr (s.binAddr u b) with detail0 := binDetail b g (mget dNat (s.mu u).rowMap (bankOf b * 256 + rowOf b)) }, true)
    | .lasting g => (s.bankLasting u b g, false)

/-- The bytes of a READ element with tail bytes zero (R119), whether each is valid, and whether one is tail under
INVALID. -/
def readBytes (d : Desc) (e : Nat) (raw : List Byte) : List Byte :=
  (List.range d.esize).map fun b => if d.tailByte e b then 0 else lget raw b 0

/-- Valid bytes an element adds to a beat: all of them until a tail byte under INVALID is met (R119). -/
def validBytes (d : Desc) (e : Nat) : Nat := ((List.range d.esize).takeWhile fun b => !d.invByte e b).length

/-- Output that a READ's PORT names. -/
def Desc.out (d : Desc) : Nat := d.dir + if d.scalar then 4 else 0

/-- Joins of the bin's own tile that a READ feeds (Table 05.4, log entry 140): data joins, and token joins when it is scalar. -/
def State.readJoins (s : State) (u : Nat) (d : Desc) : List Nat :=
  (s.joinQs (muInst u) 0x10).filter fun q => decide (q % 2 = 0) || d.scalar

/-- Whether every branch of a READ has credit (R155, R160). -/
def State.canRead (s : State) (u : Nat) (d : Desc) : Bool :=
  decide (0 < s.credits (muInst u) d.out) &&
  (s.readJoins u d).all fun q => decide (((s.tile (muInst u)).queue q).length < 8)

/-- Send a READ's beat, or its element on a scalar link, on the output its PORT names and into the joins it feeds (R112,
R113). -/
def State.sendRead (s : State) (u : Nat) (d : Desc) (bs : List Byte) (v : Nat) : State :=
  let p : Payload := if d.scalar then .scalar (BitVec.ofNat 32 (bytesToNat bs))
    else .beat (BitVec.ofNat 512 (bytesToNat bs)) (validCount d.pw v)
  (s.readJoins u d).foldl (fun a q => a.sendJoin (muInst u) q p) (s.sendOn (muInst u) d.out p)

/-- A READ held for want of credit on its branches (R116, Table 05.15). -/
def State.readStall (s : State) (u g : Nat) : State := (s.creditStall u g).inc .LNK_CREDIT_STALL (muInst u) 0 1

/-- After an element of a READ or WRITE: the visit ends when the next element lies outside its slot, and the stream ends
after its last element (R135, R233). -/
def State.afterElement (s : State) (u g : Nat) (fills : Bool) : State :=
  let k := s.gen u g
  match k.active with
  | none => s
  | some x =>
    let d : Desc := x.desc
    let last := decide (d.total ≤ x.pos)
    let nxt := if last then 0 else s.slotAt u (d.binByte x.pos / 64)
    let s1 := if x.visit ≠ 0 ∧ (last ∨ nxt ≠ x.visit) then
        (s.endVisit u x.visit fills).setGen u g { k with active := some { x with visit := 0, vbytes := 0 } }
      else s
    if last then (s1.endStream u g stOK).settleAt (muInst u) else s1

/-- READ_ELEMENT (R115): one element from its bank (R107), packed into its beat; the beat leaves when it is full, at the
end of a dimension-0 run and at the end of the stream (R112). -/
def execReadElement (unit : Fin 16896) (gen : Fin 4) (ecc : Ecc) (rivals : List BankReq) (s : State) : Out :=
  let u := unit.val
  let g := gen.val
  let k := s.gen u g
  match k.active with
  | none => .next s
  | some x =>
    let d : Desc := x.desc
    if d.kind ≠ 0 ∨ (s.tile (muInst u)).aborting ∨ s.throttled ∨ d.total ≤ x.pos then .next s
    else
      let b := d.binByte x.pos
      let v := s.slotAt u (b / 64)
      let newVisit := decide (x.visit ≠ v ∨ x.vbytes = 0)
      let n := x.packB.length + d.esize
      let sends := d.scalar || decide (n = 64) || d.runEnd x.pos || decide (x.pos + 1 = d.total)
      let whole := d.whole x.pos
      if sends ∧ !s.canRead u d then .next (s.readStall u g)
      else
        match (if newVisit ∧ ¬ whole then s.tagCheck u v false else .go) with
        | .stall => .next (s.tagStall u g)
        | .fault => .next (s.slotFault u g v false)
        | .go =>
          let bank := bankOf b
          if !whole && !s.bankWins u bank g rivals then .next (s.bankLoss u g bank)
          else
            let r := if whole then (s, true) else (s.bankWin u bank g).bankRead u b d.esize ecc
            if r.2 = false then .next r.1
            else
              let raw := s.load .bin (u * 0x40000 + b) d.esize
              let bs := x.packB ++ readBytes d x.pos raw
              let vb := if x.packBad then x.packV else x.packV + validBytes d x.pos
              let bad := x.packBad || decide (validBytes d x.pos < d.esize)
              let y := { x with
                pos := x.pos + 1, visit := v, vbytes := if whole ∧ newVisit then 0 else 1,
                packB := if sends then [] else bs, packV := if sends then 0 else vb, packBad := !sends && bad }
              let s1 := r.1.setGen u g { r.1.gen u g with active := some y, st := 1, ttl := 0 }
              let s2 := if sends then s1.sendRead u d bs vb else s1
              .next (s2.afterElement u g false)

/-- Bytes of a beat or of a scalar transfer, and how many leading bytes its valid count covers (R112, R120). -/
def payloadBytes (d : Desc) (p : Payload) : List Byte × Nat :=
  match p with
  | .beat x v => (natToBytes 64 x.toNat, ceilDiv (v * portWidth d.pw) 8)
  | .scalar x => (natToBytes 4 x.toNat, 4)
  | _ => ([], 0)

/-- WRITE_ELEMENT (R115): a beat is taken at the head of the link input at the start of each run and when the last one
is used up; the element is written when one of its bytes is valid, tail bytes apart (R120). -/
def execWriteElement (unit : Fin 16896) (gen : Fin 4) (rivals : List BankReq) (s : State) : Out :=
  let u := unit.val
  let g := gen.val
  let k := s.gen u g
  let inst := muInst u
  match k.active with
  | none => .next s
  | some x =>
    let d : Desc := x.desc
    let q := 21 + d.dir + (if d.scalar then 4 else 0)
    if d.kind ≠ 1 ∨ (s.tile inst).aborting ∨ s.throttled ∨ d.total ≤ x.pos then .next s
    else if x.taken = none ∧ !(s.tile inst).headData q then .next s
    else
      let head := ((s.tile inst).head q).getD .eos
      let beat := match x.taken with
        | some (bt, vb) => (natToBytes 64 bt.toNat, vb)
        | none => payloadBytes d head
      let used := if x.taken = none then 0 else x.packV
      let b := d.binByte x.pos
      let v := s.slotAt u (b / 64)
      let newVisit := decide (x.visit ≠ v ∨ x.vbytes = 0)
      let es := d.esize
      let keep := (List.range es).filter fun j => !d.tailByte x.pos j
      let writes := decide (used < beat.2) && decide (keep ≠ [])
      match (if newVisit ∧ writes then s.tagCheck u v true else .go) with
      | .stall => .next (s.tagStall u g)
      | .fault => .next (s.slotFault u g v true)
      | .go =>
        let bank := bankOf b
        if writes && !s.bankWins u bank g rivals then .next (s.bankLoss u g bank)
        else
          let s1 := if x.taken = none then s.popQ inst q else s
          let s2 := if writes then
              keep.foldl (fun a j => a.writeBin u (b + j) [lget beat.1 (used + j) 0]) (s1.bankWin u bank g)
            else s1
          let full := d.scalar || decide (used + es ≥ 64) || d.runEnd x.pos || decide (x.pos + 1 = d.total)
          let y := { x with
            pos := x.pos + 1, visit := v, vbytes := if !writes ∧ newVisit then 0 else 1,
            taken := if full then none else some (BitVec.ofNat 512 (bytesToNat beat.1), beat.2),
            packV := if full then 0 else used + es }
          let s3 := s2.setGen u g { s2.gen u g with active := some y, st := 1, ttl := 0 }
          .next (s3.afterElement u g true)

/-! ### FETCH and FLUSH -/

/-- The ring slot a FETCH fills or a FLUSH drains next, as a visit code (R136). -/
def State.ringVisit (s : State) (u b : Nat) (fills : Bool) : Nat :=
  b * 8192 + mget dNat (if fills then (s.mu u).fill else (s.mu u).drain) b + 1

/-- Move a ring pointer to the next slot, wrapping. -/
def State.ringNext (s : State) (u b : Nat) (fills : Bool) : State :=
  let m := s.mu u
  let n := (s.buf u b).nslot
  if fills then s.setMu u { m with fill := mput dNat m.fill b ((mget dNat m.fill b + 1) % n) }
  else s.setMu u { m with drain := mput dNat m.drain b ((mget dNat m.drain b + 1) % n) }

/-- Byte capacity of a slot, and byte offset of a visit's slot in the bin. -/
def State.slotBytes (s : State) (u b : Nat) : Nat := (s.buf u b).slotw * 64

/-- How many consecutive elements from `e` one cartway request carries (R116): contiguous elements of the run in one
256-byte-aligned block, within the slot's room, each wholly real but the last. -/
def mergeCount (d : Desc) (e room : Nat) : Nat :=
  let n := min (min 64 (d.total - e)) (d.count 0 - e % d.count 0)
  let a0 := d.globalAddr e
  1 + ((List.range (n - 1)).takeWhile fun j =>
    decide (d.realLen (e + j) = d.esize ∧ d.globalAddr (e + j + 1) = a0 + (j + 1) * d.esize ∧
      (a0 + (j + 1) * d.esize) / 256 = a0 / 256 ∧ (j + 2) * d.esize ≤ room) && !d.whole (e + j + 1)).length

/-- After a FETCH or FLUSH has issued up to its position: the slot visit closes when the slot is full or the stream has
issued everything, and the pointer moves on; a closed visit ends when none of its requests is outstanding. -/
def State.closeVisit (s : State) (u g : Nat) (fills : Bool) : State :=
  let k := s.gen u g
  match k.active with
  | none => s
  | some x =>
    let d : Desc := x.desc
    let b := d.buf
    if x.visit ≠ 0 ∧ (s.slotBytes u b ≤ x.vbytes ∨ d.total ≤ x.pos) then
      let s1 := s.setGen u g { k with active := some { x with visit := 0, vbytes := 0, vend := x.vend ++ [x.visit] } }
      s1.ringNext u b fills
    else s

/-- End the closed visits whose requests have all come back, then the stream when nothing is left (R135, R233). -/
def State.reapVisits (s : State) (u g : Nat) (fills : Bool) : State :=
  let k := s.gen u g
  match k.active with
  | none => s
  | some x =>
    let open_ := fun v => k.reqs.any fun r => decide (r.epoch = k.epoch ∧ r.visit = v)
    let done := if fills then x.vend.filter fun v => !open_ v else x.vend
    let s1 := done.foldl (fun a v => a.endVisit u v fills) s
    let s2 := s1.setGen u g { s1.gen u g with active := some { x with vend := x.vend.filter fun v => !done.contains v } }
    let d : Desc := x.desc
    if d.total ≤ x.pos ∧ (k.reqs.all fun r => decide (r.epoch ≠ k.epoch)) ∧ x.visit = 0 then
      (s2.endStream u g stOK).settleAt (muInst u)
    else s2

/-- Refuse a stream's request (R131): the task ends with STREAM_FAULT and the record carries the underlying code. -/
def State.streamRefused (s : State) (u status addr : Nat) : State :=
  s.taskFault (muInst u) 0x0201 ((errRec status sevTransient 1 u 0).withAddr addr)

/-- The plot whose identity a bin's cartway requests carry. -/
def State.streamPlot (s : State) (u : Nat) : Nat := (s.plotOf (muInst u)).getD 0

/-- Window check of a stream's access to a bin of this chip, with the window its request names (R143): the bin and the
status; none when the address names no bin. -/
def State.streamWindow (s : State) (u addr n : Nat) (wr : Bool) : Option (Nat × Nat) :=
  let a := addr % 2 ^ 48
  if addr / 2 ^ 48 ≠ s.chip then none
  else
    match s.locate (.plot (s.streamPlot u)) a n with
    | .ok (.bin t o) =>
      some (t, s.windowCheck t (.plot (plotFin (s.streamPlot u))) (Config.streamWin a).toNat (Config.streamGen a).toNat o n wr)
    | _ => none

/-- FETCH_REQUEST (R116): the next request of a FETCH, after its slot's tag is checked at the start of a visit. A wholly
tail element is not requested: its bytes are written as zero (R120). -/
def execFetchRequest (unit : Fin 16896) (gen : Fin 4) (s : State) : Out :=
  let u := unit.val
  let g := gen.val
  let k := s.gen u g
  match k.active with
  | none => .next s
  | some x =>
    let d : Desc := x.desc
    let b := d.buf
    if d.kind ≠ 2 ∨ (s.tile (muInst u)).aborting ∨ d.total ≤ x.pos then .next s
    else
      let v := s.ringVisit u b true
      match (if x.visit = 0 then s.tagCheck u v true else .go) with
      | .stall => .next (s.tagStall u g)
      | .fault => .next (s.slotFault u g v true)
      | .go =>
        let dest := s.visitWord u v * 64 + x.vbytes
        if d.whole x.pos then
          let s1 := s.writeBin u dest (List.replicate d.esize 0)
          let y := { x with pos := x.pos + 1, visit := v, vbytes := x.vbytes + d.esize }
          .next (((s1.setGen u g { k with active := some y, st := 1, ttl := 0 }).closeVisit u g true).reapVisits u g true)
        else if k.reqs.length ≥ 1024 then .next (s.creditStall u g)
        else
          let n := mergeCount d x.pos (s.slotBytes u b - x.vbytes)
          let len := (n - 1) * d.esize + d.realLen (x.pos + n - 1)
          let addr := d.globalAddr x.pos
          let loc := decide (addr / 2 ^ 48 = s.chip)
          let sent : Except Nat (Option State) :=
            if loc then
              match s.resolve (.plot (s.streamPlot u)) (addr % 2 ^ 48) len false false true with
              | .error e => .error e
              | .ok _ => .ok (some s)
            else s.gwSend (s.streamPlot u) u g (s.mu u).nextReq addr len none
          match sent with
          | .error e => .next (s.streamRefused u e addr)
          | .ok none => .next (s.creditStall u g)
          | .ok (some s0) =>
            let m := s0.mu u
            let q : BinReq := ⟨m.nextReq, k.epoch, addr, len, dest, v, false, x.pos, n, [], 0, none⟩
            let y := { x with pos := x.pos + n, visit := v, vbytes := x.vbytes + n * d.esize }
            let s1 := (s0.setMu u { m with nextReq := m.nextReq + 1 }).setGen u g { k with active := some y, st := 1, ttl := 0, reqs := k.reqs ++ [q] }
            .next ((s1.inc .MU_FETCH_REQ_BYTES u 0 len).closeVisit u g true)

/-- The bytes of a response: those the addressed local memory holds, or those another chip sent. The access was checked
when the request was issued (R269). -/
def State.respBytes (s : State) (u : Nat) (r : BinReq) (res : Resp) : Except Nat (List Byte) :=
  match res with
  | .data bs => .ok bs
  | .ok =>
    let a := r.addr % 2 ^ 48
    match (if r.addr / 2 ^ 48 = s.chip then s.locate (.plot (s.streamPlot u)) a r.len else .error 0) with
    | .error _ => .ok ((List.range r.len).map fun i => Config.freeByte r.id i)
    | .ok l => if s.media a l r.len false ≠ 0 then .error (s.media a l r.len false) else .ok (s.readLoc a l r.len)
  | .error => .error 0x0201
  | .refused st => .error st.toNat

/-- The answer to a request: the one that another chip's packet brought when there is one (R451), where a NACK is a refusal by
protection or by a window, or else a detected error, as LINK_DOWN is (R130); without one the response given. -/
def BinReq.answer (r : BinReq) (res : Resp) : Resp :=
  match r.ans with
  | none => res
  | some (1, _, bs) => .data bs
  | some (3, _, _) => .ok
  | some (_, st, _) => if st = stProt ∨ st = 0x0204 then .refused (BitVec.ofNat 16 st) else .error

/-- What a response amounts to: a bin of this chip that refuses the window a FETCH names answers with a NACK (R143, R145). -/
def State.respOf (s : State) (u : Nat) (r : BinReq) (res : Resp) : Resp :=
  match res, s.streamWindow u r.addr r.len false with
  | .ok, some (_, st) => if st ≠ 0 then .refused (BitVec.ofNat 16 st) else .ok
  | _, _ => res

/-- The refusal counts at the bin that refuses (R145). -/
def State.countNack (s : State) (u : Nat) (r : BinReq) (res : Resp) : State :=
  match res, s.streamWindow u r.addr r.len false with
  | .ok, some (t, st) => if st ≠ 0 then s.inc .MU_WIN_NACKS t 0 1 else s
  | _, _ => s

/-- Whether a failed response is repeated: a refusal never is (R130), a detected error once. -/
def repeats (r : BinReq) (res : Resp) : Bool :=
  match res with
  | .refused _ => false
  | _ => !r.repeated

/-- Consecutive runs of an ascending list of byte positions, as start and length. -/
def runsOf (keep : List Nat) : List (Nat × Nat) :=
  keep.foldl (fun rs j =>
    match rs.getLast? with
    | some (a, n) => if a + n = j then rs.dropLast ++ [(a, n + 1)] else rs ++ [(j, 1)]
    | none => [(j, 1)]) []

/-- A FLUSH write reaches its target on this chip and lands there (R128): the state after it, and the status of a refusal by
a window or of a failed access, with nothing written, else 0. -/
def State.landFlush (s : State) (u addr : Nat) (bs : List Byte) : State × Nat :=
  let a := addr % 2 ^ 48
  match s.streamWindow u addr bs.length true, s.locate (.plot (s.streamPlot u)) a bs.length with
  | some (t, st), .ok (.bin _ o) =>
    if st ≠ 0 then (s.inc .MU_WIN_NACKS t 0 1, st) else ((s.writeBin t o bs).banksWon t o bs.length 4, 0)
  | _, .ok l =>
    let st := s.media a l bs.length true
    if st ≠ 0 then (s, st) else (s.writeLoc a l bs, 0)
  | _, .error e => (s, e)

/-- Send one write of a FLUSH, as request `q` without its status: checked here when it stays on this chip, through the
gateway otherwise; none while that has no tag. -/
def State.sendFlush (s : State) (u g : Nat) (q : BinReq) : Except Nat (Option State) :=
  let add := fun (t : State) (st : Nat) =>
    let k := t.gen u g
    t.setGen u g { k with reqs := k.reqs ++ [{ q with nack := st }] }
  if q.addr / 2 ^ 48 = s.chip then
    match s.resolve (.plot (s.streamPlot u)) (q.addr % 2 ^ 48) q.len true false true with
    | .error e => .error e
    | .ok _ => let x := s.landFlush u q.addr q.data; .ok (some (add x.1 x.2))
  else
    match s.gwSend (s.streamPlot u) u g q.id q.addr q.len (some q.data) with
    | .error e => .error e
    | .ok t => .ok (t.map fun t => add t 0)

/-- Send the single repeat of a request (R130): under a new number, so that an answer to the first attempt finds nothing
(R179); one that goes to another chip takes a tag again (R451), and waits, unchanged, while there is none. -/
def State.repeatReq (s : State) (u g : Nat) (r : BinReq) : State :=
  let m := s.mu u
  let q := { r with id := m.nextReq, repeated := true, nack := 0, ans := none }
  let k := s.gen u g
  let s1 := (s.setMu u { m with nextReq := m.nextReq + 1 }).setGen u g { k with reqs := k.reqs.filter fun y => decide (y.id ≠ r.id) }
  let again : Except Nat (Option State) :=
    if r.data ≠ [] then s1.sendFlush u g q
    else
      let t := s1.setGen u g { s1.gen u g with reqs := (s1.gen u g).reqs ++ [q] }
      if r.addr / 2 ^ 48 = s.chip then .ok (some t) else t.gwSend (t.streamPlot u) u g q.id q.addr q.len none
  match again with
  | .ok (some t) => t
  | .ok none => s
  | .error e =>
    (if r.data = [] then s1.inc .MU_FETCH_FAIL_BYTES u 0 r.len else s1).streamRefused u e r.addr

/-- Take a request off a generator's list. -/
def State.dropReq (s : State) (u g id : Nat) : State :=
  let k := s.gen u g
  s.setGen u g { k with reqs := k.reqs.filter fun r => decide (r.id ≠ id) }

/-- A request has failed for good (R130, R131): its bytes count as failed when it is a FETCH's, and the task faults. -/
def State.reqFailed (s : State) (u g : Nat) (r : BinReq) (code sev : Nat) : State :=
  let s1 := s.dropReq u g r.id
  let s2 := if r.data = [] then s1.inc .MU_FETCH_FAIL_BYTES u 0 r.len else s1
  s2.taskFault (muInst u) 0x0201 ((errRec code sev 1 u 0).withAddr r.addr)

/-- A lasting error of a FETCH from this chip's silo starts the repair of its row (R275). -/
def State.siloRepair (s : State) (r : BinReq) (sev : Nat) : State :=
  let a := r.addr % 2 ^ 48
  if sev = sevLasting ∧ r.addr / 2 ^ 48 = s.chip ∧ a < 0xA000000000 then s.repairRow (siloRow a) else s

/-- FETCH_RESPONSE (R117, R124, R130): a response of a stale epoch is discarded before it touches a bank; a detected
error is repeated once; data wins its banks as requester 4, or waits (R107, R108), and lands at its ring position with tail
bytes zero. -/
def execFetchResponse (unit : Fin 16896) (gen : Fin 4) (req : Nat) (epoch : BitVec 8) (res : Resp) (rivals : List BankReq) (s : State) : Out :=
  let u := unit.val
  let g := gen.val
  let k := s.gen u g
  match k.reqs.find? (fun r => decide (r.id = req ∧ r.epoch = epoch ∧ r.data = [])) with
  | none => .next s
  | some r =>
    let res := r.answer res
    let rs := s.respOf u r res
    if epoch ≠ k.epoch then
      let c := match rs with
        | .error => Reg.MU_FETCH_FAIL_BYTES
        | .refused _ => Reg.MU_FETCH_FAIL_BYTES
        | _ => Reg.MU_DISCARD_BYTES
      .next (((s.countNack u r res).dropReq u g req).inc c u 0 r.len)
    else
      match s.respBytes u r rs, k.active with
      | .ok bs, some x =>
        let d : Desc := x.desc
        let put := (List.range r.n).flatMap fun j => (List.range d.esize).map fun i =>
          if d.tailByte (r.k0 + j) i then (0 : Byte) else lget bs (j * d.esize + i) 0
        let banks := banksOf r.dest put.length
        match banks.find? fun b => !s.bankWins u b 4 rivals with
        | some b => .next (s.inc .MU_CONFLICT u b 1)
        | none =>
          let sc := if rs = .ok ∧ r.addr / 2 ^ 48 = s.chip then s.countAt (r.addr % 2 ^ 48) r.len else s
          let s0 := if r.repeated then sc.raise ((errRec 0x0201 sevTransient 1 u 5).withAddr r.addr) else sc
          let s1 := (s0.writeBin u r.dest put).banksWon u r.dest put.length 4
          .next (((s1.dropReq u g req).inc .MU_FETCH_LAND_BYTES u 0 r.len).reapVisits u g true)
      | .ok _, none => .next (s.dropReq u g req)
      | .error e, _ =>
        if repeats r rs then .next (s.repeatReq u g r)
        else
          let sev := match rs with
            | .refused _ => sevTransient
            | _ => sevLasting
          .next (((s.countNack u r res).reqFailed u g r e sev).siloRepair r sev)

/-- FLUSH_WRITE (R116, R117, R128): a FLUSH reads its buffer in ring order and sends its real bytes, one write for each
consecutive run of them (R120); a write sent lands at its target. -/
def execFlushWrite (unit : Fin 16896) (gen : Fin 4) (ecc : Ecc) (rivals : List BankReq) (s : State) : Out :=
  let u := unit.val
  let g := gen.val
  let k := s.gen u g
  match k.active with
  | none => .next s
  | some x =>
    let d : Desc := x.desc
    let b := d.buf
    if d.kind ≠ 3 ∨ (s.tile (muInst u)).aborting ∨ s.throttled ∨ d.total ≤ x.pos then .next s
    else
      let v := s.ringVisit u b false
      match (if x.visit = 0 then s.tagCheck u v false else .go) with
      | .stall => .next (s.tagStall u g)
      | .fault => .next (s.slotFault u g v false)
      | .go =>
        let src := s.visitWord u v * 64 + x.vbytes
        let bank := bankOf src
        let runs := runsOf ((List.range d.esize).filter fun j => !d.tailByte x.pos j)
        if k.reqs.length + runs.length > 1024 then .next (s.creditStall u g)
        else if !s.bankWins u bank g rivals then .next (s.bankLoss u g bank)
        else
          let rr := (s.bankWin u bank g).bankRead u src d.esize ecc
          if rr.2 = false then .next rr.1
          else
            let s0 := rr.1
            let y := { x with pos := x.pos + 1, visit := v, vbytes := x.vbytes + d.esize }
            let addr := d.globalAddr x.pos
            let bs := s0.load .bin (u * 0x40000 + src) d.esize
            let sent := runs.foldl (fun (a : Except Nat (Option State)) p =>
              match a with
              | .ok (some t) =>
                let m := t.mu u
                let q : BinReq := ⟨m.nextReq, k.epoch, addr + p.1, p.2, src, v, false, x.pos, 1, (bs.drop p.1).take p.2, 0, none⟩
                (t.setMu u { m with nextReq := m.nextReq + 1 }).sendFlush u g q
              | r => r) (.ok (some s0))
            match sent with
            | .error e => .next (s0.streamRefused u e addr)
            | .ok none => .next (s0.creditStall u g)
            | .ok (some s1) =>
              .next (((s1.setGen u g { s1.gen u g with active := some y, st := 1, ttl := 0 }).closeVisit u g false).reapVisits u g false)

/-- FLUSH_ACK (R128, R130, R131): an acknowledgement or NACK returns its credit; one that carries a stale epoch does
nothing else; a detected error is repeated once, and a refusal or a lasting error faults the task. A target of this chip
that refused the write, or failed it, answers with that status. -/
def execFlushAck (unit : Fin 16896) (gen : Fin 4) (req : Nat) (epoch : BitVec 8) (res : Resp) (s : State) : Out :=
  let u := unit.val
  let g := gen.val
  let k := s.gen u g
  match k.reqs.find? (fun r => decide (r.id = req ∧ r.epoch = epoch ∧ r.data ≠ [])) with
  | none => .next s
  | some r =>
    if epoch ≠ k.epoch then .next (s.dropReq u g req)
    else
      let window := decide (r.nack = stProt ∨ r.nack = 0x0204)
      match (if r.nack = 0 then r.answer res else if window then .refused (BitVec.ofNat 16 r.nack) else .error) with
      | .error =>
        if r.repeated then .next (s.reqFailed u g r (if r.nack = 0 then 0x0201 else r.nack) sevLasting)
        else .next (s.repeatReq u g r)
      | .refused st => .next (s.reqFailed u g r st.toNat sevTransient)
      | _ =>
        let s0 := if r.repeated then s.raise ((errRec 0x0201 sevTransient 1 u 5).withAddr r.addr) else s
        .next ((s0.dropReq u g req).reapVisits u g false)

/-- EPOCH_REUSE_RELEASE (R126): once no request four or more epochs back is outstanding, issue resumes: the stream that waited
for it enters. -/
def execEpochReuseRelease (unit : Fin 16896) (gen : Fin 4) (s : State) : Out :=
  let k := s.gen unit gen
  if k.reqs.any fun r => decide (4 ≤ (k.epoch - r.epoch).toNat) then .next s
  else .next ((s.setGen unit gen { k with reuse := false }).enterHeldGen unit (s.tile (muInst unit)).epoch gen)

/-- TASK_ABORT (R131 to R133): the seeder acts on the oldest fault that has reached it from a plot; the first decides the
completion status. -/
def execTaskAbort (plot : Fin 16) (s : State) : Out :=
  let x := s.plot plot
  match x.faults with
  | [] => .next s
  | f :: fs => .next ((s.setPlot plot { x with faults := fs }).abortRun plot (BitVec.ofNat 8 f) (f / 256))

/-- The slot timeout of a bin in array cycles (Table 04.10): 2^TLOG2, where 0 means 20. -/
def State.slotLimit (s : State) (u : Nat) : Nat :=
  let n := s.rdF .MU_SLOTCTL u 0 4 0
  2 ^ (if n = 0 then 20 else n)

/-- SLOT_TIMEOUT (R140): one tag check has held its generator for 2^TLOG2 consecutive cycles. -/
def execSlotTimeout (unit : Fin 16896) (gen : Fin 4) (s : State) : Out :=
  let k := s.gen unit gen
  if k.st = 2 ∧ s.slotLimit unit ≤ k.ttl then
    .next ((s.setGen unit gen { k with st := 6, ttl := 0 }).taskFault (muInst unit) 0x0202 (errRec 0x0202 sevTransient 1 unit 0))
  else .next s

/-! ### Remote windows -/

/-- Status of a remote access to a bin, with a refusal dropped whole, counted and NACKed to its sender (R144, R145), whose
status is `rstat`; a protection refusal is recorded (R23). -/
def State.windowRefuse (s : State) (u off st : Nat) : State :=
  let s1 := { s.inc .MU_WIN_NACKS u 0 1 with rstat := st, rdata := 0 }
  if st = stProt then s1.raiseProt 1 u (s.binAddr u off) else s1

/-- REMOTE_WINDOW_ACCESS (R144 to R146): an accepted write waits to land; an accepted read wins its banks as requester 5, or
waits (R107, R108), and returns its bytes (in RDATA, low 8 first); a refused access is NACKed and counted. -/
def execRemoteWindowAccess (unit : Fin 16896) (sender : Sender) (win : Fin 8) (gen : BitVec 16) (off : BitVec 18) (acc : WinAcc)
    (rivals : List BankReq) (s : State) : Out :=
  let u := unit.val
  let o := off.toNat
  match acc with
  | .write bs =>
    let st := s.windowCheck u sender win gen.toNat o bs.length true
    if st ≠ 0 then .next (s.windowRefuse u o st)
    else .next { s.setMu u { s.mu u with wins := (s.mu u).wins ++ [⟨win, o, bs⟩] } with rstat := stOK }
  | .read n =>
    let st := s.windowCheck u sender win gen.toNat o n false
    if st ≠ 0 then .next (s.windowRefuse u o st)
    else
      match (banksOf o n).find? fun b => !s.bankWins u b 5 rivals with
      | some b => .next (s.inc .MU_CONFLICT u b 1)
      | none =>
        .next { s.banksWon u o n 5 with rstat := stOK, rdata := BitVec.ofNat 64 (bytesToNat (s.load .bin (u * 0x40000 + o) (min n 8))) }

/-- The oldest accepted writes of a bin land whole, bank by bank (R146): those of one window, or all for 8. -/
def landWins : Nat → State → Nat → Nat → State
  | 0, s, _, _ => s
  | n + 1, s, u, win =>
    match (s.mu u).wins with
    | [] => s
    | w :: ws =>
      let s1 := s.setMu u { s.mu u with wins := ws }
      let s2 := if w.win = win ∨ win = 8 then (s1.writeBin u w.off w.bytes).banksWon u w.off w.bytes.length 4
        else s1.setMu u { s1.mu u with wins := (s1.mu u).wins ++ [w] }
      landWins n s2 u win

/-- A write to MU_WINw (R146, R147): closing advances GEN and leaves the write waiting for the accepted writes of the
window; leaving OPEN at 1 changes nothing else. -/
def State.writeWin (s : State) (u w : Nat) (v : Word) (by_ : Nat) : State :=
  let old := s.rd .MU_WIN u w
  let m : Word := Reg.mask .MU_WIN [.RW]
  if bit old 63 then
    if bit v 63 then s
    else
      let nv := setFld ((v &&& m) ||| (old &&& ~~~m)) 47 32 (fld old 47 32 + 1)
      (s.wr .MU_WIN u w nv).setMu u { s.mu u with closing := (s.mu u).closing ++ [⟨w, by_⟩] }
  else s.wr .MU_WIN u w ((v &&& m) ||| (old &&& ~~~m))

/-- WINDOW_CLOSE_COMPLETE (R146): every write accepted before the close has landed and the closing write completes. -/
def execWindowCloseComplete (unit : Fin 16896) (win : Fin 8) (s : State) : Out :=
  let u := unit.val
  if (s.mu u).closing.any (·.win = win.val) then
    let s1 := landWins (s.mu u).wins.length s u win
    .next (s1.setMu u { s1.mu u with closing := (s1.mu u).closing.filter (·.win ≠ win.val) })
  else .next (landWins (s.mu u).wins.length s u win)

end Sys2Proof.Machine
end

