-- ==== Sys2Proof/Machine/Links.lean ====
section
/-!
DEFINITION. The commands of the links, joins, tokens and the cartway (chapter 05), of the clock crossings (R18), of seeds
and broadcast values reaching a thresher (R48, R75, R103) and of the section-wide flag word (R61).
-/
namespace Sys2Proof.Machine
open Sys2Proof

/-- Tokens of the injection queue leave on source 0x14 while its outputs hold credit (R170). -/
def drainInject : Nat → State → Nat → State
  | 0, s, _ => s
  | n + 1, s, inst =>
    match (s.tile inst).queue 34 with
    | [] => s
    | x :: xs =>
      if (s.outputsOf inst 0x14 ≠ [] ∨ s.joinQs inst 0x14 ≠ []) ∧ s.canSend inst 0x14 ∧ !(s.tile inst).aborting then
        drainInject n ((s.setTile inst { s.tile inst with queues := mput dNil (s.tile inst).queues 34 xs }).send inst 0x14 x.pay) inst
      else s

/-- LINK_TRANSFER (R153, R196): the oldest transfer of an origin output passes every pass-through unit of its epoch and
enters the queues where its route ends, as each stands when its unit holds that epoch too; an aborting unit discards it and
its credit goes home (R131). A single-bit error on the way is corrected and leaves no trace (R152). -/
def execLinkTransfer (inst : Fin 33792) (out : Fin 18) (s : State) : Out :=
  let i := inst.val
  let o := out.val
  let t := s.tile i
  match mget dNil t.flight o with
  | [] => .next s
  | x :: xs =>
    let r := s.routeOf i o
    if r.ends = [] ∨ ((r.thru ++ r.ends).any fun p => decide ((s.tile p.1).ep ≠ x.ep)) then .next s
    else
      let s1 := s.setTile i { t with flight := mput dNil t.flight o xs, owed := mput dNat t.owed x.seq r.ends.length }
      let s2 := if x.pay = .eos then
          r.thru.foldl (fun a p => a.setTile p.1 { a.tile p.1 with eosDone := (100 + p.2) :: (a.tile p.1).eosDone }) s1
        else s1
      let s3 := r.ends.foldl (fun a e =>
        let tok := r.toks.contains e || decide (e.2 = 17 ∨ e.2 = 31 ∨ e.2 = 33)
        let y := if tok then { x with pay := x.pay.asToken } else x
        let d := a.tile e.1
        if d.aborting then a.releaseCredit y
        else a.setTile e.1 { d with queues := mput dNil d.queues e.2 (d.queue e.2 ++ [y]) }) s2
      .next (s3.settleAt i)

/-- CREDIT_RETURN (R155): a credit reaches its origin output. -/
def execCreditReturn (inst : Fin 33792) (out : Fin 18) (s : State) : Out :=
  let t := s.tile inst
  let n := mget dNat t.credBack out
  if n = 0 then .next s
  else
    let s1 := (s.setTile inst { t with credBack := mput dNat t.credBack out (n - 1) }).wrF .LNK_CRED inst out 5 0 (s.credits inst out + 1)
    .next ((drainInject 8 s1 inst).settleAt inst)

/-- The origin outputs with a transfer on its way over a physical link, spare rows and die bridges included. -/
def State.onLink (s : State) (inst o : Nat) : List (Nat × Nat) :=
  s.arr.tiles.flatMap fun p => (p.2.flight.filter fun f => decide (f.2 ≠ []) && s.routeCrosses p.1 f.1 inst o).map fun f => (p.1, f.1)

/-- A plot's task has a route over a physical link: its epoch in the tile where such a route begins. -/
def State.taskOver (s : State) (p inst o : Nat) : Option Byte :=
  ((s.plotTiles p).find? fun i => (List.range 18).any fun k => decide (0x10 ≤ s.osel i k) && s.routeCrosses i k inst o).map
    fun i => (s.tile i).epoch

/-- A transfer that a lasting link error has destroyed: the oldest of its origin; its credit goes home. -/
def State.loseTransfer (s : State) (i o : Nat) : State :=
  let t := s.tile i
  match mget dNil t.flight o with
  | [] => s
  | x :: xs => (s.setTile i { t with flight := mput dNil t.flight o xs, owed := mput dNat t.owed x.seq 1 }).releaseCredit x

/-- LINK_RESEND (R152): the sending register sends a transfer once more from its replay store, which is the list of transfers
in flight (log entry 139). `again`: the resent transfer is uncorrectable too; it is lost, the link is fenced, and every task
with a route over it ends with LINK_FAULT. -/
def execLinkResend (inst : Fin 33792) (out : Fin 18) (again : Bool) (s : State) : Out :=
  let o := out.val
  match s.onLink inst o with
  | [] => .next s
  | w :: _ =>
    if o ≥ 12 then .next s
    else
      let s1 := s.inc .LNK_RETRIES inst 0 1
      let e := errRec 0x0302 (if again then sevLasting else sevTransient) 2 inst 4
      if again then
        let hit := (List.range 16).filterMap fun p => (s.taskOver p inst o).map fun ep => (p, ep)
        let s2 := (s1.loseTransfer w.1 w.2).fenceLink inst (o % 4) (o / 4) e
        .next (hit.foldl (fun a h => a.setPlot h.1 { a.plot h.1 with faults := (a.plot h.1).faults ++ [0x0302 * 256 + h.2.toNat] }) s2)
      else .next (s1.raise e)

/-- JOIN_PAIR (R164 to R168). -/
def execJoinPair (inst : Fin 33792) (join : Fin 2) (s : State) : Out :=
  let i := inst.val
  let j := join.val
  let t := s.tile i
  let dq := 30 + 2 * j
  let tq := 31 + 2 * j
  let spent := mget dNat t.jcount j
  let fault := Host.Outcome.next (s.taskFault i 0x0301 (errRec 0x0301 sevTransient 2 i 0))
  if !s.joinEn i j ∨ t.aborting then .next s
  else
    match t.head dq, t.head tq with
    | some .eos, some .eos =>
      if (List.range 4).all fun m => s.canSend i (0x18 + 4 * j + m) then
        let s1 := (s.popQ i dq).popQ i tq
        let s2 := (List.range 4).foldl (fun a m => a.send i (0x18 + 4 * j + m) .eos) s1
        .next ((drainInject 8 (s2.inc .LNK_JOIN_PAIRS i j 1) i).settleAt i)
      else .next (s.inc .LNK_CREDIT_STALL i 0 1)
    | none, some (.token k) => if k.getLsbD 15 then fault else .next s
    | some .eos, some (.token _) => fault
    | some _, some .eos => fault
    | some d, some (.token k) =>
      if k.getLsbD 15 then fault
      else
        let code := 0x18 + 4 * j + fld k 13 12
        let drop := k.getLsbD 14
        if !drop ∧ !s.canSend i code then .next (s.inc .LNK_CREDIT_STALL i 0 1)
        else
          let s1 := s.popQ i dq
          let s2 := if drop then s1.inc .LNK_JOIN_DROPS i j 1 else s1.send i code d
          let s3 := s2.inc .LNK_JOIN_PAIRS i j 1
          let fin := decide (spent = fld k 11 0)
          let s4 := if fin then s3.popQ i tq else s3
          let s5 := s4.setTile i { s4.tile i with jcount := mput dNat (s4.tile i).jcount j (if fin then 0 else spent + 1) }
          .next (drainInject 8 s5 i)
    | _, _ => .next s

/-- SIGNAL_TOKEN_AT_SINK (R169): the head of the signal sink is consumed; a SIGNAL token counts and records its value. -/
def execSignalTokenAtSink (inst : Fin 33792) (s : State) : Out :=
  match (s.tile inst).head 17 with
  | none => .next s
  | some p =>
    let s1 := s.popQ inst 17
    match p with
    | .token k =>
      if k.getLsbD 15 then .next ((s1.inc .LNK_SIGNALS inst 0 1).wr .LNK_LASTSIG inst 0 ((k.setWidth 64) &&& 0x7fff))
      else .next s1
    | _ => .next (s1.settleAt inst)

/-- Accept or refuse a token for a memory tile (R170): none while the injection queue is full. A tile that is being aborted
discards it like the rest of its input (R131). -/
def State.injectToken (s : State) (u : Nat) (sender : Sender) (token : BitVec 16) : Option (State × Nat) :=
  let inst := muInst u
  let t := s.tile inst
  if !s.senderOk u sender then some (s.raiseProt 1 u (s.binAddr u 0), stProt)
  else if t.aborting then some (s, stOK)
  else if (t.queue 34).length ≥ 8 then none
  else
    let s1 := s.setTile inst { t with queues := mput dNil t.queues 34 (t.queue 34 ++ [⟨.token token, t.ep, inst * 32 + 31, 0⟩]) }
    some (drainInject 8 s1 inst, stOK)

/-- TOKEN_INJECTION (R170): the status of the NACK, or 0, is `rstat`. -/
def execTokenInjection (unit : Fin 16896) (sender : Sender) (token : BitVec 16) (s : State) : Out :=
  match s.injectToken unit sender token with
  | some (t, st) => .next { t with rstat := st }
  | none => .next s

/-! ### Cartway packets -/

/-- Fields of a cartway header (Table 05.7). -/
def hdrType (h : BitVec 256) : Nat := fld h 255 252
def hdrClass (h : BitVec 256) : Nat := fld h 251 250
def hdrFlits (h : BitVec 256) : Nat := fld h 249 246
def hdrDst (h : BitVec 256) : Nat := fld h 239 224
def hdrSrc (h : BitVec 256) : Nat := fld h 223 208
def hdrSreq (h : BitVec 256) : Nat := fld h 207 204
def hdrTag (h : BitVec 256) : Nat := fld h 203 194
def hdrEpoch (h : BitVec 256) : Byte := BitVec.ofNat 8 (fld h 193 186)
def hdrCtx (h : BitVec 256) : Nat := fld h 185 181
def hdrWin (h : BitVec 256) : Nat := fld h 180 178
def hdrGen (h : BitVec 256) : Nat := fld h 177 162
def hdrAddr (h : BitVec 256) : Nat := fld h 161 102
def hdrBytes (h : BitVec 256) : Nat := fld h 101 94 + 1
def hdrStatus (h : BitVec 256) : Nat := fld h 93 78

/-- Responses are read data, acknowledgements and NACKs (R173). -/
def isResponse (h : BitVec 256) : Bool := [1, 3, 4, 8, 10].contains (hdrType h)

/-- Plane of a packet (R172, R173): a response travels on the plane of its request, whose address it carries. -/
def hdrPlane (h : BitVec 256) : Nat := hdrAddr h / 256 % 8

/-- Payload bytes of a packet, in address order (R174). -/
def CwPkt.bytes (k : CwPkt) : List Byte := ((k.pay.flatMap fun f => natToBytes 32 f.toNat)).take (hdrBytes k.hdr)

/-- Payload flits that hold bytes. -/
def flitsOf (bs : List Byte) : List (BitVec 256) :=
  (chunks 32 (ceilDiv bs.length 32) bs).map fun c => BitVec.ofNat 256 (bytesToNat c)

/-- The answer to a request packet (R173, R174): to its source, with its plane, requester, tag and epoch. -/
def replyTo (h : BitVec 256) (typ status : Nat) (bs : List Byte) : CwPkt :=
  let f := flitsOf bs
  let h1 : BitVec 256 := setFld (setFld (setFld (setFld (setFld h 255 252 typ) 249 246 f.length) 239 224 (hdrSrc h)) 223 208 (hdrDst h)) 93 78 status
  ⟨h1, f⟩

/-- Input of a node: 0 and 1 its local ports, 2 to 5 from the north, east, south and west (Table 05.8). -/
def cwKey (h : BitVec 256) (node input : Nat) : Nat := node * 128 + input * 16 + hdrPlane h * 2 + (isResponse h).toNat

/-- Packets in an input, oldest first. -/
def State.cwQueue (s : State) (key : Nat) : List CwPkt := mget dNil s.arr.cwy key
def State.setCwQueue (s : State) (key : Nat) (l : List CwPkt) : State := { s with arr := { s.arr with cwy := mput dNil s.arr.cwy key l } }

/-- Whether an input has room for a whole packet: 16 flits (R176). -/
def State.cwRoom (s : State) (key : Nat) (k : CwPkt) : Bool :=
  decide (((s.cwQueue key).map fun p => 1 + p.pay.length).foldl (· + ·) 0 + 1 + k.pay.length ≤ 16)

/-- Put a packet into an input. -/
def State.cwPush (s : State) (key : Nat) (k : CwPkt) : State := s.setCwQueue key (s.cwQueue key ++ [k])

/-! ### Crossings, seeds, broadcast values, flags -/

/-- Put an item into a crossing (R18). -/
def State.crossPut (s : State) (path : Nat) (x : CrossItem) : State :=
  { s with arr := { s.arr with cross := mput dNil s.arr.cross path (mget dNil s.arr.cross path ++ [x]) } }

/-- CROSSING_DELIVERY (R18, R19): the oldest item of a crossing is delivered in the destination domain. -/
def execCrossingDelivery (path : Fin 17) (s : State) : Out :=
  match mget dNil s.arr.cross path with
  | [] => .next s
  | x :: xs =>
    let s1 := { s with arr := { s.arr with cross := mput dNil s.arr.cross path xs } }
    match x with
    | .seed u v _ => .next { s1 with arr := { s1.arr with seeds := mput dNil s1.arr.seeds u (mget dNil s1.arr.seeds u ++ [v]) } }
    | .kval u i v t => .next { s1 with arr := { s1.arr with kwr := mput dNil s1.arr.kwr u (mget dNil s1.arr.kwr u ++ [.kval u i v t]) } }
    | .event c b => .next (s1.event c b)

/-- SR_SEED_WRITE (R48, R103): a written seed that has reached a thresher reseeds its lanes; in the cycle of a switch the
written value is loaded. -/
def execSrSeedWrite (unit : Fin 16896) (atSwitch : Bool) (s : State) : Out :=
  let u := unit.val
  match mget dNil s.arr.seeds u with
  | [] => .next s
  | v :: vs =>
    let s0 := if atSwitch then s.switchTile (cuInst u) else s
    let s1 := { s0 with arr := { s0.arr with seeds := mput dNil s0.arr.seeds u vs } }
    let k := s1.cu u
    .next ((s1.wr .CU_SR_SEED u 0 (v.setWidth 64)).setCu u { k with
      lfsr := (List.range 16).foldl (fun m l => mput lfsrDefault m l (lfsrLoad v l)) k.lfsr })

/-- Whether a BCAST still has a value on its way. -/
def State.bcastBusy (s : State) (tag : Nat) : Bool :=
  let mine := fun (x : CrossItem) => match x with
    | .kval _ _ _ t => decide (t = tag)
    | _ => false
  (s.arr.cross.any fun p => p.2.any mine) || (s.arr.kwr.any fun p => p.2.any mine)

/-- BROADCAST_WRITE_ARRIVAL (R75): a broadcast value lands in the staged bank, after the copy of a switch in the same
cycle; the BCAST completes when the last thresher holds its values (R235). -/
def execBroadcastWriteArrival (unit : Fin 16896) (atSwitch : Bool) (s : State) : Out :=
  let u := unit.val
  match mget dNil s.arr.kwr u with
  | .kval _ i v tag :: xs =>
    let s0 := if atSwitch then s.switchTile (cuInst u) else s
    let s1 := { s0 with arr := { s0.arr with kwr := mput dNil s0.arr.kwr u xs } }
    let k := s1.cu u
    let s2 := s1.setCu u { k with kStg := mput dW32 k.kStg i v }
    if s2.bcastBusy tag then .next s2
    else
      let c := tag / 65536
      let mat := (s2.core c).cmds.any fun m => decide (m.ticket = tag % 65536 ∧ m.words.head?.map (fun w => fld w 63 56) = some 9)
      .next (if mat then s2 else s2.complete ⟨c, tag % 65536⟩ 0 stOK none)
  | _ => .next s

/-- SECTION_FLAGS_VISIBLE (R61): the section-wide word appears once every thresher of the run has folded its flags. -/
def execSectionFlagsVisible (plot : Fin 16) (s : State) : Out :=
  let x := s.plot plot
  match x.runs with
  | r :: rs =>
    let all := ((s.plotTiles plot).filter fun i => decide (i % 2 = 0)).all fun i =>
      !(s.tile i).holds r.epoch &&
      (decide ((s.tile i).epoch ≠ r.epoch ∨ s.cuMode (i / 2) = 0 ∨ s.cuMode (i / 2) = 3) || r.folded.contains (i / 2))
    if r.flagMode ∧ !r.flagsSeen ∧ r.started ∧ all then
      let s1 := (s.setPlot plot { x with runs := { r with flagsSeen := true } :: rs }).wr .SEED_PLOT_FLAGS plot 0
        (BitVec.ofNat 64 (r.epoch.toNat * 2 ^ 32 + 256 + r.flags.toNat))
      .next (s1.settle plot)
    else .next s
  | [] => .next s

end Sys2Proof.Machine
end

