-- ==== Sys2Proof/Machine/Commands.lean ====
section
/-!
DEFINITION. The command unit of a binder (chapter 07): command entries (Tables 07.6 and 07.7), enqueueing (R230), the
checks before a command is sent (R236), the order of sending (R232), halting the queue (R237) and privilege levels
(Table 17.1).
-/
namespace Sys2Proof.Machine
open Sys2Proof

/-- Privilege level of an agent: 0, 1 or 2 (Table 17.1); a core in program mode with BND_CTX.PL 0 or 3 has none (3). -/
def State.pl (s : State) (w : Agent) : Nat :=
  match w with
  | .firmware => 0
  | .wicket => 0
  | .tray => 1
  | .func f => if f.val = 0 then 1 else 2
  | .core c =>
    if c.val < 4 ∨ (s.core c).monitor then 0
    else
      let p := s.rdF .BND_CTX c 0 63 62
      if p = 1 ∨ p = 2 then p else 3

/-- A core as a requester of the protection tables: never refused at PL0 (R268). -/
def State.coreWho (s : State) (c : Nat) : Who := if c < 4 ∨ (s.core c).monitor then .firmware else .core c

/-- Fields of a command entry (Table 07.6). -/
def Cmd.word (m : Cmd) (i : Nat) : Word := lget m.words i 0
def Cmd.code (m : Cmd) : Nat := fld (m.word 0) 63 56
def Cmd.flags (m : Cmd) : Nat := fld (m.word 0) 55 48
def Cmd.ref (m : Cmd) : Nat := fld (m.word 0) 47 32
def Cmd.eref (m : Cmd) : Bool := bit (m.word 0) 19
def Cmd.slice (m : Cmd) : Bool := bit (m.word 0) 16
def Cmd.ctx (m : Cmd) : Nat := fld (m.word 0) 15 12
/-- ARG0-ARG6. -/
def Cmd.arg (m : Cmd) (i : Nat) : Word := m.word (i + 1)

/-- Targets of Table 07.7: 0 seeder, 1 command unit, 2 riddle, 3 gleaner, 4 + logical bin, 20,000 + core. -/
def Cmd.target (m : Cmd) : Nat :=
  let c := m.code
  if c ≤ 4 ∨ c = 9 then 0
  else if c = 5 ∨ c = 6 then 4 + fld (m.arg 0) 13 0
  else if c = 7 then (if m.flags % 2 = 0 then 4 + fld (m.arg 0) 13 0 else 20000 + fld (m.arg 0) 5 0)
  else if c = 8 then 1
  else if c = 10 then 2
  else 3

/-- Whether a completion of a ticket can be read (R230). -/
def Core.readable (k : Core) (t : Nat) : Bool := k.cmds.any (·.ticket = t) || k.arriving.any (·.1 = t) || k.done.any (·.1 = t)

/-- The configuration epoch a ticket was assigned. -/
def Core.epochOf (k : Core) (t : Nat) : Byte :=
  match k.cmds.find? (·.ticket = t) with
  | some m => m.epoch
  | none =>
    match (k.arriving ++ k.done).find? (·.1 = t) with
    | some p => BitVec.ofNat 8 (fld p.2 39 32)
    | none => 0

/-- Defined flag bits of each command. -/
def flagMask (code : Nat) : Nat := lget [0, 3, 0, 0, 1, 1, 0, 1, 3, 0, 0, 1] code 0

/-- A malformed entry (R236): an undefined command, a nonzero bit that must be zero, an undefined flag or kind, the wrong
kind of context, or an EREF that names no LOAD or MATRIX still readable. -/
def Core.cmdBad (k : Core) (m : Cmd) : Bool :=
  let c := m.code
  let h := m.word 0
  decide (c = 0 ∨ c > 11 ∨ fld h 31 20 ≠ 0 ∨ fld h 18 17 ≠ 0 ∨ fld h 11 0 ≠ 0 ∨ m.flags > flagMask c) ||
  decide (c = 8 ∧ m.flags = 3) || decide (c = 1 ∧ fld (m.arg 1) 6 0 > 64) ||
  decide (m.slice ≠ decide (c = 10)) || (decide (c = 2) && !m.eref) ||
  (m.eref && !(k.readable m.ref && [1, 9].contains (mget dNat k.kinds m.ref)))

/-- The checks of R236 against BND_CTX. -/
def State.cmdDenied (s : State) (c : Nat) (m : Cmd) : Bool :=
  let x := s.rd .BND_CTX c 0
  let code := m.code
  if [1, 2, 3, 4, 9].contains code then !(bit x 15 && decide (fld x 11 8 = m.ctx))
  else if code = 5 ∨ code = 6 ∨ (code = 8 ∧ m.flags = 2) ∨ (code = 7 ∧ m.flags = 0) then !nbit (fld x 47 32) m.ctx
  else if code = 10 then !nbit (fld x 31 16) m.ctx
  else if code = 11 then !bit x 61
  else false

/-- Enqueue one entry (R229, R230, R237). The caller has checked the limit of 64. -/
def State.enqueue (s : State) (c : Nat) (ws : List Word) : State × Nat :=
  let k := s.core c
  let t := k.nextTicket
  let code := fld (lget ws 0 0) 63 56
  let k1 := { k with
    nextTicket := (t + 1) % 65536
    kinds := mput dNat k.kinds t code
    done := k.done.filter fun p => decide (p.1 ≠ (t + 65536 - 64) % 65536) }
  let k2 := if k.cqHalt then { k1 with done := k1.done ++ [(t, complWord t 0 0x0507 none)] }
    else { k1 with cmds := k1.cmds ++ [⟨t, ws, 0, 0, 0⟩] }
  ((s.setCore c k2).inc .BND_CMDS c 0 1, t)

/-- Replace a command of a core. -/
def State.setCmd (s : State) (c : Nat) (m : Cmd) : State :=
  let k := s.core c
  s.setCore c { k with cmds := k.cmds.map fun x => if x.ticket = m.ticket then m else x }

/-- Whether a command that assigns an epoch has it: a MATRIX once its load is taken (R232, R238). -/
def Cmd.settled (m : Cmd) : Bool := m.accepted && !(decide (m.code = 9) && decide (m.sub < 2))

/-- Whether every earlier command of the core to a command's target has been accepted (R232). -/
def Core.turn (k : Core) (m : Cmd) : Bool :=
  (k.cmds.takeWhile fun x => decide (x.ticket ≠ m.ticket)).all fun x => decide (x.target ≠ m.target) || x.settled

/-- The oldest command of this kind that has been sent and whose target may take it next (R232). -/
def Core.hand (k : Core) (p : Cmd → Bool) : Option Cmd :=
  k.cmds.find? fun m => decide (m.phase = 1) && p m && k.turn m

/-- The oldest command of a core with this code that its target may take next. -/
def State.inHand (s : State) (c code : Nat) : Option Cmd := (s.core c).hand fun m => decide (m.code = code)

/-- Complete a command. -/
def State.finish (s : State) (c : Nat) (m : Cmd) (status : Nat) : State := s.complete ⟨c, m.ticket⟩ m.epoch.toNat status none

/-- COMMAND_ACCEPT (R232, R236): the command unit sends the core's next command, in ticket order. It waits while a WAIT is not
complete, and under EREF until REF is accepted; a command that fails its check completes at once and halts the queue; otherwise
its target has it in hand, and takes it in its turn. -/
def execCommandAccept (core : Fin 64) (s : State) : Out :=
  let c := core.val
  let k := s.core c
  match k.cmds.find? (fun m => decide (m.phase = 0)) with
  | none => .next s
  | some m =>
    if k.cqHalt then .next s
    else
      let earlier := k.cmds.takeWhile fun x => decide (x.ticket ≠ m.ticket)
      let refWaits := m.eref && k.cmds.any fun x => decide (x.ticket = m.ref) && !x.settled
      if earlier.any (fun x => decide (x.code = 8)) ∨ (refWaits ∧ !k.cmdBad m) then .next s
      else if k.cmdBad m then .next ((s.finish c m 0x0505).haltQueue c m.ticket)
      else if s.cmdDenied c m then .next ((s.finish c m stProt).haltQueue c m.ticket)
      else .next (s.setCmd c { m with phase := 1, sub := s.time })

/-- ACCEPT_TIMEOUT (R237): the oldest command sent that its target has not accepted within 2^ACC_TLOG2 HUB cycles (log entry
146); it does not run for the seeder and the bins during a power hold (R485). -/
def execAcceptTimeout (core : Fin 64) (s : State) : Out :=
  let c := core.val
  match (s.core c).cmds.find? (fun m => decide (m.phase = 1) && !m.accepted) with
  | none => .next s
  | some m =>
    let held := s.pwr.hold && decide (m.target ≠ 1 ∧ m.target ≠ 2 ∧ m.target ≠ 3 ∧ m.target < 20000)
    if held then .next s else .next ((s.finish c m 0x0502).haltQueue c m.ticket)

/-- COMMAND_COMPLETION (R230, R231): the oldest completion on its way arrives, becomes readable unless its ticket + 64 has been
enqueued by then, and sets CC_EVT[0]; an AWAIT of its ticket ends. -/
def execCommandCompletion (core : Fin 64) (s : State) : Out :=
  let c := core.val
  let k := s.core c
  match k.arriving with
  | [] => .next s
  | p :: ps =>
    let late := decide (64 < (k.nextTicket + 65536 - p.1) % 65536)
    let k1 := { k with arriving := ps, done := if late then k.done else k.done ++ [p] }
    let s1 := s.setCore c k1
    let s2 := if k.state = .await ∧ k.awaitTicket = p.1 then s1.retire c fun k => k.setReg k.awaitReg p.2 else s1
    .next (s2.event c 1)

/-- CQ_RESUME (R237): writing 1 to BND_STATUS.CQ_HALT in monitor mode resumes the queue. -/
def State.cqResume (s : State) (c : Nat) : State :=
  let k := s.core c
  if k.monitor ∧ k.cqHalt then s.setCore c { k with cqHalt := false } else s

def execCqResume (core : Fin 64) (s : State) : Out := .next (s.cqResume core)

end Sys2Proof.Machine
end

