-- ==== Sys2Proof/Machine/Seeder.lean ====
section
/-!
DEFINITION. The seeder (chapter 06): loading and arming sheaves (R189, R190, R193), closing runs (R197), broadcasts
(R235), plot bounds (R200 to R202), remaps (R207), pre-emption (R208 to R212), interference windows (R215), and the
MATRIX command (R238).
-/
namespace Sys2Proof.Machine
open Sys2Proof

/-! ### Plots -/

/-- The newest epoch active in any unit of a plot that holds a configuration. -/
def State.newestEpoch (s : State) (p : Nat) : Byte :=
  let es := ((s.plotTiles p).filter fun i => decide ((s.tile i).active.record ≠ [])).map fun i => (s.tile i).epoch
  (es.find? fun e => !es.contains (e + 1)).getD (s.plot p).lastEpoch

/-- The oldest epoch active in any unit of a plot that holds a configuration. -/
def State.oldestEpoch (s : State) (p : Nat) : Byte :=
  let es := ((s.plotTiles p).filter fun i => decide ((s.tile i).active.record ≠ [])).map fun i => (s.tile i).epoch
  (es.find? fun e => !es.contains (e - 1)).getD (s.plot p).lastEpoch

/-- Whether some unit of a plot holds a configuration other than the idle one. -/
def State.plotConfigured (s : State) (p : Nat) : Bool := (s.plotTiles p).any fun i => decide ((s.tile i).active.record ≠ [])

/-- Whether an armed load waits for a thresher of the plot to switch. -/
def State.armedWaits (s : State) (p : Nat) : Bool :=
  let ts := (s.plotTiles p).filter (· % 2 = 0)
  (s.plot p).loads.any fun l => l.armed && ts.any fun i => (s.tile i).holds l.epoch

/-- Sheaf the plot will be running once its armed loads have switched in. -/
def Plot.lastSheaf (x : Plot) : Nat := (((x.loads.filter (·.armed)).getLast?).map LoadRec.sheaf).getD x.sheaf

/-! ### LOAD, ARM, CLOSE -/

/-- Live ranges of an image at cheap point `i`: logical bin, first word, words (Table 06.3). -/
def liveAt (img : List Byte) (i : Nat) : List (Nat × Nat × Nat) :=
  ((List.range (le img 0x14 4)).map fun k => le img 0x28 8 + 16 * k).filterMap fun o =>
    if nbit (le img (o + 8) 8) i then some (le img o 2, le img (o + 4) 2, le img (o + 6) 2 + 1) else none

/-- K_LIVE of cheap point `i`. -/
def kLiveAt (img : List Byte) (i : Nat) : Bool := nbit (le img (le img 0x30 8 + 16 * i + 8) 4) 0

/-- Read a whole sheaf for a plot: the header first, then TOTAL_BYTES (R186). A header that fails its check is answered
alone. -/
def State.readSheaf (s : State) (p addr : Nat) : Except Nat (List Byte) :=
  match s.fetch (.plot p) addr 4096 false with
  | .error e => .error e
  | .ok h => if (headerBad h).isSome then .ok h else s.fetch (.plot p) addr (le h 8 8) false

/-- Record a rejection (R189, Table 06.16): while VALID is 1 it goes only to the error ring. -/
def State.noteReject (s : State) (p : Nat) (f : LoadFault) : State :=
  let w : Word := setFld (setFld (setFld (setFld (setFld (setFld (setFld 0 63 63 1) 55 48 f.reason) 47 44 p) 30 29 f.pos.d)
    28 23 f.pos.row) 22 16 f.pos.col) 15 0 f.off
  let s1 := if bit (s.rd .SEED_LOAD_FAULT 0 0) 63 then s else s.wr .SEED_LOAD_FAULT 0 0 w
  s1.raise ((errRec 0x0401 sevTransient 3 p 0).withPlot p 0)

/-- Configuration of one logical tile under a sheaf; the idle configuration where it has no record (R187). -/
def Sheaf.cfg (h : Sheaf) (q : Pos) : TileCfg :=
  let r := h.record q
  let img := h.img
  if r = [] then { TileCfg.idle with srSeed := BitVec.ofNat 32 (le img 0x48 4), secId := BitVec.ofNat 64 (le img 0x50 8) }
  else
    { record := r
      depth := (List.range 18).map (h.depth q)
      srSeed := BitVec.ofNat 32 (le img 0x48 4)
      flagMode := nbit (le img 6 2) 0
      secId := BitVec.ofNat 64 (le img 0x50 8)
      kinit := if q.kind = 0 then (List.range 64).map fun k => BitVec.ofNat 32 (le img (0x100 + 4 * k) 4) else []
      writes := h.writes q }

/-- Send configurations towards the tiles of a plot. -/
def State.pushShadows (s : State) (p : Nat) (f : Pos → Shadow × Bool) : State :=
  let r := s.rd .SEED_REMAP 0 0
  let qs := (plotPos (s.rd .SEED_PLOT_BOUNDS p 0)).filter fun q => !withdrawn r q.d (q.col / 16)
  qs.foldl (fun a q =>
    let i := (logToPhys r q).inst
    a.setTile i { a.tile i with incoming := (a.tile i).incoming ++ [f q] }) s

/-- A run of a plot begins (R234). -/
def State.addRun (s : State) (p : Nat) (l : LoadRec) (cmd : CmdRef) : State :=
  let x := s.plot p
  (s.setPlot p { x with runs := x.runs ++
    [⟨l.epoch, cmd, 0, false, l.flagMode, false, 0, [], l.cp, l.sheaf, l.secId, false, l.live, l.kLive, false⟩] }).bindSave p

/-- How a load is taken. -/
inductive LoadRes where
  | wait
  | failed (t : State) (status : Nat)
  | taken (t : State) (epoch : Byte)
deriving DecidableEq, Repr

/-- The seeder takes a load (R189, R190, R193). It waits while the plot is held, restoring or aborting, or while an
unarmed load has not landed everywhere; a valid unarmed shadow is discarded first; a re-run of the active sheaf sends
the marker; anything else reads and checks the sheaf and sends a record or the idle configuration to every tile. -/
def State.takeLoad (s : State) (p : Nat) (cmd : CmdRef) (addr cp : Nat) (run rerun : Bool) : LoadRes :=
  let x := s.plot p
  if x.preStat ≠ 0 ∧ x.preStat ≠ 6 ∨ x.runs.any (·.status ≠ 0) ∨ x.loads.any (fun l => !l.armed && !l.valid) then .wait
  else
    let ep := x.lastEpoch + 1
    let mark := rerun && decide (addr = x.lastSheaf) && !x.remapped && s.plotConfigured p
    match s.readSheaf p addr with
    | .error e => .failed (s.noteRefusal e 3 p addr) e
    | .ok img =>
      let h := Sheaf.parse img
      match (if mark then none else h.check (s.rd .SEED_PLOT_BOUNDS p 0) (s.rd .SEED_REMAP 0 0)) with
      | some f => .failed (s.noteReject p f) 0x0401
      | none =>
        let sr := s.countAt addr img.length
        let s1 := if x.loads.any (fun l => !l.armed) then
            let s0 := (s.plotTiles p).foldl (fun a i =>
              let t := a.tile i
              match t.shadow with
              | some sh => if x.loads.any (fun l => !l.armed && decide (l.epoch = sh.epoch)) then a.setTile i { t with shadow := none } else a
              | none => a) sr
            s0.setPlot p { s0.plot p with loads := (s0.plot p).loads.filter (·.armed) }
          else sr
        let l : LoadRec :=
          { epoch := ep, cmd := cmd, sheaf := addr, cp := cp, armed := run, rerun := mark, valid := false
            flagMode := nbit (le img 6 2) 0, secId := BitVec.ofNat 64 (le img 0x50 8)
            live := if cp = 0 then [] else liveAt img (cp - 1), kLive := decide (cp ≠ 0) && kLiveAt img (cp - 1) }
        let s2 := s1.setPlot p { s1.plot p with
          lastEpoch := ep, loads := (s1.plot p).loads ++ [l], preStat := 0 }
        let s3 := s2.pushShadows p fun q => (⟨if mark then TileCfg.idle else h.cfg q, ep⟩, mark)
        .taken (if run then s3.addRun p l cmd else s3) ep

/-- LOAD (R189, R190). -/
def execLoad (core : Fin 64) (s : State) : Out :=
  let c := core.val
  match s.inHand c 1 with
  | none => .next s
  | some m =>
    match s.takeLoad m.ctx ⟨c, m.ticket⟩ (m.arg 0).toNat (fld (m.arg 1) 6 0) (decide (m.flags % 2 = 1)) (decide (m.flags ≥ 2)) with
    | .wait => .next s
    | .failed t e => .next (t.finish c m e)
    | .taken t e => .next (t.setCmd c { m with phase := 2, epoch := e })

/-- ARM (R234): the unarmed load REF names is armed and its run begins; a load that was replaced or discarded gives
NOT_RUN (R190). -/
def execArm (core : Fin 64) (s : State) : Out :=
  let c := core.val
  match s.inHand c 2 with
  | none => .next s
  | some m =>
    let x := s.plot m.ctx
    match x.loads.find? (fun l => decide (l.cmd = ⟨c, m.ref⟩)) with
    | none => .next (s.finish c m 0x0402)
    | some l =>
      if l.armed then .next (s.finish c m 0x0505)
      else
        let s1 := s.setPlot m.ctx { x with loads := x.loads.map fun y => if y.epoch = l.epoch then { y with armed := true } else y }
        .next ((s1.addRun m.ctx l ⟨c, m.ticket⟩).setCmd c { m with phase := 2, epoch := l.epoch })

/-- Close the run of a plot with this epoch. -/
def State.closeRun (s : State) (p : Nat) (e : Byte) : State :=
  let x := s.plot p
  (s.setPlot p { x with runs := x.runs.map fun r => if r.epoch = e then { r with closed := true } else r }).settle p

/-- CLOSE (R197). -/
def execClose (core : Fin 64) (s : State) : Out :=
  let c := core.val
  match s.inHand c 3 with
  | none => .next s
  | some m =>
    let e := if m.eref then (s.core c).epochOf m.ref else s.newestEpoch m.ctx
    .next ((s.closeRun m.ctx e).finish c { m with epoch := e } stOK)

/-- Whether a tile can take the oldest configuration on its way: its shadow slot is empty (R190) and no self-test runs there
(R503). -/
def State.canLand (s : State) (i : Nat) : Bool :=
  decide ((s.tile i).incoming ≠ [] ∧ (s.tile i).shadow = none ∧ ¬ (i % 2 = 0 ∧ mget dNat s.chf.tests (i / 2) ≠ 0))

/-- The last word of the oldest configuration on its way lands in an empty shadow slot (R190, R504); k0 to k63 of the sheaf go
to the staged bank of a thresher that holds a record. An unarmed load completes when the shadow is valid in every tile; so does
a LOAD without RUN that was armed meanwhile (Table 07.7). `lasting`: a word failed its check again after being rewritten, and
the tile is fenced. -/
def State.landShadow (s : State) (i p : Nat) (ecc : Ecc) : State :=
  let t := s.tile i
  match t.incoming with
  | x :: xs =>
      match ecc with
      | .lasting _ =>
        let s1 := s.fenceTile i (errRec 0x0E01 sevLasting 3 i 3)
        let pl := s1.plot p
        let mine := pl.loads.filter fun l => decide (l.epoch = x.1.epoch)
        let s2 := mine.foldl (fun a l =>
          let a1 := a.complete l.cmd l.epoch.toNat 0x0E01 none
          ((a1.plot p).runs.filter fun r => decide (r.epoch = l.epoch)).foldl
            (fun b r => b.complete r.cmd r.epoch.toNat 0x0E01 none) a1) s1
        match (s2.plot p).runs with
        | r :: _ => if r.epoch = x.1.epoch then
            (s2.setPlot p { s2.plot p with runs := (s2.plot p).runs.filter fun q => decide (q.epoch ≠ r.epoch) }).discardShadows p
          else s2.abortRun p r.epoch 0x0E01
        | [] => s2.discardShadows p
      | _ =>
        let e0 := errRec 0x0E01 (if ecc = .clean then sevCorrected else sevTransient) 3 i 3
        let s0 := match ecc with
          | .clean => s
          | .corrected _ => s.raiseCE .CHF_CE_CFG { e0 with sev := sevCorrected }
          | _ => s.raise e0
        let sh : Shadow := if x.2 then { x.1 with cfg := t.active } else x.1
        let s1 := s0.setTile i { s0.tile i with shadow := some sh, incoming := xs, cfgLeft := [] }
        let s2 := if i % 2 = 0 ∧ !x.2 ∧ sh.cfg.record ≠ [] then
            let k := s1.cu (i / 2)
            s1.setCu (i / 2) { k with kStg := ((List.range 64).foldl (fun m j => mput dW32 m j (lget sh.cfg.kinit j 0)) k.kStg) }
          else s1
        let all := (s2.plotTiles p).all fun j => (s2.tile j).incoming.all fun y => decide (y.1.epoch ≠ sh.epoch)
        if all then
          let pl := s2.plot p
          let s3 := s2.setPlot p { pl with loads := pl.loads.map fun l => if l.epoch = sh.epoch then { l with valid := true } else l }
          (pl.loads.filter fun l => decide (l.epoch = sh.epoch) && !(pl.runs.any fun r => decide (r.cmd = l.cmd))).foldl
            (fun a l => a.complete l.cmd l.epoch.toNat stOK none) s3
        else s2
  | [] => s

/-- Slots of the configuration plane's ring (Tables 06.14 and 06.15). -/
def State.cfgRing (s : State) : List Nat :=
  (List.range (s.rdF .SEED_CTL 0 0 23 16)).map fun j => s.rdF .SEED_CFG_RING (j / 16) 0 (j % 16 * 4 + 3) (j % 16 * 4)

/-- Whether a plot asks for the configuration plane: a configuration of it can land. -/
def State.cfgAsks (s : State) (p : Nat) : Bool := (s.plotTiles p).any fun i => s.canLand i && decide ((s.tile i).cfgLeft = [])

/-- SHADOW_LOAD_COMPLETE (R190 to R192): the configuration that lands is of the plot that the plane's ring grants among those
that ask. While the plane is granted to another plot, CWY_ASSIST sends a memory tile's record over the cartway in eight packets
of 256 bytes instead; they land by CARTWAY_PACKET_ARRIVAL. -/
def execShadowLoadComplete (inst : Fin 33792) (ecc : Ecc) (s : State) : Out :=
  let i := inst.val
  let t := s.tile i
  match s.plotOf i with
  | none => .next s
  | some p =>
    if !s.canLand i ∨ t.cfgLeft ≠ [] then .next s
    else
      let ring := s.cfgRing
      match ringGrant ring s.arr.cfgPtr s.cfgAsks with
      | none => .next s
      | some j =>
        if ring[j]? = some p then .next (({ s with arr := { s.arr with cfgPtr := (j + 1) % ring.length } }).landShadow i p ecc)
        else if s.rdF .SEED_CTL 0 0 8 8 = 1 ∧ i % 2 = 1 ∧ (t.incoming.head?.any fun x => decide (x.1.cfg.record ≠ [])) then
          .next (s.setTile i { t with cfgLeft := List.range 8 })
        else .next s

/-- Whether an armed shadow is all a tile waits for. -/
def State.cfgWaits (s : State) (p inst : Nat) : Bool := s.tileDone inst && !s.shadowArmed p inst && !s.preHeld p inst

/-- TILE_SWITCH (R194): the tile switches if its conditions hold; a tile that lacks only an armed shadow counts in
SEED_PLOT_CFGWAIT. -/
def execTileSwitch (inst : Fin 33792) (s : State) : Out :=
  match s.plotOf inst with
  | none => .next s
  | some p => .next (if s.cfgWaits p inst then s.inc .SEED_PLOT_CFGWAIT p 0 1 else s.switchTile inst)

/-- The mark in `eosSent` of the token injection's end of section. -/
def injectDone : Nat := 200

/-- Whether a generator of a bin still holds a READ for output `o`. -/
def State.readPending (s : State) (u o : Nat) : Bool :=
  (List.range 4).any fun g =>
    let k := s.gen u g
    (k.active.toList ++ k.queued.toList ++ (if s.heldNow u g then (k.held.map (·.1)).toList else [])).any fun x =>
      let d : Desc := x.desc
      decide (d.kind = 0 ∧ d.out = o)

/-- Whether a generator of a bin still holds a READ. -/
def State.readAny (s : State) (u : Nat) : Bool := (List.range 8).any (s.readPending u)

/-- BIN_SEND_EOS (R197): after the close marker of its run a bin sends end of section on each route it originates whose
generators are idle; that of its token injection goes on every branch of the fork at once (R160). -/
def execBinSendEos (unit : Fin 16896) (s : State) : Out :=
  let u := unit.val
  let i := muInst u
  let t := s.tile i
  match s.plotOf i with
  | none => .next s
  | some p =>
    if t.aborting ∨ !((s.plot p).runs.any fun r => decide (r.epoch = t.epoch) && r.closed) then .next s
    else
      let s1 := (s.outputsOf i 0x10).foldl (fun a o =>
        let x := a.tile i
        if !a.readPending u o ∧ !x.eosSent.contains o ∧ a.credits i o > 0 then
          (a.setTile i { x with eosSent := o :: x.eosSent }).sendOn i o .eos
        else a) s
      let s2 := (s1.joinQs i 0x10).foldl (fun b q =>
        let x := b.tile i
        if !b.readAny u ∧ !x.eosSent.contains (100 + q) ∧ (x.queue q).length < 8 then
          (b.setTile i { x with eosSent := (100 + q) :: x.eosSent }).sendJoin i q .eos
        else b) s1
      let x := s2.tile i
      let injects := decide (s2.outputsOf i 0x14 ≠ [] ∨ s2.joinQs i 0x14 ≠ [])
      .next (if injects ∧ x.queue 34 = [] ∧ !x.eosSent.contains injectDone ∧ s2.canSend i 0x14 then
        (s2.setTile i { x with eosSent := injectDone :: x.eosSent }).send i 0x14 .eos
      else s2)

/-- ABORT_DRAIN_COMPLETE (R199). -/
def execAbortDrainComplete (plot : Fin 16) (s : State) : Out := .next (s.finishAbort plot)

/-! ### Broadcast and MATRIX -/

/-- A control SRAM address of a command argument: space 0x8, within 32 MiB. -/
def sramAddr (a : Word) (n : Nat) : Option Nat :=
  if fld a 63 60 = 8 ∧ fld a 59 25 = 0 ∧ fld a 24 0 + n ≤ 2 ^ 25 then some (fld a 24 0) else none

/-- Send k values towards every thresher of a plot (R235). -/
def State.bcastSend (s : State) (p tag first : Nat) (vs : List Word32) : State :=
  ((s.plotTiles p).filter (· % 2 = 0)).foldl (fun a i =>
    (List.range vs.length).foldl (fun b k => b.crossPut 0 (.kval (i / 2) (first + k) (lget vs k 0) tag)) a) s

/-- BCAST (R235). -/
def execBcast (core : Fin 64) (s : State) : Out :=
  let c := core.val
  match s.inHand c 4 with
  | none => .next s
  | some m =>
    let first := fld (m.arg 0) 5 0
    let n := fld (m.arg 0) 14 8
    let inl := decide (m.flags = 1)
    let src := sramAddr (m.arg 1) (4 * n)
    if n = 0 ∨ n > 64 ∨ first + n > 64 ∨ (inl ∧ n > 12) ∨ (!inl ∧ src = none) then .next (s.finish c m 0x0505)
    else if s.armedWaits m.ctx then .next s
    else
      let vs := (List.range n).map fun k =>
        if inl then BitVec.ofNat 32 (fld (m.arg (1 + k / 2)) (k % 2 * 32 + 31) (k % 2 * 32))
        else BitVec.ofNat 32 (s.loadNat .csram (src.getD 0 + 4 * k) 4)
      let tag := c * 65536 + m.ticket
      let s1 := (s.bcastSend m.ctx tag first vs).setCmd c { m with phase := 2 }
      .next (if s1.bcastBusy tag then s1 else s1.finish c m stOK)

/-- How an issue is taken (R233). -/
inductive IssueRes where
  | wait
  | failed (t : State) (status : Nat)
  | taken (t : State)
deriving DecidableEq, Repr

/-- A bin takes an issue (R233): a stream enters its generator under the active epoch, is held for the armed shadow, and
is stale under any other; a generator without room, or held for epoch reuse, does not accept; a run being aborted takes
no more streams, and answers NOT_RUN (log entry 138). -/
def State.takeIssue (s : State) (p lbin g idx : Nat) (ep : Option Byte) (addr : Option Nat) (cmd : CmdRef) : IssueRes :=
  match unitOfLbin (s.rd .SEED_REMAP 0 0) lbin with
  | none => .failed s stProt
  | some u =>
    let i := muInst u
    let t := s.tile i
    let k := s.gen u g
    let e := ep.getD t.epoch
    let fix := fun (d : Desc) => match addr with
      | some a => setFld d 59 0 a
      | none => d
    if s.plotOf i ≠ some p then .failed s stProt
    else if e = t.epoch then
      if t.aborting ∨ t.drained then .failed s 0x0402
      else if k.reuse ∨ k.full ∨ s.heldNow u g then .wait
      else
        let d := fix (t.active.desc idx)
        if s.descBad u g d then .failed s 0x0205 else .taken (s.enterStream u g (Stream.start d (some cmd)))
    else if (s.plot p).loads.any fun l => decide (l.epoch = e) && l.armed then
      match t.shadow with
      | none => .wait
      | some sh =>
        if sh.epoch ≠ e ∨ k.held ≠ none then .wait
        else .taken (s.setGen u g { k with held := some (Stream.start (fix (sh.cfg.desc idx)) (some cmd), e) })
    else .failed s 0x0504

/-- ISSUE (R233). -/
def execIssue (core : Fin 64) (s : State) : Out :=
  let c := core.val
  match s.inHand c 5 with
  | none => .next s
  | some m =>
    let a := m.arg 0
    let ep := if m.eref then some ((s.core c).epochOf m.ref) else none
    let lb := fld a 13 0
    let ea := ((unitOfLbin (s.rd .SEED_REMAP 0 0) lb).map fun u => (s.tile (muInst u)).epoch).getD 0
    let m1 := { m with phase := 2, epoch := ep.getD ea }
    match s.takeIssue m.ctx lb (fld a 17 16) (fld a 23 20) ep
      (if m.flags = 1 then some (fld (m.arg 1) 59 0) else none) ⟨c, m.ticket⟩ with
    | .wait => .next s
    | .failed t e => .next (t.finish c m1 e)
    | .taken t => .next (t.setCmd c m1)

/-- The 64-bit word at offset `o` of a template in control SRAM. -/
def State.tmplWord (s : State) (t o : Nat) : Word := BitVec.ofNat 64 (s.loadNat .csram (t + o) 8)

/-- A malformed MATRIX command or template (Table 07.9). -/
def State.matrixBad (s : State) (m : Cmd) (t : Nat) : Bool :=
  let h := s.tmplWord t 8
  let slots := (List.range (fld h 19 16)).map fun j => s.tmplWord t (0x10 + 16 * j)
  decide (t % 64 ≠ 0 ∨ fld (m.arg 5) 15 0 = 0 ∨ fld (m.arg 5) 31 16 = 0 ∨ fld h 19 16 = 0 ∨ fld h 7 6 ≠ 0 ∨
    fld h 15 14 ≠ 0 ∨ fld h 63 20 ≠ 0) ||
  slots.any fun w => decide (fld w 15 14 ≠ 0 ∨ fld w 19 18 ≠ 0 ∨ fld w 63 27 ≠ 0 ∨ fld w 26 24 > 4)

/-- The oldest MATRIX command of a core that its target has in hand or has begun and not finished feeding. -/
def State.matrixInHand (s : State) (c : Nat) : Option Cmd :=
  let k := s.core c
  k.cmds.find? fun m => decide (m.code = 9) && (decide (m.phase = 1) && k.turn m || decide (m.phase = 2 ∧ m.sub < 100))

/-- One step of MATRIX (R238). Step 0 broadcasts KB and MT, step 1 loads and runs the section, step 2 + j issues stream
slot j, and the last step closes the run; a failing step gives the command its status and halts the queue. -/
def execMatrix (core : Fin 64) (s : State) : Out :=
  let c := core.val
  match s.matrixInHand c with
  | none => .next s
  | some m =>
    let p := m.ctx
    let cmd : CmdRef := ⟨c, m.ticket⟩
    let tag := c * 65536 + m.ticket
    let stop := fun (t : State) (e : Nat) => Host.Outcome.next ((t.finish c m e).haltQueue c m.ticket)
    match sramAddr (m.arg 0) 256 with
    | none => stop s 0x0505
    | some t =>
      let h := s.tmplWord t 8
      let n := fld h 19 16
      let step := if m.phase = 1 then 0 else m.sub
      if s.matrixBad m t then stop s 0x0505
      else if step = 0 then
        if s.armedWaits p then .next s
        else
          let s1 := s.bcastSend p tag (fld h 5 0) [BitVec.ofNat 32 (fld (m.arg 5) 15 0)]
          let s2 := s1.bcastSend p tag (fld h 13 8) [BitVec.ofNat 32 (fld (m.arg 5) 31 16)]
          .next (s2.setCmd c { m with phase := 2, sub := 1 })
      else if step = 1 then
        if s.bcastBusy tag then .next s
        else
          match s.takeLoad p cmd (s.tmplWord t 0).toNat 0 true true with
          | .wait => .next s
          | .failed x e => stop x e
          | .taken x e => .next (x.setCmd c { m with sub := 2, epoch := e })
      else if step < 2 + n then
        let j := step - 2
        let w := s.tmplWord t (0x10 + 16 * j)
        let bsel := fld w 26 24
        let base := fld (m.arg bsel) 59 0
        let addr := ((base : Int) + sfld (s.tmplWord t (0x18 + 16 * j)) 63 0).emod (2 ^ 60 : Int) |>.toNat
        match s.takeIssue p (fld w 13 0) (fld w 17 16) (fld w 23 20) (some m.epoch)
          (if bsel = 0 then none else some addr) ⟨64 + c, m.ticket⟩ with
        | .wait => .next s
        | .failed x e => stop x e
        | .taken x => .next (x.setCmd c { m with sub := step + 1 })
      else .next ((s.setCmd c { m with sub := 100 }).closeRun p m.epoch)

/-! ### Bounds and remaps -/

/-- Whether two bounds share a tile (R201). -/
def boundsMeet (a b : Word) : Bool :=
  (List.range 4).any fun d =>
    let x := nbits a.toNat (16 * d + 15) (16 * d)
    let y := nbits b.toNat (16 * d + 15) (16 * d)
    decide (Nat.land (x / 256) (y / 256) ≠ 0 ∧ max (x % 16) (y % 16) ≤ min (x / 16 % 16) (y / 16 % 16))

/-- Whether a bounds value is one R201 refuses for a plot. -/
def State.boundsBad (s : State) (p : Nat) (v : Word) : Bool :=
  ((List.range 4).any fun d =>
    let x := nbits v.toNat (16 * d + 15) (16 * d)
    decide (x / 256 ≠ 0 ∧ x % 16 > x / 16 % 16)) ||
  (List.range 16).any fun q => decide (q ≠ p) && boundsMeet v (s.rd .SEED_PLOT_BOUNDS q 0)

/-- Tiles that a plot loses with new bounds. -/
def State.boundsLost (s : State) (p : Nat) (v : Word) : List Nat :=
  let r := s.rd .SEED_REMAP 0 0
  ((plotPos (s.rd .SEED_PLOT_BOUNDS p 0)).filter fun q => !inBounds v q).map fun q => (logToPhys r q).inst

/-- Whether the plot holds an active or shadow configuration in a tile it loses (R202). -/
def State.boundsHeld (s : State) (p : Nat) (v : Word) : Bool :=
  (s.boundsLost p v).any fun i => decide ((s.tile i).active.record ≠ [] ∨ (s.tile i).shadow ≠ none ∨ (s.tile i).incoming ≠ [])

/-- Write a plot's bounds (R202), the plot's task having been aborted where it had to be: removed tiles take the idle
configuration. -/
def State.boundsWrite (s : State) (p : Nat) (v : Word) : State :=
  let held := s.boundsHeld p v
  let s1 := if held then s.abortAll p stProt else s
  let s2 := (s.boundsLost p v).foldl (fun a i => a.makeIdle i) s1
  (s2.setPlot p { s2.plot p with remapped := (s2.plot p).remapped || held }).wr .SEED_PLOT_BOUNDS p 0 v

/-- Whether a plot no longer stands in the way of a remap: saved, aborted by REMAP_FORCED, or without bounds. -/
def State.remapReady (s : State) (p : Nat) : Bool :=
  let x := s.plot p
  !x.remapPending || decide (x.preStat = 6) || (x.forced && decide (x.runs = [])) || decide (s.rd .SEED_PLOT_BOUNDS p 0 = 0)

/-- REMAP_APPLY (R207): once every affected plot is saved or aborted, SEED_REMAP takes the value the fence map implies,
tiles of the affected plots hold the idle configuration, and saved plots begin their restore. -/
def execRemapApply (s : State) : Out :=
  let v := s.remapTarget
  let ps := (List.range 16).filter fun p => (s.plot p).remapPending
  if ((List.range 16).all s.remapReady && (decide (v ≠ s.rd .SEED_REMAP 0 0) || decide (ps ≠ []))) = false then .next s
  else
    let s1 := ps.foldl (fun a p => (a.plotTiles p).foldl (fun b i => b.makeIdle i) a) s
    let s2 := s1.wr .SEED_REMAP 0 0 v
    let s3 := ps.foldl (fun a p => (a.plotTiles p).foldl (fun b i => b.makeIdle i) a) s2
    .next (ps.foldl (fun a p =>
      let x := a.plot p
      let saved := decide (x.preStat = 6 ∧ x.deadline = 0)
      a.setPlot p { x with remapPending := false, forced := false, remapped := true, preStat := if saved then 7 else 0 }) s3)

/-- REMAP_FORCED (R207): a plot that reached no cheap point in time, or has no save area, is aborted. -/
def execRemapForced (plot : Fin 16) (s : State) : Out :=
  let p := plot.val
  let x := s.plot p
  if x.remapPending ∧ x.preStat = 0 ∧ x.ended = none ∧ !x.forced then
    let s1 := (s.setPlot p { x with forced := true, bound := none, ended := none, pstatus := 0x0404 }).abortAll p 0x0404
    .next (s1.raise ((errRec 0x0404 sevTransient 3 p 0).withPlot p 0))
  else .next s

/-! ### Pre-emption -/

/-- A save request reaches the seeder (R208). -/
def State.preSave (s : State) (p deadline : Nat) : State :=
  (s.setPlot p { s.plot p with pre := 1, deadline := deadline, bound := none, ended := none }).bindSave p

/-- A save request not yet bound to a held plot is withdrawn (Table 06.10). -/
def State.preWithdraw (s : State) (p : Nat) : State :=
  let x := s.plot p
  if x.pre = 1 ∧ x.preStat = 0 then
    (s.setPlot p { x with pre := 0, bound := none, ended := none }).wrF .SEED_PLOT_PREEMPT p 0 63 63 0
  else s

/-- Bytes of live ranges in table order, each contiguous; none when a logical bin is unmapped. -/
def State.readRanges (s : State) : List (Nat × Nat × Nat) → Option (List Byte)
  | [] => some []
  | r :: rs =>
    match unitOfLbin (s.rd .SEED_REMAP 0 0) r.1, s.readRanges rs with
    | some u, some bs => some (s.load .bin (u * 0x40000 + 64 * r.2.1) (64 * r.2.2) ++ bs)
    | _, _ => none

/-- Write bytes back into live ranges. -/
def State.writeRanges : State → List (Nat × Nat × Nat) → List Byte → State
  | s, [], _ => s
  | s, r :: rs, bs =>
    match unitOfLbin (s.rd .SEED_REMAP 0 0) r.1 with
    | some u => (s.writeBin u (64 * r.2.1) (bs.take (64 * r.2.2))).writeRanges rs (bs.drop (64 * r.2.2))
    | none => s.writeRanges rs (bs.drop (64 * r.2.2))

/-- The staged k bank of a plot: that of its first thresher (log entry 62). -/
def State.kBank (s : State) (p : Nat) : List Byte :=
  match (s.plotTiles p).find? (· % 2 = 0) with
  | some i => (List.range 64).flatMap fun k => natToBytes 4 (mget dW32 (s.cu (i / 2)).kStg k).toNat
  | none => List.replicate 256 0

/-- The 32-byte header of a save area (Table 06.8): plot, cheap point, section, epoch, saved bytes (log entry 63). -/
def saveHeader (p cp : Nat) (sec : Word) (ep : Byte) (n : Nat) : List Byte :=
  natToBytes 4 p ++ natToBytes 4 cp ++ natToBytes 8 sec.toNat ++ natToBytes 8 ep.toNat ++ natToBytes 8 n

/-- A save area's image: header, digest, k bank, ranges (Table 06.8). -/
def saveImage (hdr kb data : List Byte) : List Byte :=
  let tail := kb ++ List.replicate (0xFF00 - kb.length) 0 ++ data
  hdr ++ sha256 (hdr ++ tail) ++ List.replicate 0xC0 0 ++ tail

/-- PLOT_HELD_SAVE (R209 steps 1 and 2): the bound run has ended, every unit stands at its end and no cartway request of the plot
is outstanding; the shadows are discarded and the save area is written. -/
def execPlotHeldSave (plot : Fin 16) (s : State) : Out :=
  let p := plot.val
  let x := s.plot p
  match x.ended with
  | none => .next s
  | some r =>
      let e := r.epoch
      let held := (s.plotTiles p).all fun i =>
        decide ((s.tile i).epoch = e) && s.tileDone i &&
        (decide (i % 2 = 0) || (List.range 4).all fun g => decide ((s.gen (i / 2) g).reqs = []))
      if !held ∨ x.preStat ≠ 0 then .next s
      else
        let s1 := s.discardShadows p
        match s1.readRanges r.live with
        | none => .next (s1.preEnd p stProt)
        | some data =>
          let kb := if r.kLive then s1.kBank p else []
          let img := saveImage (saveHeader p (r.cp - 1) r.secId e data.length) kb data
          if img.length > s1.areaSize p then .next (s1.preEnd p stProt)
          else
            match s1.put (.plot p) (s1.areaBase p) img false with
            | .error st => .next ((s1.noteRefusal st 3 p (s1.areaBase p)).preEnd p st)
            | .ok s2 => .next (s2.setPlot p { s2.plot p with preStat := 5, pre := if x.pre = 1 then 2 else 0, sheaf := r.sheaf })

/-- SAVE_COMPLETE (R209 steps 3 and 4, R210): the tiles take the idle configuration and the request completes. A save for
a remap stays saved until the remap is applied. -/
def execSaveComplete (plot : Fin 16) (s : State) : Out :=
  let p := plot.val
  let x := s.plot p
  if x.preStat = 5 then
    let s1 := (s.plotTiles p).foldl (fun a i => a.makeIdle i) s
    let s2 := s1.setPlot p { s1.plot p with preStat := 6, pre := 0, bound := none, ended := none, pstatus := stOK, remapped := true, deadline := if x.pre = 2 then 1 else 0 }
    .next (if x.pre = 2 then s2.wrF .SEED_PLOT_PREEMPT p 0 63 63 0 else s2)
  else .next s

/-- A plot that is idle: no run, no load on its way, only idle configurations. -/
def State.plotIdle (s : State) (p : Nat) : Bool :=
  decide ((s.plot p).runs = [] ∧ (s.plot p).loads = []) && !s.plotConfigured p

/-- What a save area holds: its live ranges and k bank, when its header, digest and ranges are good (R212). The ranges
are those of the sheaf the plot last ran (log entry 64). -/
def State.areaContent (s : State) (p : Nat) : Option (List (Nat × Nat × Nat) × Option (List Byte) × List Byte) :=
  let b := s.areaBase p
  match s.fetch (.plot p) b 0x10000 false, s.readSheaf p (s.plot p).sheaf with
  | .ok h, .ok img =>
    let n := le h 24 8
    let i := le h 4 4
    let rs := liveAt img i
    if (headerBad img).isSome ∨ le h 0 4 ≠ p ∨ i ≥ le img 0x18 2 ∨ le h 8 8 ≠ le img 0x50 8 ∨ n ≠ liveBytes rs then none
    else
      match s.fetch (.plot p) (b + 0x10000) n false with
      | .error _ => none
      | .ok data =>
        let ok := (sha256 (h.take 32 ++ h.drop 0x100 ++ data) == (h.drop 32).take 32) &&
          rs.all fun r => inBounds (s.rd .SEED_PLOT_BOUNDS p 0) (posOfLbin r.1)
        if ok then some (rs, if kLiveAt img i then some ((h.drop 0x100).take 256) else none, data) else none
  | _, _ => none

/-- A restore request reaches the seeder (R212): it is refused unless the plot is idle, the area is good and its ranges
lie in the bounds. -/
def State.preRestore (s : State) (p : Nat) : State :=
  if s.plotIdle p && (s.areaContent p).isSome then s.setPlot p { s.plot p with pre := 3, preStat := 7 }
  else (s.noteReads 3 p [(.plot p, s.areaBase p, 0x10000)] false).preEnd p 0x0405

/-- RESTORE_COMPLETE (R212): the ranges and the k bank are written back and the request completes. -/
def execRestoreComplete (plot : Fin 16) (s : State) : Out :=
  let p := plot.val
  if (s.plot p).preStat ≠ 7 then .next s
  else
    match s.areaContent p with
    | none => .next (s.preEnd p 0x0405)
    | some (rs, kb, data) =>
      let s1 := (s.countAt (s.areaBase p) (0x10000 + data.length)).writeRanges rs data
      let s2 := match kb with
        | none => s1
        | some b => ((s1.plotTiles p).filter (· % 2 = 0)).foldl (fun a i =>
            let k := a.cu (i / 2)
            a.setCu (i / 2) { k with kStg := (List.range 64).foldl (fun m j => mput dW32 m j (BitVec.ofNat 32 (le b (4 * j) 4))) k.kStg }) s1
      .next (s2.preEnd p stOK)

/-- PREEMPT_FORCED (R211): the deadline has passed and the bound run has not ended. -/
def execPreemptForced (plot : Fin 16) (s : State) : Out :=
  let p := plot.val
  let x := s.plot p
  if x.pre = 1 ∧ x.deadline ≠ 0 ∧ x.preStat = 0 ∧ x.ended = none then
    let s1 := s.preEnd p 0x0403
    .next ((s1.abortAll p 0x0201).raise ((errRec 0x0403 sevTransient 3 p 0).withPlot p 0))
  else .next s

/-- A write to SEED_PLOT_PREEMPT (Table 06.10): ignored while GO is 1 unless OP is 3. -/
def State.preemptWrite (s : State) (p : Nat) (v : Word) : State :=
  let op := fld v 59 58
  let go := bit v 63
  let busy := bit (s.rd .SEED_PLOT_PREEMPT p 0) 63
  if busy then (if go ∧ op = 3 then s.preWithdraw p else s)
  else
    let s1 := s.wr .SEED_PLOT_PREEMPT p 0 (setFld v 63 63 (if go ∧ (op = 1 ∨ op = 2) then 1 else 0) &&& 0x8C000000FFFFFFFF)
    if !go then s1 else if op = 1 then s1.preSave p (fld v 31 0) else if op = 2 then s1.preRestore p else s1

/-! ### Interference -/

/-- Counters of Table 06.12 that a window compares. -/
def intfRegs : List Reg :=
  [.SEED_PLOT_RUNCYC, .SEED_PLOT_STALL_SILO, .SEED_PLOT_STALL_CWY, .SEED_PLOT_STALL_GRN, .SEED_PLOT_STALL_HAY, .SEED_PLOT_STALL_WIN]

/-- INTERFERENCE_WINDOW_END (R215): the parts per million of each plot over the window, and the next window begins. -/
def execInterferenceWindowEnd (s : State) : Out :=
  .next ((List.range 16).foldl (fun a p =>
    let x := a.plot p
    let now := intfRegs.map fun r => (a.rd r p 0).toNat
    let d := fun k => lget now k 0 - mget dNat x.intf k
    let ppm := fun k => if d 0 = 0 then 0 else d k * 1000000 / d 0
    let a1 := a.wr .SEED_PLOT_PPM0 p 0 (setFld (setFld (setFld 0 59 40 (ppm 3)) 39 20 (ppm 2)) 19 0 (ppm 1))
    let a2 := a1.wr .SEED_PLOT_PPM1 p 0 (setFld (setFld 0 39 20 (ppm 5)) 19 0 (ppm 4))
    a2.setPlot p { x with intf := (List.range 6).foldl (fun m k => mput dNat m k (lget now k 0)) [] }) s)

end Sys2Proof.Machine
end

