-- ==== Sys2Proof/Machine/Targets.lean ====
section
/-!
DEFINITION. Commands to bins, cores and the command unit itself (Table 07.7): CANCEL, SIGNAL and WAIT.
-/
namespace Sys2Proof.Machine
open Sys2Proof

/-- Memory unit of a command's logical bin; none when unmapped (R206). -/
def State.cmdUnit (s : State) (m : Cmd) : Option Nat := unitOfLbin (s.rd .SEED_REMAP 0 0) (fld (m.arg 0) 13 0)

/-- STREAM_CANCEL (R123). -/
def execStreamCancel (core : Fin 64) (s : State) : Out :=
  let c := core.val
  match s.inHand c 6 with
  | none => .next s
  | some m =>
    match s.cmdUnit m with
    | none => .next (s.finish c m stProt)
    | some u =>
      if s.plotOf (muInst u) ≠ some m.ctx then .next (s.finish c m stProt)
      else
        let m1 := { m with epoch := (s.tile (muInst u)).epoch }
        .next ((s.cancelGen u (fld (m.arg 0) 17 16) 0x0501).finish c m1 stOK)

/-- SIGNAL_TOKEN (R170): a token for a logical bin, under the plot the command names; it waits while the injection queue
is full. -/
def execSignalToken (core : Fin 64) (s : State) : Out :=
  let c := core.val
  match (s.core c).hand (fun m => decide (m.code = 7 ∧ m.flags = 0)) with
  | none => .next s
  | some m =>
    match s.cmdUnit m with
    | none => .next (s.finish c m stProt)
    | some u =>
      match s.injectToken u (.plot (plotFin m.ctx)) ((m.arg 1).setWidth 16) with
      | none => .next s
      | some (t, st) => .next (t.finish c m st)

/-- SIGNAL_EVENT: bits 63 to 8 of ARG1 are ORed into CC_EVT of another core (Table 07.7). -/
def execSignalEvent (core : Fin 64) (s : State) : Out :=
  let c := core.val
  match (s.core c).hand (fun m => decide (m.code = 7 ∧ m.flags = 1)) with
  | none => .next s
  | some m => .next ((s.event (fld (m.arg 0) 5 0) (setFld (m.arg 1) 7 0 0)).finish c m stOK)

/-- The WAIT of a kind that holds a core's later commands. -/
def State.waiting (s : State) (c kind : Nat) : Option Cmd :=
  (s.core c).cmds.find? fun m => decide (m.phase = 1 ∧ m.code = 8 ∧ m.flags = kind)

/-- WAIT_TICKET: ends once ticket REF is no longer in flight. -/
def execWaitTicket (core : Fin 64) (s : State) : Out :=
  let c := core.val
  match s.waiting c 0 with
  | none => .next s
  | some m => .next (if (s.core c).cmds.any (·.ticket = m.ref) then s else s.finish c m stOK)

/-- WAIT_ALL: ends once every earlier command of the core has completed. -/
def execWaitAll (core : Fin 64) (s : State) : Out :=
  let c := core.val
  match s.waiting c 1 with
  | none => .next s
  | some m => .next (if (s.core c).cmds.head?.map (·.ticket) = some m.ticket then s.finish c m stOK else s)

/-- WAIT_SIGNALS: ends once LNK_SIGNALS of the logical bin has reached ARG1. -/
def execWaitSignals (core : Fin 64) (s : State) : Out :=
  let c := core.val
  match s.waiting c 2 with
  | none => .next s
  | some m =>
    match s.cmdUnit m with
    | none => .next (s.finish c m stProt)
    | some u => .next (if (s.rd .LNK_SIGNALS (muInst u) 0).toNat ≥ (m.arg 1).toNat then s.finish c m stOK else s)

/-- WAIT_TIMEOUT (R237): a WAIT with a time-out reaches it, completes with WAIT_TIMEOUT and halts the queue. -/
def execWaitTimeout (core : Fin 64) (s : State) : Out :=
  let c := core.val
  match (s.core c).cmds.find? (fun m => decide (m.phase = 1 ∧ m.code = 8)) with
  | none => .next s
  | some m => .next (if m.arg 2 = 0 then s else (s.finish c m 0x0506).haltQueue c m.ticket)

end Sys2Proof.Machine
end

