-- ==== Sys2Proof/Machine/Hopper.lean ====
section
/-!
DEFINITION. The hopper (chapter 08): queue-pair states (R249), doorbells (R253, R254), fetching (R256, R259), handing
entries over (R250, R252), completions (R257), interrupts (R258), the admin, bulk and message commands (R250, R251).
-/
namespace Sys2Proof.Machine
open Sys2Proof

/-- Whether the chip is in the FATAL state (R509). -/
def State.isFatal (s : State) : Bool := bit (s.rd .CHF_STATUS 0 0) 63

def dQp (_ : Nat) : Qp := Qp.reset
def State.qp (s : State) (q : Nat) : Qp := mget dQp s.hop.qps q
def State.setQp (s : State) (q : Nat) (x : Qp) : State := { s with hop := { s.hop with qps := mput dQp s.hop.qps q x } }

/-- STATE of a queue pair (Table 08.8): 0 DISABLED, 1 ACTIVE, 2 ERROR. -/
def State.qpState (s : State) (q : Nat) : Nat := s.rdF .HOP_QP_CFG q 0 42 40

def State.setQpState (s : State) (q n : Nat) : State :=
  let l := s.hop.live.filter (· ≠ q)
  let s1 := s.wrF .HOP_QP_CFG q 0 42 40 n
  { s1 with hop := { s1.hop with live := if n = 0 then l else l ++ [q] } }

def State.qpFunc (s : State) (q : Nat) : Nat := s.rdF .HOP_QP_OWNER q 0 54 48
def State.qpClass (s : State) (q : Nat) : Nat := s.rdF .HOP_QP_OWNER q 0 58 56
def State.sqSize (s : State) (q : Nat) : Nat := 2 ^ s.rdF .HOP_QP_CFG q 0 28 24
def State.cqSize (s : State) (q : Nat) : Nat := 2 ^ s.rdF .HOP_QP_CFG q 0 36 32
def State.cqHead (s : State) (q : Nat) : Nat := s.rdF .HOP_QP_PTRS q 0 63 48
def State.cqTail (s : State) (q : Nat) : Nat := s.rdF .HOP_QP_PTRS q 0 47 32
def State.sqTail (s : State) (q : Nat) : Nat := s.rdF .HOP_QP_PTRS q 0 31 16
def State.sqHead (s : State) (q : Nat) : Nat := s.rdF .HOP_QP_PTRS q 0 15 0

/-- Distance from `b` to `a` round a ring of `n`. -/
def ringDist (a b n : Nat) : Nat := (a + n - b % n) % n

/-- MSI-X Table Size of a function (Table 08.1). -/
def vectorsOf (f : Nat) : Nat := if f = 0 then 1032 else 8

/-! ### Entries -/

def QEnt.opc (e : QEnt) : Nat := le e.bytes 0 1
def QEnt.fence (e : QEnt) : Bool := nbit (le e.bytes 1 1) 0
def QEnt.cid (e : QEnt) : Nat := le e.bytes 2 2
def QEnt.handle (e : QEnt) : Nat := le e.bytes 4 4
def QEnt.arg (e : QEnt) (k : Nat) : Nat := le e.bytes (8 + 8 * k) 8

/-- Opcodes defined for a class (Table 08.3; those of the request class by Table 11.1). -/
def opcOk (cls opc : Nat) : Bool :=
  match cls with
  | 0 => decide (1 ≤ opc ∧ opc ≤ 4)
  | 1 => decide (0x40 ≤ opc ∧ opc ≤ 0x7F)
  | 2 => decide (0x30 ≤ opc ∧ opc ≤ 0x34)
  | 3 => decide (opc = 0x10 ∨ opc = 0x11)
  | _ => decide (opc = 0x20 ∨ opc = 0x21)

def State.setEnt (s : State) (q : Nat) (e : QEnt) : State :=
  let x := s.qp q
  s.setQp q { x with ents := x.ents.map fun y => if y.id = e.id then e else y }

/-- The oldest entry of a queue pair with its consumer and not finished, with this opcode. -/
def State.entOf (s : State) (q opc : Nat) : Option QEnt :=
  (s.qp q).ents.find? fun e => decide (e.st = 2 ∧ e.opc = opc)

/-- As `entOf`, for classes whose entries act in submission order: it must be the oldest unfinished one. -/
def State.entFirst (s : State) (q opc : Nat) : Option QEnt :=
  match (s.qp q).ents.find? (fun e => decide (e.st ≠ 3)) with
  | some e => if e.st = 2 ∧ e.opc = opc then some e else none
  | none => none

/-! ### Interrupts -/

/-- Send or hold one message for a vector (R258). Nothing is sent while the link is down (R261). -/
def State.sendMsix (s : State) (f v : Nat) : State :=
  let k := f * 2048 + v
  if v ≥ vectorsOf f then s
  else if !mget dFalse s.hop.unmasked k then { s with hop := { s.hop with pba := mput dFalse s.hop.pba k true } }
  else if s.rdF .HOP_LINK 0 0 2 0 = 0 then s
  else { s with hop := { s.hop with sent := mput dNat s.hop.sent k (mget dNat s.hop.sent k + 1) } }

/-- A queue pair triggers its vector; its pending count clears (R258). -/
def State.trigger (s : State) (q : Nat) : State :=
  (s.setQp q { s.qp q with pend := 0, pendErr := false }).sendMsix (s.qpFunc q) (s.rdF .HOP_QP_CFG q 0 58 48)

/-- The conditions of R258 that do not wait: with IEN, the pending count has reached THRESH + 1, or an error is pending under
ERRIMM. -/
def State.moderate (s : State) (q : Nat) : State :=
  let x := s.qp q
  if s.rdF .HOP_QP_CFG q 0 59 59 = 1 ∧
      (x.pend ≥ s.rdF .HOP_QP_MOD q 0 39 32 + 1 ∨ (x.pendErr ∧ s.rdF .HOP_QP_MOD q 0 40 40 = 1)) then s.trigger q else s

/-- One more pending completion (R258). -/
def State.pendOne (s : State) (q status : Nat) : State :=
  let x := s.qp q
  (s.setQp q { x with pend := x.pend + 1, pendAt := if x.pend = 0 then s.time else x.pendAt
                      pendErr := x.pendErr || decide (status ≠ 0) }).moderate q

/-- INTERRUPT_TIMER (R258): the oldest pending completion has waited TIME. -/
def execInterruptTimer (q : Fin 16384) (s : State) : Out :=
  .next (if (s.qp q).pend ≠ 0 ∧ s.rdF .HOP_QP_MOD q 0 9 0 ≠ 0 ∧ s.rdF .HOP_QP_CFG q 0 59 59 = 1 then s.trigger q else s)

/-- Unmask a vector (R258): one whose PBA bit is set sends one message. -/
def State.unmask (s : State) (f v : Nat) : State :=
  let k := f * 2048 + v
  let s1 := { s with hop := { s.hop with unmasked := mput dFalse s.hop.unmasked k true } }
  if mget dFalse s.hop.pba k then { s1 with hop := { s1.hop with pba := mput dFalse s1.hop.pba k false } }.sendMsix f v else s1

/-- MSIX_VECTOR_UNMASK (R258). -/
def execMsixVectorUnmask (fn : Fin 128) (vector : Fin 1032) (s : State) : Out :=
  .next (if vector.val ≥ vectorsOf fn then s else s.unmask fn vector)

/-- Word `w` of an MSI-X table: word 4v + k of vector v holds the message address (k 0 and 1), its data (2) and the vector control
(3), whose bit 0 masks the vector (log entry 147). -/
def State.vecWord (s : State) (f w : Nat) : BitVec 32 :=
  let k := f * 2048 + w / 4
  if w % 4 = 3 then (if mget dFalse s.hop.unmasked k then 0 else 1) else mget dW32 s.hop.vtab (k * 4 + w % 4)

/-- Write word `w` of an MSI-X table. -/
def State.setVec (s : State) (f w : Nat) (v : BitVec 32) : State :=
  let k := f * 2048 + w / 4
  if w % 4 ≠ 3 then { s with hop := { s.hop with vtab := mput dW32 s.hop.vtab (k * 4 + w % 4) v } }
  else if v.getLsbD 0 then { s with hop := { s.hop with unmasked := mput dFalse s.hop.unmasked k false } }
  else s.unmask f (w / 4)

/-- 32 bits of a pending-bit array, from vector 32w. -/
def State.pbaWord (s : State) (f w : Nat) : BitVec 32 :=
  BitVec.ofNat 32 ((List.range 32).foldl (fun n b => if mget dFalse s.hop.pba (f * 2048 + 32 * w + b) then n + 2 ^ b else n) 0)

/-! ### Queue-pair states -/

/-- A queue pair becomes DISABLED. Completions pending a message stay so (R258). -/
def State.qpOff (s : State) (q : Nat) : State :=
  (s.setQp q { s.qp q with stopping := false, cut := none, ents := (s.qp q).ents.filter (·.det) }).setQpState q 0

/-- A queue pair being disabled reaches DISABLED once its entries in flight have completed (Table 08.4). -/
def State.qpQuiet (s : State) (q : Nat) : State :=
  let x := s.qp q
  if x.stopping ∧ x.ents.all (·.det) then s.qpOff q else s

/-- Discard the entries whose fetch reads are outstanding; they are not counted (R249). -/
def Qp.dropReads (x : Qp) : Qp := { x with ents := x.ents.filter fun e => decide (2 ≤ e.st) }

/-- ACTIVE to ERROR with a status (Table 08.4). -/
def State.qpError (s : State) (q status : Nat) : State :=
  if s.qpState q ≠ 1 then s
  else ((s.setQp q (s.qp q).dropReads).setQpState q 2).wrF .HOP_QP_CFG q 0 15 0 status

/-- DISABLE by the owner: fetching stops at once. -/
def State.qpDisable (s : State) (q : Nat) : State :=
  if s.qpState q = 0 then s else (s.setQp q { (s.qp q).dropReads with stopping := true }).qpQuiet q

/-- Whether a staging base lies within BND_SRAMWIN of the bound core (R252). -/
def State.stageOk (s : State) (q base : Nat) : Bool :=
  let c := s.rdF .HOP_QP_OWNER q 0 37 32
  let w := s.rd .BND_SRAMWIN c 0
  decide (4 ≤ c ∧ base % 4096 = 0 ∧ fld w 40 32 * 65536 ≤ base ∧ base + 4096 ≤ min (2 ^ 25) ((fld w 40 32 + fld w 8 0 + 1) * 65536))

/-- Whether a ring base is a 4 KiB aligned local address of the host window or the silo. -/
def ringBaseOk (b : Nat) : Bool :=
  decide (b % 4096 = 0 ∧ (b < 0xA000000000 ∨ (0x200000000000 ≤ b ∧ b < 0x300000000000)))

/-- Whether a configuration image is valid for a queue pair (R250, Table 08.8). -/
def State.qpCfgOk (s : State) (q : Nat) (cfg : Word) (sqb cqb : Nat) : Bool :=
  decide (4 ≤ fld cfg 36 32 ∧ fld cfg 36 32 ≤ 16 ∧ 4 ≤ fld cfg 28 24 ∧ fld cfg 28 24 ≤ 16 ∧
    fld cfg 58 48 < vectorsOf (s.qpFunc q)) && ringBaseOk sqb && ringBaseOk cqb

/-- A valid DISABLED queue pair becomes ACTIVE: pointers 0, phase 1, ERR 0 or QP_REASSIGNED (R249, R262). -/
def State.qpStart (s : State) (q : Nat) : State :=
  let x := s.qp q
  let s1 := s.setQp q { Qp.reset with ents := x.ents.filter (·.det), pend := x.pend, pendAt := x.pendAt, pendErr := x.pendErr }
  ((s1.wr .HOP_QP_PTRS q 0 0).wrF .HOP_QP_CFG q 0 15 0 (if x.reassigned then 0x0607 else 0)).setQpState q 1

/-- HOP_QP_CTL.ENABLE (R249): without effect unless the queue pair is assigned, DISABLED and validly configured. -/
def State.qpEnable (s : State) (q : Nat) : State :=
  let stage := s.rdF .HOP_QP_STAGEBASE q 0 24 12 * 4096
  if s.rdF .HOP_QP_OWNER q 0 63 63 = 1 ∧ s.qpState q = 0 ∧ !s.isFatal ∧
      s.qpCfgOk q (s.rd .HOP_QP_CFG q 0) (s.rd .HOP_QP_SQBASE q 0).toNat (s.rd .HOP_QP_CQBASE q 0).toNat ∧
      (s.qpClass q ≠ 1 ∨ s.stageOk q stage) then (s.qpStart q).wr .HOP_QP_STAGEHEAD q 0 0
  else s

/-- A write to HOP_QP_OWNER that passed its checks (R262): a class of 5 to 7 leaves it unchanged; a change of FUNC or CLASS
of a pair that is not DISABLED disables it at once and detaches what it has in flight; its pending completions were the old
owner's and go (log entry 148). -/
def State.qpOwner (s : State) (q : Nat) (v : Word) : State :=
  let old := s.rd .HOP_QP_OWNER q 0
  if fld v 58 56 > 4 then s
  else
    let v1 := v &&& Reg.mask .HOP_QP_OWNER [.RW]
    let s1 := s.wr .HOP_QP_OWNER q 0 v1
    if (fld v 58 56 ≠ fld old 58 56 ∨ fld v 54 48 ≠ fld old 54 48) ∧ s.qpState q ≠ 0 then
      let x := (s.qp q).dropReads
      let done := x.ents.filter fun e => decide (e.st = 3 ∧ !e.det)
      let keep := (x.ents.filter fun e => decide (e.st ≠ 3)).map fun e => { e with det := true }
      ((s1.setQp q { x with ents := keep, reassigned := true, pend := 0, pendErr := false }).inc .HOP_QP_CPL_DISCARD q 0 done.length).qpOff q
    else s1

/-! ### Doorbells -/

/-- Whether a function may touch a queue pair through its BARs (R244). -/
def State.qpVisible (s : State) (f q : Nat) : Bool :=
  decide (f = 0 ∨ (s.rdF .HOP_QP_OWNER q 0 63 63 = 1 ∧ s.qpFunc q = f))

/-- SQ_TAIL (R253, R254): ignored and counted before Ready (R555); it wakes a module in deep idle (R495). -/
def execSqTail (fn : Fin 128) (q : Fin 16384) (index : BitVec 16) (s : State) : Out :=
  let i := index.toNat
  let n := s.sqSize q
  if !s.qpVisible fn q then .next (s.raiseProt 5 q 0)
  else if s.qpState q ≠ 1 ∨ (s.qp q).stopping ∨ s.isFatal ∨ !s.isReady then .next (s.inc .HOP_QP_DBIGNORE q 0 1)
  else if i ≥ n ∨ ringDist i (s.sqTail q) n > n - 1 - ringDist (s.sqTail q) (s.sqHead q) n then .next (s.qpError q 0x0602)
  else .next (s.wrF .HOP_QP_PTRS q 0 31 16 i).wake

/-- CQ_HEAD (R253, R254): as SQ_TAIL. -/
def execCqHead (fn : Fin 128) (q : Fin 16384) (index : BitVec 16) (s : State) : Out :=
  let i := index.toNat
  let n := s.cqSize q
  if !s.qpVisible fn q then .next (s.raiseProt 5 q 0)
  else if s.qpState q ≠ 1 ∨ (s.qp q).stopping ∨ s.isFatal ∨ !s.isReady then .next (s.inc .HOP_QP_DBIGNORE q 0 1)
  else if i ≥ n ∨ ringDist i (s.cqHead q) n > ringDist (s.cqTail q) (s.cqHead q) n then .next (s.qpError q 0x0602)
  else .next (s.wrF .HOP_QP_PTRS q 0 63 48 i).wake

/-! ### Fetching -/

/-- Entries of a queue pair in flight under R256: fetched or being fetched, and not released by CQ_HEAD. -/
def State.qpHeld (s : State) (q : Nat) : Nat :=
  ((s.qp q).ents.filter fun e => !e.det).length + ringDist (s.cqTail q) (s.cqHead q) (s.cqSize q)

/-- Entries whose fetch reads are outstanding. -/
def Qp.reads (x : Qp) : Nat := (x.ents.filter fun e => decide (e.st < 2)).length

/-- Entries in the ring and not yet asked for. -/
def State.qpAvail (s : State) (q : Nat) : Nat := ringDist (s.sqTail q) (s.sqHead q) (s.sqSize q) - (s.qp q).reads

/-- Whether a queue pair is eligible for a grant. -/
def State.eligible (s : State) (q : Nat) : Bool :=
  let x := s.qp q
  let fenced := x.ents.any fun e => decide (e.st = 1) && e.fence
  decide (s.qpState q = 1 ∧ 0 < s.qpAvail q ∧ s.qpHeld q < s.cqSize q - 1) && !x.stopping && !fenced &&
  decide (s.qpClass q ≠ 1 ∨ s.rdF .HOP_QP_OWNER q 0 2 0 + 1 + x.reads + x.stUsed ≤ 64)

/-- The first element at or above a pointer, in ascending order and wrapping (R180). -/
def rotPick (l : List Nat) (p : Nat) : Option Nat :=
  let best := fun (xs : List Nat) => xs.foldl (fun (b : Option Nat) x => match b with
    | none => some x
    | some y => some (min x y)) none
  match best (l.filter (p ≤ ·)) with
  | some x => some x
  | none => best l

/-- Ask for entries of a chosen queue pair. -/
def State.grantQp (s : State) (q : Nat) : State :=
  let x := s.qp q
  let n := min (s.rdF .HOP_QP_OWNER q 0 2 0 + 1) (min (s.qpAvail q) (s.cqSize q - 1 - s.qpHeld q))
  let es := (List.range n).map fun k =>
    (⟨s.hop.no + k, [], s.qpFunc q, s.qpClass q, 0, 0, 0, 0, 0, 0, false, 0, false, []⟩ : QEnt)
  let s1 := s.setQp q { x with ents := x.ents ++ es }
  { s1 with hop := { s1.hop with no := s1.hop.no + n } }

/-- FETCH_GRANT (R259): an eligible admin pair first, else a function by its pointer and weight and a queue pair within it;
no queue pair fetches while the link is down or degraded (R241, R261) or the module in deep idle or waking (R495). -/
def execFetchGrant (s : State) : Out :=
  let el := s.hop.live.filter s.eligible
  let adm := el.filter fun q => decide (s.qpClass q = 0)
  if s.isFatal ∨ s.rdF .HOP_LINK 0 0 2 0 = 0 ∨ s.rdF .HOP_LINK 0 0 8 8 = 1 ∨ s.pwr.idle ≠ 0 then .next s
  else
    match rotPick adm s.hop.adminPtr with
    | some q => .next ({ s with hop := { s.hop with adminPtr := (q + 1) % 16384 } }.grantQp q)
    | none =>
      match rotPick (el.map s.qpFunc) s.hop.fnPtr with
      | none => .next s
      | some f =>
        match rotPick (el.filter fun q => decide (s.qpFunc q = f)) (mget dNat s.hop.qPtr f) with
        | none => .next s
        | some q =>
          let cnt := (if f = s.hop.fnPtr then s.hop.fnCnt else 0) + 1
          let last := decide (cnt > s.rdF .HOP_FN_ARB f 0 3 0)
          let h := { s.hop with
            qPtr := mput dNat s.hop.qPtr f ((q + 1) % 16384)
            fnPtr := if last then (f + 1) % 128 else f
            fnCnt := if last then 0 else cnt }
          .next ({ s with hop := h }.grantQp q)

/-- An entry finishes with a status and a result; a detached one only counts as discarded (R262). -/
def State.qpFinish (s : State) (q id status result : Nat) : State :=
  let x := s.qp q
  match x.ents.find? (fun e => decide (e.id = id ∧ e.st ≠ 3)) with
  | none => s
  | some e =>
    if e.det then (s.setQp q { x with ents := x.ents.filter fun y => decide (y.id ≠ id) }).inc .HOP_QP_CPL_DISCARD q 0 1
    else
      let s1 := s.setEnt q { e with st := 3, status := status, result := result, doneAt := s.hop.no }
      { s1 with hop := { s1.hop with no := s1.hop.no + 1 } }

/-- Copy a command-class entry into its staging ring and signal the bound core (R252). -/
def State.stage (s : State) (q : Nat) (bs : List Byte) : State :=
  let x := s.qp q
  let base := s.rdF .HOP_QP_STAGEBASE q 0 24 12 * 4096
  let s1 := (s.store .csram (base + 64 * x.stTail) bs).setQp q { x with stTail := (x.stTail + 1) % 64, stUsed := x.stUsed + 1 }
  s1.event (s.rdF .HOP_QP_OWNER q 0 37 32) 2

/-- Whether a function holds a model handle (R250): its bit in WIN_MODEL_FN0 or WIN_MODEL_FN1. -/
def State.holdsModel (s : State) (f m : Nat) : Bool :=
  decide (m < 256) && (if f < 64 then bit (s.rd .WIN_MODEL_FN0 m 0) f else bit (s.rd .WIN_MODEL_FN1 m 0) (f - 64))

/-- ENTRY_FETCHED (R249, R250): the oldest fetch read of a queue pair returns. The entry is counted and handed to its
consumer; a FENCE entry waits at the head for every earlier one; a ring address that fails puts the pair into ERROR. -/
def execEntryFetched (q : Fin 16384) (s : State) : Out :=
  let n := q.val
  let x := s.qp n
  match x.ents.find? (fun e => decide (e.st < 2)) with
  | none => .next s
  | some e =>
    let a := (s.rd .HOP_QP_SQBASE n 0).toNat + 64 * s.sqHead n
    if e.bad ∧ e.st = 0 ∨ s.isFatal then .next s
    else
      match s.fetch (.func e.fn) a 64 true with
      | .error st => .next ((s.noteRefusal st 5 n a).qpError n st)
      | .ok bs =>
        let e1 := { e with bytes := bs, st := 2, head := (s.sqHead n + 1) % s.sqSize n, order := s.hop.no }
        let earlier := x.ents.any fun y => decide (2 ≤ y.st ∧ !y.det)
        if e1.fence ∧ earlier then .next (s.setEnt n { e with bytes := bs, st := 1 })
        else
          let s1 := (((s.countAt a 64).setEnt n e1).wrF .HOP_QP_PTRS n 0 15 0 e1.head).inc .HOP_QP_FETCHED n 0 1
          let s2 := { s1 with hop := { s1.hop with no := s1.hop.no + 1 } }
          if x.cut ≠ none then
            .next ((s2.setQp n { s2.qp n with ents := (s2.qp n).ents.filter fun y => decide (y.id ≠ e.id) }).inc .HOP_QP_CPL_DISCARD n 0 1)
          else if !opcOk e.cls e1.opc then .next (s2.qpFinish n e.id 0x0603 0)
          else if e.cls = 2 ∧ !s.holdsModel e.fn e1.handle then .next (s2.qpFinish n e.id stProt 0)
          else if e.cls = 1 then .next (s2.stage n bs)
          else .next s2

/-- Whether a local address lies in the host-memory window. -/
def inHost (a : Nat) : Bool := decide (0x200000000000 ≤ a ∧ a < 0x300000000000)

/-- The entry of a queue pair that waits on a read of host memory: a ring read, a COPY from the host, or the descriptor of a
request. -/
def State.hostReader (s : State) (q : Nat) : Option QEnt :=
  (s.qp q).ents.find? fun e =>
    decide (e.st = 0 ∧ inHost (s.rd .HOP_QP_SQBASE q 0).toNat) || decide (e.st = 2 ∧ inHost (e.arg 0)) &&
      (decide (e.cls = 3 ∧ e.opc = 0x10) || decide (e.cls = 2 ∧ e.sub = 0 ∧ (e.opc = 0x30 ∨ e.opc = 0x32)))

/-- A read of host memory by a queue pair is answered (R247): a failure is repeated once, and a second one fails the
entry, or the ring. -/
def State.hostAnswer (s : State) (q : Nat) (good : Bool) : State :=
  match s.hostReader q with
  | none => s
  | some e =>
    let rec0 := errRec 0x0606 (if good then sevTransient else sevLasting) 5 q 0xB
    if good then
      let s1 := s.setEnt q { e with bad := false, st := if e.st = 0 then 1 else e.st }
      if e.bad then s1.raise rec0 else s1
    else if !e.bad then s.setEnt q { e with bad := true }
    else if e.st = 0 then (s.raise rec0).qpError q 0x0606
    else (s.raise rec0).qpFinish q e.id 0x0606 0

/-- Any other read of a page of host memory is answered (R247): after a second failure in a row reads there fail, until one
succeeds (log entry 149). -/
def State.pageAnswer (s : State) (p : Nat) (good : Bool) : State :=
  let n := mget dNat s.hop.hostBad p
  let rec0 := errRec 0x0606 (if good then sevTransient else sevLasting) 5 0 0xB
  let set := fun (t : State) (k : Nat) => { t with hop := { t.hop with hostBad := mput dNat t.hop.hostBad p k } }
  if good then set (if n = 1 then s.raise rec0 else s) 0
  else if n = 0 then set s 1
  else if n = 1 then set (s.raise rec0) 2
  else s

/-- HOST_MEMORY_READ_RESPONSE (R247). -/
def execHostMemoryReadResponse (src : HostRead) (good : Bool) (s : State) : Out :=
  match src with
  | .queue q => .next (s.hostAnswer q good)
  | .page p => .next (s.pageAnswer p good)

/-- PCIE_COMPLETION_TIMEOUT (R247): no completion counts as a failed read. -/
def execPcieCompletionTimeout (src : HostRead) (s : State) : Out := execHostMemoryReadResponse src false s

/-! ### Completions -/

/-- Classes whose entries complete in submission order (R257). -/
def orderedClass (c : Nat) : Bool := decide (c = 0 ∨ c = 4)

/-- The next completion of a queue pair to be written (R257). -/
def State.nextCpl (s : State) (q : Nat) : Option QEnt :=
  let x := s.qp q
  if orderedClass (s.qpClass q) then
    match x.ents.find? (fun e => !e.det) with
    | some e => if e.st = 3 then some e else none
    | none => none
  else
    (x.ents.filter fun e => decide (e.st = 3)).foldl (fun (b : Option QEnt) e => match b with
      | none => some e
      | some y => some (if e.doneAt < y.doneAt then e else y)) none

/-- A completion entry (Table 08.6). -/
def cplBytes (result head cid status : Nat) (phase : Bool) : List Byte :=
  natToBytes 8 result ++ natToBytes 2 head ++ natToBytes 2 cid ++ natToBytes 2 status ++ natToBytes 1 phase.toNat ++ [0]

/-- Write one finished entry's completion (R249, R257). -/
def State.writeCpl (s : State) (q : Nat) (e : QEnt) : State :=
  let x := s.qp q
  let s1 := s.setQp q { x with ents := x.ents.filter fun y => decide (y.id ≠ e.id) }
  let a := (s.rd .HOP_QP_CQBASE q 0).toNat + 16 * s.cqTail q
  let n := s.cqSize q
  match s1.put (.func e.fn) a (cplBytes e.result e.head e.cid e.status x.phase) true with
  | .error st => ((((s1.noteRefusal st 5 q a).inc .HOP_QP_CPL_DISCARD q 0 1).qpError q stProt).qpQuiet q)
  | .ok s2 =>
    let t := (s.cqTail q + 1) % n
    let s3 := (s2.wrF .HOP_QP_PTRS q 0 47 32 t).inc .HOP_QP_CPL_WRITTEN q 0 1
    let s4 := if t = 0 then s3.setQp q { s3.qp q with phase := !x.phase } else s3
    let s5 := s4.pendOne q e.status
    if x.cut = some e.id then s5.qpOff q else s5.qpQuiet q

/-- COMPLETION_WRITE (R257). -/
def execCompletionWrite (q : Fin 16384) (s : State) : Out :=
  match s.nextCpl q with
  | none => .next s
  | some e => .next (s.writeCpl q e)

/-- Every entry in flight of every queue pair completes with a status: FATAL (R509 step 2), POWER_HALT (R488 step 3). -/
def State.hopEnd (s : State) (status : Nat) : State :=
  (s.hop.qps.map (·.1)).foldl (fun a q =>
    let a1 := a.setQp q (a.qp q).dropReads
    (a1.qp q).ents.foldl (fun b e => if e.st = 2 then b.qpFinish q e.id status 0 else b) a1) s

/-- CPOST (R252): the bound core completes the oldest staged entry with this CID, also one that has been detached (R262). -/
def State.cpost (s : State) (q : Nat) (v : Word) : State :=
  match (s.qp q).ents.find? (fun e => decide (e.st = 2 ∧ e.cls = 1 ∧ e.cid = fld v 15 0)) with
  | none => s
  | some e => s.qpFinish q e.id (fld v 31 16) (s.rd .HOP_QP_CPOST0 q 0).toNat

/-- STAGEHEAD_WRITE (R252): staging slots up to the new head are free. -/
def State.stageHead (s : State) (q : Nat) (v : Word) : State :=
  let x := s.qp q
  let freed := ringDist (fld v 5 0) (s.rdF .HOP_QP_STAGEHEAD q 0 5 0) 64
  (s.setQp q { x with stUsed := x.stUsed - freed }).wr .HOP_QP_STAGEHEAD q 0 (BitVec.ofNat 64 (fld v 5 0))

/-! ### BAR4 -/

/-- Size of a function's BAR4 (Table 08.2): 64 GiB for the physical function and 1 GiB for a virtual one, unless resized. -/
def dBar4 (f : Nat) : Nat := if f = 0 then 6 else 0
def State.bar4Size (s : State) (f : Nat) : Nat := 2 ^ (30 + mget dBar4 s.hop.bar4 f)

/-- BAR4_ACCESS (R245): one past the size of the function's BAR does not reach it (log entry 147). Reads answer in `rdata` (the first eight bytes); a refused read gives all ones and a refused write
is dropped whole, both recorded. -/
def execBar4Access (fn : Fin 128) (off : BitVec 36) (acc : WinAcc) (s : State) : Out :=
  let a := s.rdF .HOP_FN_BAR4 fn 0 47 30 * 2 ^ 30 + off.toNat
  let ones : Word := BitVec.allOnes 64
  if s.bar4Size fn ≤ off.toNat then .next s
  else match acc with
  | .write bs =>
    if bs = [] then .next s
    else if a + bs.length > 0xA000000000 then .next (s.raiseProt 5 fn a)
    else
      match s.put (.func fn) a bs true with
      | .error st => .next (s.noteRefusal st 5 fn a)
      | .ok t => .next t
  | .read n =>
    if n = 0 then .next s
    else if a + n > 0xA000000000 then .next ({ s with rdata := ones }.raiseProt 5 fn a)
    else
      match s.fetch (.func fn) a n true with
      | .error st => .next ({ s with rdata := ones }.noteRefusal st 5 fn a)
      | .ok bs => .next ({ s with rdata := BitVec.ofNat 64 (bytesToNat (bs.take 8)) }.countSilo .SILO_RD_BYTES a n)

/-! ### Admin commands -/

/-- Whether an admin entry may act on a queue pair: its owner owns both (R250). -/
def State.adminOwns (s : State) (e : QEnt) (q : Nat) : Bool :=
  decide (s.rdF .HOP_QP_OWNER q 0 63 63 = 1 ∧ s.qpFunc q = e.fn)

/-- Run the oldest unfinished admin entry with this opcode. -/
def State.onAdmin (s : State) (q opc : Nat) (f : QEnt → State) : Out :=
  match s.entFirst q opc with
  | some e => if e.cls = 0 then .next (f e) else .next s
  | none => .next s

/-- CREATE_QP (R250, R252): a failing check writes nothing. -/
def execCreateQp (q : Fin 16384) (s : State) : Out :=
  s.onAdmin q 1 fun e =>
    let t := e.arg 0 % 16384
    let cfg : Word := BitVec.ofNat 64 (e.arg 3)
    let done := fun (x : State) st => x.qpFinish q e.id st 0
    if !s.adminOwns e t then done s stProt
    else if s.qpState t ≠ 0 ∨ !s.qpCfgOk t cfg (e.arg 1) (e.arg 2) then done s 0x0601
    else if s.qpClass t = 1 ∧ !s.stageOk t (e.arg 5) then done s stProt
    else
      let s1 := s.wr .HOP_QP_SQBASE t 0 (BitVec.ofNat 64 (e.arg 1))
      let s2 := s1.wr .HOP_QP_CQBASE t 0 (BitVec.ofNat 64 (e.arg 2))
      let s3 := s2.wr .HOP_QP_CFG t 0 (cfg &&& Reg.mask .HOP_QP_CFG [.RW])
      let s4 := s3.wr .HOP_QP_MOD t 0 (BitVec.ofNat 64 (e.arg 4) &&& Reg.mask .HOP_QP_MOD [.RW])
      let s5 := if s.qpClass t = 1 then (s4.wr .HOP_QP_STAGEBASE t 0 (BitVec.ofNat 64 (e.arg 5))).wr .HOP_QP_STAGEHEAD t 0 0 else s4
      done ((s5.qpStart t).moderate t) stOK

/-- DELETE_QP (R249, R250): an ACTIVE pair is disabled, and the command completes once it is; a pair that deletes itself
cuts its own queue: the entries fetched after it are discarded and counted. -/
def execDeleteQp (q : Fin 16384) (s : State) : Out :=
  s.onAdmin q 2 fun e =>
    let t := e.arg 0 % 16384
    if e.sub = 1 then (if s.qpState t = 0 then s.qpFinish q e.id stOK 0 else s)
    else if !s.adminOwns e t then s.qpFinish q e.id stProt 0
    else if s.qpState t ≠ 1 then s.qpFinish q e.id 0x0601 0
    else if t = q.val then
      let x := s.qp q
      let mine := x.ents.takeWhile fun y => decide (y.id ≠ e.id)
      let late := x.ents.drop (mine.length + 1)
      ((s.setQp q { x with cut := some e.id, ents := mine ++ [e] ++ late.filter fun y => decide (y.st < 2) || y.det }).inc
        .HOP_QP_CPL_DISCARD q 0 (late.filter fun y => decide (2 ≤ y.st) && !y.det).length).qpFinish q e.id stOK 0
    else (s.setEnt q { e with sub := 1 }).qpDisable t

/-- SET_MOD (R250). -/
def execSetMod (q : Fin 16384) (s : State) : Out :=
  s.onAdmin q 3 fun e =>
    let t := e.arg 0 % 16384
    if !s.adminOwns e t then s.qpFinish q e.id stProt 0
    else ((s.wr .HOP_QP_MOD t 0 (BitVec.ofNat 64 (e.arg 1) &&& Reg.mask .HOP_QP_MOD [.RW])).moderate t).qpFinish q e.id stOK 0

/-- IDENTIFY (R250): a 4 KiB buffer is written. The manual names its content and gives no layout: its bytes are free
values (log entry 65). A misaligned buffer address has its low bits ignored (log entry 66). -/
def execIdentify (q : Fin 16384) (s : State) : Out :=
  s.onAdmin q 4 fun e =>
    let a := e.arg 0 / 64 * 64
    let (n, s0) := s.fresh
    match s0.put (.func e.fn) a ((List.range 4096).map fun k => Config.freeByte n k) true with
    | .error st => (s0.noteRefusal st 5 q a).qpFinish q e.id st 0
    | .ok t => t.qpFinish q e.id stOK 0

/-! ### Bulk commands -/

/-- Bytes left before the next 64 KiB boundary. -/
def toPage (a : Nat) : Nat := 65536 - a % 65536

/-- Move bytes piece by piece, each piece within one page of the source and of the destination; the first piece that is
refused or fails ends the command. Answers the status and the bytes moved. -/
def State.moveBytes (w : Who) (viaHopper : Bool) (src inst : Nat) : Nat → State → Nat → Nat → Nat → Nat → State × Nat × Nat
  | 0, s, _, _, _, done => (s, stOK, done)
  | f + 1, s, a, b, n, done =>
    if n = 0 then (s, stOK, done)
    else
      let k := min n (min (toPage a) (toPage b))
      match s.fetch w a k viaHopper with
      | .error st => (s.noteRefusal st src inst a, st, done)
      | .ok bs =>
        match s.put w b bs viaHopper with
        | .error st => (s.noteRefusal st src inst b, st, done)
        | .ok t => (t.countAt a k).moveBytes w viaHopper src inst f (a + k) (b + k) (n - k) (done + k)

/-- Write a repeated 8-byte pattern, page by page. -/
def State.fillBytes (w : Who) (viaHopper : Bool) (src inst : Nat) (pat : List Byte) : Nat → State → Nat → Nat → Nat → State × Nat × Nat
  | 0, s, _, _, done => (s, stOK, done)
  | f + 1, s, b, n, done =>
    if n = 0 then (s, stOK, done)
    else
      let k := min n (toPage b)
      match s.put w b ((List.range k).map fun i => lget pat ((done + i) % 8) 0) viaHopper with
      | .error st => (s.noteRefusal st src inst b, st, done)
      | .ok t => t.fillBytes w viaHopper src inst pat f (b + k) (n - k) (done + k)

/-- A status the manual does not state, for an operand it calls out of form (log entry 67). -/
def State.freeStatus (s : State) : Nat × State :=
  let (n, t) := s.fresh
  (Config.freeNat n % 65536, t)

/-- COPY (R250): bytes moved in RESULT. -/
def execCopy (q : Fin 16384) (s : State) : Out :=
  match s.entOf q 0x10 with
  | none => .next s
  | some e =>
    let n := e.arg 2
    if e.cls ≠ 3 ∨ e.bad then .next s
    else if n % 4 ≠ 0 ∨ n > 2 ^ 32 then
      let (st, t) := s.freeStatus
      .next (t.qpFinish q e.id st 0)
    else
      let (t, st, m) := s.moveBytes (.func e.fn) true 5 q (n / 32768 + 4) (e.arg 0) (e.arg 1) n 0
      .next (t.qpFinish q e.id st m)

/-- FILL (R250). -/
def execFill (q : Fin 16384) (s : State) : Out :=
  match s.entOf q 0x11 with
  | none => .next s
  | some e =>
    let n := e.arg 2
    if e.cls ≠ 3 then .next s
    else if n % 4 ≠ 0 ∨ n > 2 ^ 32 then
      let (st, t) := s.freeStatus
      .next (t.qpFinish q e.id st 0)
    else
      let (t, st, m) := s.fillBytes (.func e.fn) true 5 q (natToBytes 8 (e.arg 1)) (n / 65536 + 3) (e.arg 0) n 0
      .next (t.qpFinish q e.id st m)

/-! ### Messages -/

/-- Unfinished entries of message queue pairs with an opcode, as (queue pair, entry); detached ones run to their end (R262). -/
def State.msgs (s : State) (opc : Nat) (p : QEnt → Bool) : List (Nat × QEnt) :=
  s.hop.qps.flatMap fun x => (x.2.ents.filter fun e => decide (e.st = 2 ∧ e.cls = 4 ∧ e.opc = opc) && p e).map fun e => (x.1, e)

/-- The oldest of them. -/
def oldestMsg (l : List (Nat × QEnt)) : Option (Nat × QEnt) :=
  l.foldl (fun (b : Option (Nat × QEnt)) x => match b with
    | none => some x
    | some y => some (if x.2.order < y.2.order then x else y)) none

/-- Deliver a SEND to a RECV (R251): the buffer is written and both complete. A buffer that cannot be written fails the
RECV alone. -/
def State.deliver (s : State) (qs : Nat) (e : QEnt) (qr : Nat) (r : QEnt) : State :=
  let a := r.arg 0 / 64 * 64
  let bs := natToBytes 2 e.fn ++ natToBytes 2 e.cid ++ List.replicate 12 0 ++ (e.bytes.drop 0x10).take 48
  match s.put (.func r.fn) a bs true with
  | .error st => (s.noteRefusal st 5 qr a).qpFinish qr r.id st 0
  | .ok t => (t.qpFinish qs e.id stOK 0).qpFinish qr r.id stOK (e.fn + e.cid * 65536)

/-- SEND (R251): delivered to the destination's oldest outstanding RECV, else it waits. -/
def execSend (q : Fin 16384) (s : State) : Out :=
  match s.entOf q 0x20 with
  | none => .next s
  | some e =>
    match oldestMsg (s.msgs 0x21 fun r => decide (r.fn = e.arg 0 % 256)) with
    | none => .next s
    | some (qr, r) => .next (s.deliver q e qr r)

/-- RECV (R251): takes the oldest SEND that waits for its function, else it stays outstanding. -/
def execRecv (q : Fin 16384) (s : State) : Out :=
  match s.entOf q 0x21 with
  | none => .next s
  | some r =>
    match oldestMsg (s.msgs 0x20 fun e => decide (e.arg 0 % 256 = r.fn)) with
    | none => .next s
    | some (qs, e) =>
      match oldestMsg (s.msgs 0x21 fun x => decide (x.fn = r.fn)) with
      | some (qr, x) => .next (s.deliver qs e qr x)
      | none => .next s

/-- MSG_NO_RECEIVER (R251): the oldest waiting SEND of a queue pair has waited 10 ms and no RECV is outstanding at its destination.
One to firmware has a receiver (R544). -/
def execMsgNoReceiver (q : Fin 16384) (s : State) : Out :=
  match s.entOf q 0x20 with
  | none => .next s
  | some e =>
    let waits := decide (s.msgs 0x21 (fun r => decide (r.fn = e.arg 0 % 256)) = [])
    .next (if e.arg 0 % 256 = 0x80 ∨ !waits then s else s.qpFinish q e.id 0x0605 0)

/-! ### Link -/

/-- PCIE_LINK_UP (R241, Table 08.12): the rate and width trained; outside the supported set the link is degraded. -/
def execPcieLinkUp (rate : Fin 7) (width : Fin 5) (s : State) : Out :=
  if rate.val = 0 then .next s
  else
    let ok := decide (4 ≤ rate.val ∧ width.val ≤ 2)
    .next (s.wr .HOP_LINK 0 0 (BitVec.ofNat 64 ((if ok then 0 else 256) + width.val * 16 + rate.val)))

/-- What a function reset does to queue pairs (R260): everything in flight is discarded and counted, the pairs become
DISABLED and the function's vectors are cleared. Entries it has left in pairs that changed owner end with the others, and
its pending completions go (log entry 148). -/
def State.hopReset (s : State) (f : Nat) : State :=
  let s1 := (s.hop.live ++ s.hop.qps.map (·.1)).foldl (fun a q =>
    let x := a.qp q
    let n := (x.ents.filter fun e => decide (2 ≤ e.st ∧ e.fn = f)).length
    let a1 := (a.setQp q { x with ents := x.ents.filter fun e => decide (e.fn ≠ f) }).inc .HOP_QP_CPL_DISCARD q 0 n
    if a.qpFunc q = f ∧ a.qpState q ≠ 0 then (a1.setQp q { a1.qp q with pend := 0, pendErr := false }).qpOff q else a1) s
  let mine := fun (p : Nat × Bool) => decide (p.1 / 2048 ≠ f)
  { s1 with hop := { s1.hop with
      unmasked := s1.hop.unmasked.filter mine
      pba := s1.hop.pba.filter mine
      vtab := s1.hop.vtab.filter fun p => decide (p.1 / 8192 ≠ f) } }

end Sys2Proof.Machine
end

