-- ==== Sys2Proof/Machine/Silo.lean ====
section
/-!
DEFINITION. The silo stacks (chapter 09): line accesses (R266, R270 to R272), patrol scrub (R273), refresh (R274), row
repair (R275) and page retirement (R276).
-/
namespace Sys2Proof.Machine
open Sys2Proof

/-- The requester of an intake for an address: 8 x edge node + plane, which are address bits [14:8] (R172, R267). -/
def intakeOf (a : Nat) : Nat := nbits a 14 8

/-- The requester that an intake's ring grants among those that ask (R267). -/
def State.intakeGrant (s : State) (k : Nat) (asks : Nat → Bool) : Option Nat := rotGrant 128 (mget dNat s.tier.siloPtr k) asks

/-- The ring's pointer moves past the requester that won. -/
def State.intakeWon (s : State) (k j : Nat) : State :=
  { s with tier := { s.tier with siloPtr := mput dNat s.tier.siloPtr k ((j + 1) % 128) } }

/-- One access within a line that has passed its intake (R266, R271). The line is performed whole. A detected error, a poisoned
line included, returns SILO_MEDIA_FAULT; the requester repeats the read once. -/
def State.lineAccess (s : State) (a : Nat) (acc : WinAcc) (ecc : Ecc) : State :=
  let line := a / 64
  match acc with
  | .write bs =>
    let st := s.media a (.silo a) bs.length true
    if st ≠ 0 then { s.touchSilo a bs.length with rstat := st } else { s.writeSilo a bs with rstat := stOK }
  | .read n =>
    let s0 := s.touchSilo a n
    let good := { s.countSilo .SILO_RD_BYTES a n with rstat := stOK, rdata := BitVec.ofNat 64 (bytesToNat (s.load .silo a (min n 8))) }
    let bad := { s0 with rstat := stMedia, rdata := 0 }
    if s.mem.retired.contains (a / 65536) then { s0 with rstat := stRetired, rdata := 0 }
    else if mget dFalse s.mem.pSilo line then (bad.inc .SILO_UE (siloStack a) 0 2).raise (siloRec sevLasting line)
    else
      match ecc with
      | .lasting g => bad.siloErr line (.lasting g)
      | e => good.siloErr line e

/-- SILO_INTAKE_ACCESS (R266, R267, R271): an access within a 64-byte line asks at its stack's intake beside the rivals of the
same cycle; if it wins the ring it is performed, else it waits, charged to its plot when a rival of another plot won (R213). An
access to a row that is being repaired waits (R275). -/
def execSiloIntakeAccess (addr : BitVec 40) (acc : WinAcc) (first again : List (Fin 36)) (plot : Option (Fin 16)) (rivals : List Rival)
    (s : State) : Out :=
  let a := addr.toNat
  let k := siloStack a
  let j := intakeOf a
  let n := match acc with
    | .write bs => bs.length
    | .read n => n
  if a + n > 0xA000000000 ∨ a % 64 + n > 64 ∨ n = 0 ∨ s.rowBusy a n then .next s
  else
    match s.intakeGrant k fun i => decide (i = j) || rivals.any fun r => decide (r.idx % 128 = i) with
    | none => .next s
    | some w =>
      if w = j then .next ((s.intakeWon k j).lineAccess a acc (symEcc first again))
      else .next (s.waitFor .SEED_PLOT_STALL_SILO (plot.map Fin.val) ((rivals.find? fun r => decide (r.idx % 128 = w)).bind Rival.plotNo))

/-- Lines of a stack. -/
def stackLines : Nat := 1342177280

/-- PATROL_SCRUB_READ (R267, R272, R273): the base die reads a line in a cycle that no data request wants, repeats once, and
poisons it on a lasting error. A line of a row that is being repaired waits (R275). -/
def execPatrolScrubRead (line : Fin 10737418240) (first again : List (Fin 36)) (busy : Bool) (s : State) : Out :=
  let l := line.val
  let k := l / 1024 % 8
  if s.rdF .SILO_SCRUB 0 0 8 8 = 0 ∨ busy ∨ s.rowBusy (l * 64) 64 then .next s
  else
    let n := mget dNat s.tier.scrubbed k + 1
    let done := decide (n ≥ stackLines)
    let s00 := s.activate (l / 16)
    let s0 := { s00 with tier := { s00.tier with scrubbed := mput dNat s00.tier.scrubbed k (if done then 0 else n) } }
    let s1 := s0.wrF .SILO_STATUS k 0 15 8 (if done then 0 else n * 100 / stackLines)
    let s2 := if done then s1.wrF .SILO_STATUS k 0 1 1 0 else s1
    if mget dFalse s.mem.pSilo l ∨ s.mem.retired.contains (l / 1024) then .next s2
    else
      match symEcc first again with
      | .clean => .next s2
      | .corrected _ => .next (s2.siloCorrected l)
      | .transient _ => .next (s2.raise (siloRec sevTransient l))
      | .lasting _ =>
        let s3 := { s2 with mem := { s2.mem with pSilo := mput dFalse s2.mem.pSilo l true } }
        .next ((s3.raise { siloRec sevLasting l with flags := 9 }).repairRow (l / 16))

/-- SCRUB_PASS_BEHIND (R273): a stack's pass falls more than 10 % behind. -/
def execScrubPassBehind (stack : Fin 8) (s : State) : Out :=
  if s.rdF .SILO_STATUS stack 0 1 1 = 1 ∨ s.rdF .SILO_SCRUB 0 0 8 8 = 0 then .next s
  else .next ((s.wrF .SILO_STATUS stack 0 1 1 1).raise (errRec 0 sevTransient 6 stack 6))

/-- BANK_REFRESH (R274): a refresh slot of a bank refreshes the two rows on each side of every row that reached 1,024
activations. -/
def execBankRefresh (bank : Fin 65536) (s : State) : Out :=
  let b := bank.val
  let mine := s.tier.hot.filter fun r => decide (rowBank r = b)
  let s1 := { s with tier := { s.tier with
      hot := s.tier.hot.filter fun r => decide (rowBank r ≠ b)
      openRow := mput dNat s.tier.openRow b 0 } }
  .next (s1.inc .SILO_RH_TREFS (b / 64 % 8) 0 mine.length)

/-- ROW_REPAIR_COMPLETE (R275): the copy ends: lines the code could not correct are copied as poisoned, the row is
remapped to a spare and the repair enters the fence map. -/
def execRowRepairComplete (row : Fin 671088640) (s : State) : Out :=
  let r := row.val
  if !s.tier.fixing.contains r then .next s
  else
    let b := rowBank r
    let n := mget dNat s.tier.spares b
    let k := rowStack r
    let mine := s.tier.bad.filter fun l => decide (l / 16 = r)
    let rest := s.tier.fixing.filter (· ≠ r)
    let s1 := { s with
      tier := { s.tier with
        fixing := rest, bad := s.tier.bad.filter (fun l => decide (l / 16 ≠ r)), spares := mput dNat s.tier.spares b (n + 1), rowMap := mput dNat s.tier.rowMap r (n + 1) }
      mem := { s.mem with pSilo := mine.foldl (fun m l => mput dFalse m l true) s.mem.pSilo } }
    let s2 := (s1.wrF .SILO_STATUS k 0 0 0 (rest.any fun x => decide (rowStack x = k)).toNat).inc .SILO_REPAIRS k 0 1
    .next (s2.fenceWith 6 (rowLoc r n) { siloRec sevLasting (r * 16) with flags := if mine = [] then 1 else 9 })

end Sys2Proof.Machine
end

