-- ==== Sys2Proof/Machine/Rings.lean ====
section
/-!
DEFINITION. The command rings of the page mover, the winnower and the fabric (R277, R589): doorbells, enabling and
disabling, fetching entries, completions (R283).
-/
namespace Sys2Proof.Machine
open Sys2Proof

/-- The three kinds of ring: page mover (64), winnower (16), fabric (16). -/
inductive RingKind where
  | pm | win | hay
deriving DecidableEq, Repr

def RingKind.cfg : RingKind → Reg
  | .pm => .SILO_PMQ_CFG | .win => .WIN_Q_CFG | .hay => .HAY_Q_CFG
def RingKind.ptrs : RingKind → Reg
  | .pm => .SILO_PMQ_PTRS | .win => .WIN_Q_PTRS | .hay => .HAY_Q_PTRS
def RingKind.err : RingKind → Reg
  | .pm => .SILO_PMQ_ERR | .win => .WIN_Q_ERR | .hay => .HAY_Q_ERR
/-- Subsystem of a ring kind. -/
def RingKind.src : RingKind → Nat
  | .pm => 6 | .win => 8 | .hay => 11
def RingKind.key (k : RingKind) (q : Nat) : Nat :=
  match k with
  | .pm => q | .win => 64 + q | .hay => 128 + q

def State.ring (s : State) (k : RingKind) (q : Nat) : Qp := mget dQp s.rings (k.key q)
def State.setRing (s : State) (k : RingKind) (q : Nat) (x : Qp) : State := { s with rings := mput dQp s.rings (k.key q) x }

/-- Entries of a ring: 2^(SIZELOG2 + 4) (Table 09.10). -/
def State.ringSize (s : State) (k : RingKind) (q : Nat) : Nat := 2 ^ (s.rdF k.cfg q 0 53 50 + 4)
def State.ringBase (s : State) (k : RingKind) (q : Nat) : Nat := s.rdF k.cfg q 0 47 12 * 4096
def State.ringOn (s : State) (k : RingKind) (q : Nat) : Bool := decide (s.rdF k.cfg q 0 63 63 = 1 ∧ s.rdF k.err q 0 15 0 = 0)

/-- The owner of a ring as a requester: core, gleaner or function (Table 09.10, R268). -/
def ownerWho (okind oid : Nat) : Who :=
  match okind with
  | 0 => .core oid
  | 1 => .gleaner
  | _ => .func oid

def State.ringOwner (s : State) (k : RingKind) (q : Nat) : Who := ownerWho (s.rdF k.cfg q 0 62 61) (s.rdF k.cfg q 0 60 54)

/-- The requester of an entry: its ring's owner when it was fetched. -/
def QEnt.owner (e : QEnt) : Who := ownerWho (e.fn / 128) (e.fn % 128)

/-- Whether an agent owns a ring, or holds PL1 or above (WO, ring owner). -/
def State.ringMine (s : State) (k : RingKind) (q : Nat) (w : Agent) : Bool :=
  match s.ringOwner k q, w with
  | .core c, .core d => decide (c = d.val)
  | .func f, .func g => decide (f = g.val)
  | _, _ => false

/-- Put a ring in error (R277). -/
def State.ringError (s : State) (k : RingKind) (q status : Nat) : State := s.wrF k.err q 0 15 0 status

/-- A doorbell of a ring (R253, R254, R256, R277): ignored while the ring is off or in error. -/
def State.ringBell (s : State) (k : RingKind) (q : Nat) (v : Word) : State :=
  let n := s.ringSize k q
  let i := fld v 15 0
  let p := s.rd k.ptrs q 0
  if !s.ringOn k q then s
  else if bit v 32 then
    if i ≥ n ∨ ringDist i (fld p 63 48) n > ringDist (fld p 47 32) (fld p 63 48) n then s.ringError k q 0x0602
    else s.wrF k.ptrs q 0 63 48 i
  else if i ≥ n ∨ ringDist i (fld p 31 16) n > n - 1 - ringDist (fld p 31 16) (fld p 15 0) n then s.ringError k q 0x0602
  else s.wrF k.ptrs q 0 31 16 i

/-- BUSY (R589): entries of the ring are in flight after EN was cleared. -/
def State.ringQuiet (s : State) (k : RingKind) (q : Nat) : State :=
  s.wrF k.err q 0 16 16 (decide (s.rdF k.cfg q 0 63 63 = 0 ∧ (s.ring k q).ents ≠ [])).toNat

/-- A write to a ring's configuration that passed its privilege check (R589): the new state, or the status of its
refusal; a value out of range leaves the register unchanged. -/
def State.ringCfg (s : State) (k : RingKind) (q : Nat) (v : Word) : State × Nat :=
  let old := s.rd k.cfg q 0
  let v1 := v &&& Reg.mask k.cfg [.RW]
  let fixed := fun (x : Word) => (fld x 62 61, fld x 60 54, fld x 53 50, fld x 47 12)
  if fld v 62 61 = 3 ∨ fld v 53 50 > 8 then (s, stOK)
  else if bit old 63 then
    if fixed v ≠ fixed old then (s, stProt)
    else ((s.wr k.cfg q 0 v1).ringQuiet k q, stOK)
  else if bit v 63 then
    if s.rdF k.err q 0 16 16 = 1 then (s, stOK)
    else (((s.setRing k q Qp.reset).wr k.cfg q 0 v1).wr k.ptrs q 0 0 |>.wr k.err q 0 0, stOK)
  else (s.wr k.cfg q 0 v1, stOK)

/-- Entries of a ring in flight or not yet released. -/
def State.ringHeld (s : State) (k : RingKind) (q : Nat) : Nat :=
  let p := s.rd k.ptrs q 0
  (s.ring k q).ents.length + ringDist (fld p 47 32) (fld p 63 48) (s.ringSize k q)

/-- Fetch the next entry of a ring in order (R277). Nothing is fetched while the ring is off, in error, empty or full of
completions, or while the chip is in the FATAL state (R509). -/
def State.ringFetch (s : State) (k : RingKind) (q : Nat) : State :=
  let n := s.ringSize k q
  let p := s.rd k.ptrs q 0
  if !s.ringOn k q ∨ s.isFatal ∨ fld p 31 16 = fld p 15 0 ∨ s.ringHeld k q ≥ n - 1 then s
  else
    let a := s.ringBase k q + 64 * fld p 15 0
    match s.fetch (s.ringOwner k q) a 64 false with
    | .error st => (s.noteRefusal st k.src q a).ringError k q st
    | .ok bs =>
      let x := s.ring k q
      let h := (fld p 15 0 + 1) % n
      let e : QEnt := ⟨s.hop.no, bs, s.rdF k.cfg q 0 62 61 * 128 + s.rdF k.cfg q 0 60 54, 0, 2, 0, 0, h, s.hop.no, 0, false, 0, false, []⟩
      let s1 := ((s.countAt a 64).setRing k q { x with ents := x.ents ++ [e] }).wrF k.ptrs q 0 15 0 h
      { s1 with hop := { s1.hop with no := s1.hop.no + 1 } }

/-- The next entry of a ring to start, in ring order; a FENCE entry only when nothing earlier is in flight (R278, R280).
`sub` 0 marks an entry not started. -/
def State.ringReady (s : State) (k : RingKind) (q : Nat) : Option QEnt :=
  match (s.ring k q).ents.find? (fun e => decide (e.sub = 0)) with
  | none => none
  | some e =>
    if e.fence ∧ ((s.ring k q).ents.head?.map (·.id)) ≠ some e.id then none else some e

def State.setRingEnt (s : State) (k : RingKind) (q : Nat) (e : QEnt) : State :=
  let x := s.ring k q
  s.setRing k q { x with ents := x.ents.map fun y => if y.id = e.id then e else y }

/-- Notify the owner of a ring (R283): bit NBIT of the owning core, or the gleaner, which is told the ring; a function polls. -/
def State.ringNotify (s : State) (k : RingKind) (q : Nat) (e : QEnt) : State :=
  let b := s.rdF k.cfg q 0 11 6
  match e.owner with
  | .core c => if 8 ≤ b then s.event c (BitVec.ofNat 64 (2 ^ b)) else s
  | .gleaner => { s with gln := { s.gln with notices := mput dNat s.gln.notices (k.key q) (mget dNat s.gln.notices (k.key q) + 1) } }
  | _ => s

/-- An entry of a ring completes: its completion lands after its data and the owner is notified (R283). A completion that
cannot be written puts the ring in error. -/
def State.ringDone (s : State) (k : RingKind) (q id status result : Nat) : State :=
  let x := s.ring k q
  match x.ents.find? (fun e => decide (e.id = id)) with
  | none => s
  | some e =>
    let n := s.ringSize k q
    let t := s.rdF k.ptrs q 0 47 32
    let s1 := s.setRing k q { x with ents := x.ents.filter fun y => decide (y.id ≠ id) }
    let a := s.ringBase k q + 64 * n + 16 * t
    match s1.put e.owner a (cplBytes result (s.rdF k.ptrs q 0 15 0) e.cid status x.phase) false with
    | .error st => ((s1.noteRefusal st k.src q a).ringError k q st).ringQuiet k q
    | .ok s2 =>
      let t1 := (t + 1) % n
      let s3 := s2.wrF k.ptrs q 0 47 32 t1
      let s4 := if t1 = 0 then s3.setRing k q { s3.ring k q with phase := !x.phase } else s3
      (s4.ringNotify k q e).ringQuiet k q

end Sys2Proof.Machine
end

