-- ==== Sys2Proof/Machine/Pages.lean ====
section
/-!
DEFINITION. The engine of the winnower (chapter 10): the Ferlum lossless codec (R317 to R321), sealing (R313, R314), key
slots (R311, R543), the reach of the winnower into the lower tiers (R290, R315, R590) and page operations (R308 to R311,
R324).
-/
namespace Sys2Proof.Machine
open Sys2Proof

/-! ### The codec -/

/-- Bits of a byte, bit 7 first (R319). -/
def byteBits (b : Byte) : List Bool := (List.range 8).map fun i => b.getLsbD (7 - i)

/-- Code lengths of a length table (R319). -/
def hufLens (t : List Byte) : List Nat := (List.range 256).map fun s => nbits (lget t (s / 2) 0).toNat (4 * (s % 2) + 3) (4 * (s % 2))

/-- Symbols of each code length, in rank order. -/
def hufSyms (lens : List Nat) : List Nat :=
  (List.range 15).flatMap fun l => (List.range 256).filter fun s => decide (lget lens s 0 = l + 1)

def hufCount (lens : List Nat) (l : Nat) : Nat := (lens.filter (· = l)).length

/-- A complete code, or the single case of one symbol of length 1 (R320). -/
def hufComplete (lens : List Nat) : Bool :=
  let used := lens.filter (· ≠ 0)
  decide ((used.map fun l => 2 ^ (15 - l)).sum = 2 ^ 15) || decide (used = [1])

/-- Decode one symbol (R319); `n` lengths are left to try. -/
def hufSym (count : List Nat) (syms : List Nat) : Nat → Nat → Nat → Nat → Nat → List Bool → Option (Nat × List Bool)
  | 0, _, _, _, _, _ => none
  | _ + 1, _, _, _, _, [] => none
  | n + 1, len, code, first, index, b :: bs =>
    let c := code + b.toNat
    let k := lget count len 0
    if c - first < k ∧ first ≤ c then syms[index + (c - first)]?.map fun s => (s, bs)
    else hufSym count syms n (len + 1) (2 * c) (2 * (first + k)) (index + k) bs

/-- Decode `n` symbols; the bits that are left. -/
def hufRun (count syms : List Nat) : Nat → List Bool → Option (List Byte × List Bool)
  | 0, bs => some ([], bs)
  | n + 1, bs =>
    match hufSym count syms 15 1 0 0 0 bs with
    | none => none
    | some (s, r) => (hufRun count syms n r).map fun x => (BitVec.ofNat 8 s :: x.1, x.2)

/-- Decode a HUFF payload of a plane of `n` bytes (R319, R320). -/
def hufDecode (n : Nat) (p : List Byte) : Option (List Byte) :=
  let lens := hufLens (p.take 128)
  if p.length < 128 ∨ !hufComplete lens then none
  else
    match hufRun ((List.range 16).map (hufCount lens)) (hufSyms lens) n ((p.drop 128).flatMap byteBits) with
    | none => none
    | some (out, rest) => if rest.length ≥ 8 then none else some out

/-- Decode a plane of `n` bytes from its descriptor and payload (Table 10.2, R318, R320). -/
def planeDecode (n : Nat) (d p : List Byte) : Option (List Byte) :=
  let mode := le d 0 1
  let v := le d 1 1
  let pb := le d 4 4
  if le d 2 2 ≠ 0 then none
  else
    match mode with
    | 0 => if v = 0 ∧ pb = n then some p else none
    | 1 => if v = 0 then hufDecode n p else none
    | 2 => if pb = 0 then some (List.replicate n (BitVec.ofNat 8 v)) else none
    | _ => none

/-- Decode the planes of a page from the descriptors left and the payload bytes left. -/
def planesDecode (n : Nat) : List (List Byte) → List Byte → Option (List (List Byte))
  | [], _ => some []
  | d :: ds, p =>
    let pb := le d 4 4
    match planeDecode n d (p.take pb), planesDecode n ds (p.drop pb) with
    | some x, some xs => some (x :: xs)
    | _, _ => none

/-- Decode an FLC page of which `p` is stored (R317, R318, R320): 65,536 bytes, or none when the decode fails. -/
def flcDecode (p : List Byte) : Option (List Byte) :=
  let wc := le p 3 1
  let w := 2 ^ wc
  let n := 65536 / w
  let ds := (List.range w).map fun j => (p.drop (16 + 8 * j)).take 8
  let total := 16 + 8 * w + (ds.map fun d => le d 4 4).sum
  if le p 0 2 ≠ 0x4346 ∨ le p 2 1 ≠ 1 ∨ wc > 2 ∨ le p 8 8 ≠ 0 ∨ le p 4 4 ≠ total ∨ total > p.length then none
  else
    (planesDecode n ds (p.drop (16 + 8 * w))).map fun pl =>
      (List.range n).flatMap fun e => pl.map fun x => lget x e 0

/-- Codes of a canonical code: symbol, length, code (R319). -/
def hufCodes (lens : List Nat) : List (Nat × Nat × Nat) :=
  ((hufSyms lens).foldl (fun (a : List (Nat × Nat × Nat) × Nat × Nat) s =>
    let l := lget lens s 0
    let c := if a.1 = [] then 0 else (a.2.1 + 1) * 2 ^ (l - a.2.2)
    (a.1 ++ [(s, l, c)], c, l)) ([], 0, 0)).1

/-- Bytes of a bit string, the last one filled with zeros. -/
def packBits : Nat → List Bool → List Byte
  | 0, _ => []
  | _ + 1, [] => []
  | f + 1, bs => BitVec.ofNat 8 ((List.range 8).foldl (fun a i => 2 * a + (lget bs i false).toNat) 0) :: packBits f (bs.drop 8)

/-- HUFF payload of a plane under given code lengths. -/
def hufEncode (lens : List Nat) (x : List Byte) : List Byte :=
  let codes := hufCodes lens
  let bits := x.flatMap fun b =>
    match codes.find? (fun c => decide (c.1 = b.toNat)) with
    | some (_, l, c) => (List.range l).map fun i => nbit c (l - 1 - i)
    | none => []
  (List.range 128).map (fun i => BitVec.ofNat 8 (lget lens (2 * i) 0 % 16 + lget lens (2 * i + 1) 0 % 16 * 16)) ++
    packBits (bits.length / 8 + 1) bits

/-- Encode a plane (R321): descriptor and payload. The code is a free value `f`; lengths that are no complete code of the
plane's symbols stand for one that makes HUFF no shorter than RAW. -/
def planeEncode (f : Nat) (x : List Byte) : List Byte × List Byte :=
  let n := x.length
  let desc := fun (m v pb : Nat) => natToBytes 1 m ++ natToBytes 1 v ++ [0, 0] ++ natToBytes 4 pb
  if x.all (fun b => decide (b = lget x 0 0)) then (desc 2 (lget x 0 0).toNat 0, [])
  else
    let lens := (List.range 256).map fun s => (Config.freeByte f s).toNat % 16
    let p := hufEncode lens x
    if hufComplete lens && x.all (fun b => decide (lget lens b.toNat 0 ≠ 0)) && decide (p.length < n) then (desc 1 0 p.length, p)
    else (desc 0 0 n, x)

/-- Encode 65,536 bytes as an FLC page (R317, R321). -/
def flcEncode (f wc : Nat) (x : List Byte) : List Byte :=
  let w := 2 ^ wc
  let n := 65536 / w
  let pl := (List.range w).map fun j => planeEncode (f + j) ((List.range n).map fun e => lget x (e * w + j) 0)
  let body := pl.flatMap (·.1) ++ pl.flatMap (·.2)
  natToBytes 2 0x4346 ++ [1] ++ natToBytes 1 wc ++ natToBytes 4 (16 + body.length) ++ List.replicate 8 0 ++ body

/-! ### Sealing -/

/-- The IV of a page (R313). -/
def pageIv (obj page ver : Nat) : List Byte := beBytes 4 obj ++ beBytes 4 page ++ beBytes 4 ver

/-- Open a sealed page (R310, R314): plaintext, or 1 for a tag failure, 2 for a decode failure. -/
def openSealed (key : List Byte) (enc : Bool) (iv p : List Byte) : Except Nat (List Byte) :=
  let ct := p.take (p.length - 16)
  if enc ∧ (p.length < 16 ∨ gcmTag key iv [] ct ≠ p.drop (p.length - 16)) then .error 1
  else
    match flcDecode (if enc then gcmCrypt key iv ct else p) with
    | none => .error 2
    | some x => .ok x

/-- Seal a page (R313, R314). -/
def sealPage (key : List Byte) (enc : Bool) (iv flc : List Byte) : List Byte :=
  if enc then
    let ct := gcmCrypt key iv flc
    ct ++ gcmTag key iv [] ct
  else flc

/-! ### Key slots -/

def stCorrupt : Nat := 0x0901
def stWinBad : Nat := 0x090B

/-- Whether a requester (kind x 128 + number) holds PL1: function 0, or a core whose PL reads 1. -/
def State.ownerPl1 (s : State) (fn : Nat) : Bool :=
  decide (fn = 256 ∨ (fn < 128 ∧ s.rdF .BND_CTX fn 0 63 62 = 1))

/-- Whether a key slot admits a requester for a use (R311, R543): bit 59 OPEN, 60 SEAL, 61 VERIFY. -/
def State.slotAdmits (s : State) (slot fn useBit : Nat) : Bool :=
  let k := s.rd .HSP_KSLOT_A slot 0
  bit k useBit &&
    match fld k 55 54 with
    | 0 => decide (fn < 128 ∧ fld k 53 47 = fn)
    | 1 => decide (fn / 128 = 1)
    | 2 => decide (fn / 128 = 2 ∧ fld k 53 47 = fn % 128)
    | _ => s.ownerPl1 fn || decide (fn / 128 = 1)

def State.slotKey (s : State) (slot : Nat) : List Byte := mget dNil s.hasp.keys slot

/-! ### Lower tiers -/

/-- The identity of a page operation's requester. -/
def opIds (fn : Nat) : List Who := [ownerWho (fn / 128) (fn % 128)]

/-- The identity of a load (R590): for a core its plots, its slice contexts and its function. -/
def State.loadIds (s : State) (fn : Nat) : List Who :=
  if fn < 128 then
    .core fn :: .func (s.rdF .BND_CTX fn 0 54 48) ::
      ((List.range 16).filter fun x => nbit (s.rdF .BND_CTX fn 0 31 16) x).map .slice
  else opIds fn

/-- What lower-tier bytes [a, a + n) name for the winnower (R289, R290, R308, R315): a granary extent that grants the
identity, sealed only for an encrypted page, or the identity's host window. -/
def State.lowerLoc (s : State) (ids : List Who) (a n : Nat) (wr enc : Bool) : Except Nat Loc :=
  if 0x100000000000 ≤ a ∧ a + n ≤ 0x200000000000 ∧ n ≠ 0 then
    let y := a - 0x100000000000
    match s.extentOf y with
    | none => .error stProt
    | some x =>
      let e := s.rd .GRN_EXTA x 0
      let b := s.rd .GRN_EXTB x 0
      if s.extentOf (y + n - 1) ≠ some x ∨ (!bit e 62 ∧ !enc) then .error stProt
      else if !ids.any (fun w => s.grants w (bit e 61) (bit e 60) (fld e 54 48) (fld b 15 0) (fld b 31 16) false) then .error stProt
      else if wr ∧ (y % 256 ≠ 0 ∨ n % 256 ≠ 0) then .error stAlign
      else .ok (.gran (s.granKey x y))
  else if 0x200000000000 ≤ a then
    (ids.findSome? fun w => match s.resolve w a n wr false false with
      | .ok l => some (Except.ok l)
      | .error _ => none).getD (.error stProt)
  else .error stProt

/-- Bytes of a lower tier, or the status of the read (R590, R247, R294). -/
def State.lowerRead (s : State) (ids : List Who) (a n : Nat) (enc : Bool) : Except Nat (List Byte) :=
  match s.lowerLoc ids a n false enc with
  | .error e => .error e
  | .ok l => if s.media a l n false ≠ 0 then .error (s.media a l n false) else .ok (s.readLoc a l n)

/-! ### Page operations -/

def State.setWin (s : State) (w : WinSt) : State := { s with win := w }

/-- Inbound or outbound pages in flight: at most 256 of each (R309). -/
def State.pagesFull (s : State) (out : Bool) : Bool := decide ((s.win.pages.filter fun p => p.out = out).length ≥ 256)

/-- The status that refuses a page operation at its start (R311, R315), 0 when none does. -/
def State.pageRefused (s : State) (p : WPage) (slot : Nat) (frame : Bool) : Nat :=
  let need := if p.out then 256 else p.slen
  if p.enc ∧ !s.slotAdmits slot p.fn (if p.out then 60 else 59) then stProt
  else
    match s.lowerLoc (opIds p.fn) p.lower need p.out p.enc with
    | .error e => e
    | .ok _ =>
      if frame ∨ (opIds p.fn).any (fun w => s.siloOk w p.silo 65536 (!p.out) false) then 0 else stProt

/-- Start a page operation: it reads its key and is counted (R311, Table 10.13). -/
def State.pageBegin (s : State) (p : WPage) (slot : Nat) : State :=
  let s1 := s.inc (if p.out then .WIN_OUT_PAGES else .WIN_IN_PAGES) 0 0 1
  s1.setWin { s1.win with
    no := s1.win.no + 1
    pages := s1.win.pages ++ [{ p with id := s1.win.no, key := if p.enc then s1.slotKey slot else [] }] }

def State.pageDrop (s : State) (id : Nat) : State := s.setWin { s.win with pages := s.win.pages.filter fun p => decide (p.id ≠ id) }

/-- Slots of the intake's ring (Tables 10.11, 10.12). -/
def State.winSlots (s : State) : List Nat :=
  (List.range (s.rdF .WIN_CTL 0 0 13 8)).map fun i => nbits (s.rd .WIN_RING 0 0).toNat (2 * i + 1) (2 * i)

/-- The requester of the intake that brings a page (R312): 0 granary inbound, 1 hopper inbound, 2 outbound. -/
def WPage.asker (p : WPage) : Nat := if p.out then 2 else if p.lower < 0x200000000000 then 0 else 1

/-- The plot a page operation is asked for: that of the core that owns its ring (R236). -/
def State.pagePlot (s : State) (p : WPage) : Option Nat :=
  if p.fn < 128 ∧ s.rdF .BND_CTX p.fn 0 15 15 = 1 then some (s.rdF .BND_CTX p.fn 0 11 8) else none

/-- A page reaches the intake beside the rivals of the same cycle (R312): the state that goes on when it wins, or the one in which it
waits, charged to its plot when a rival of another plot won (R213). -/
def State.winIntake (s : State) (p : WPage) (rivals : List Rival) : Bool × State :=
  let slots := s.winSlots
  match ringGrant slots s.win.ringPtr fun w => decide (w = p.asker) || rivals.any fun r => decide (r.idx = w) with
  | none => (false, s)
  | some i =>
    if slots[i]? = some p.asker then (true, { s with win := { s.win with ringPtr := (i + 1) % slots.length } })
    else (false, s.waitFor .SEED_PLOT_STALL_WIN (s.pagePlot p) ((rivals.find? fun r => slots[i]? = some r.idx).bind Rival.plotNo))

/-- A record of a page's failure (Table 16.1, structure 0x0C). -/
def pageRec (sev : Nat) (p : WPage) : ErrRec := (errRec stCorrupt sev 8 0 0xC).withAddr p.lower

/-- An inbound page has arrived (R310, R324): its final status, or none when it is read once more. The page is written
whole or not at all. -/
def State.inbound (s : State) (p : WPage) (fail : Nat) : Option Nat × State :=
  let bad := fun (t : State) (st : Nat) => (some st, (t.inc .WIN_IN_FAIL 0 0 1).pageDrop p.id)
  if s.isFatal then bad s stFatal
  else if fail ≠ 0 then bad s fail
  else
    match s.lowerRead (opIds p.fn) p.lower p.slen p.enc with
    | .error st => bad (s.noteRefusal st 8 0 p.lower) st
    | .ok bs =>
      match openSealed p.key p.enc (pageIv p.obj p.page p.ver) bs with
      | .error k =>
        let s1 := s.inc (if k = 1 then .WIN_AUTH_FAIL else .WIN_FLC_FAIL) 0 0 1
        if p.again then bad (s1.raise (pageRec sevLasting p)) stCorrupt
        else (none, s1.setWin { s1.win with pages := s1.win.pages.map fun x => if x.id = p.id then { x with again := true } else x })
      | .ok x =>
        if s.media p.silo (.silo p.silo) 65536 true ≠ 0 then bad s (s.media p.silo (.silo p.silo) 65536 true)
        else
          let s1 := if p.again then s.raise (pageRec sevTransient p) else s
          (some stOK, (((s1.writeSilo p.silo x).inc .WIN_IN_OK 0 0 1).pageDrop p.id))

/-- An outbound page (R308, R314, R321): status, stored length, state. -/
def State.outbound (s : State) (p : WPage) (fail : Nat) : Nat × Nat × State :=
  let bad := fun (st : Nat) => (st, 0, (s.inc .WIN_OUT_FAIL 0 0 1).pageDrop p.id)
  let m := s.media p.silo (.silo p.silo) 65536 false
  if s.isFatal then bad stFatal
  else if fail ≠ 0 then bad fail
  else if m ≠ 0 then bad m
  else
    let flc := flcEncode s.free p.wcode (s.load .silo p.silo 65536)
    let sealed := sealPage p.key p.enc (pageIv p.obj p.page p.ver) flc
    let n := roundUp sealed.length 256
    match s.lowerLoc (opIds p.fn) p.lower n true p.enc with
    | .error st => bad st
    | .ok l =>
      if s.media p.lower l n true ≠ 0 then bad (s.media p.lower l n true)
      else
        let s1 := ({ s with free := s.free + 4 }.countSilo .SILO_RD_BYTES p.silo 65536).writeLoc p.lower l
          (sealed ++ List.replicate (n - sealed.length) 0)
        (stOK, sealed.length, ((s1.inc .WIN_OUT_OK 0 0 1).inc .WIN_OUT_BYTES 0 0 sealed.length).pageDrop p.id)

end Sys2Proof.Machine
end

