-- ==== Sys2Proof/Machine/Mover.lean ====
section
/-!
DEFINITION. The page mover, the format converter, dirty tracking and the cache directory (R277 to R287, R302 to R307).
-/
namespace Sys2Proof.Machine
open Sys2Proof

/-- PM_DESC_BAD (Table 09.18). -/
def stPmBad : Nat := 0x0703

def QEnt.npages (e : QEnt) : Nat := e.handle
def QEnt.flags (e : QEnt) : Nat := le e.bytes 1 1

/-! ### Checks of an entry -/

/-- Arguments an operation uses, and whether it uses NPAGES and CLEAR (Table 09.5). -/
def pmUses (op : Nat) : Option (List Nat × Bool × Bool) :=
  match op with
  | 0x01 => some ([0, 1, 2], false, false)
  | 0x02 | 0x03 => some ([0, 1], true, false)
  | 0x04 => some ([0, 1, 2, 3, 4, 5], false, false)
  | 0x05 => some ([1, 2, 5], false, false)
  | 0x06 => some ([0, 1], true, true)
  | 0x07 => some ([0, 1], true, false)
  | 0x10 => some ([0, 1, 2, 3], false, false)
  | 0x11 => some ([0], false, false)
  | 0x12 => some ([1, 2, 3], false, false)
  | _ => none

/-- Undefined OP or a nonzero unused field (R278). -/
def QEnt.pmMalformed (e : QEnt) : Bool :=
  match pmUses e.opc with
  | none => true
  | some (args, np, cl) =>
    ((List.range 7).any fun k => !args.contains k && decide (e.arg k ≠ 0)) || (!np && decide (e.npages ≠ 0)) ||
    decide (e.flags > 3) || (!cl && nbit e.flags 1)

/-- The converter's format word (Table 09.6). -/
structure Conv where
  sf : Nat
  df : Nat
  rtz : Bool
  smx : Bool
  dmx : Bool
  sat : Bool
deriving DecidableEq, Repr

def convOf (w : Nat) : Conv := ⟨nbits w 3 0, nbits w 7 4, nbit w 8, nbit w 9, nbit w 10, nbit w 11⟩

/-- Formats an MX tensor may have, and formats that must be MX (R34). -/
def mxFmt (f : Nat) : Bool := decide ((3 ≤ f ∧ f ≤ 7) ∨ f = 9)
def mxOnly (f : Nat) : Bool := decide (5 ≤ f ∧ f ≤ 7)

/-- A CONVERT that R281 or Table 09.6 refuses. -/
def QEnt.convBad (e : QEnt) : Bool :=
  let c := convOf (e.arg 5)
  decide (e.arg 5 ≥ 4096 ∨ c.sf > 10 ∨ c.df > 10) || (c.smx && !mxFmt c.sf) || (c.dmx && !mxFmt c.df) ||
  (!c.smx && mxOnly c.sf) || (!c.dmx && mxOnly c.df) || ((c.smx || c.dmx) && decide (e.arg 2 % 32 ≠ 0)) ||
  (!c.smx && decide (e.arg 3 ≠ 0)) || (!c.dmx && decide (e.arg 4 ≠ 0)) ||
  decide (e.arg 0 % 64 ≠ 0 ∨ e.arg 1 % 64 ≠ 0 ∨ e.arg 3 % 64 ≠ 0 ∨ e.arg 4 % 64 ≠ 0)

/-- Bytes of `n` elements. -/
def elemBytes (f n : Nat) : Nat := ceilDiv (n * fmtBits f) 8

/-- Lengths, alignments and overlaps that make an entry malformed (Table 09.5). -/
def QEnt.pmBad (e : QEnt) : Bool :=
  let a := e.arg 0
  let b := e.arg 1
  let n := e.arg 2
  let np := e.npages
  e.pmMalformed ||
  match e.opc with
  | 0x01 => decide (n = 0 ∨ n % 64 ≠ 0 ∨ n > 2 ^ 32 ∨ a % 64 ≠ 0 ∨ b % 64 ≠ 0 ∨ (a < b + n ∧ b < a + n))
  | 0x02 | 0x03 => decide (np = 0 ∨ np > 4096 ∨ a % 65536 ≠ 0 ∨ b % 65536 ≠ 0)
  | 0x04 => e.convBad
  | 0x05 => decide (n % 64 ≠ 0 ∨ b % 64 ≠ 0)
  | 0x06 | 0x07 => decide (a % 65536 ≠ 0 ∨ b % 65536 ≠ 0)
  | 0x10 => decide (e.arg 3 ≥ 2 ^ 20 ∨ nbits (e.arg 3) 15 12 ≠ 0 ∨ e.arg 2 ≥ 2 ^ 56 ∨ a % 256 ≠ 0)
  | 0x12 => decide (b ≥ 2 ^ 32 ∨ n ≥ 2 ^ 32 ∨ nbits (e.arg 3) 63 20 ≠ 0 ∨ nbits (e.arg 3) 15 0 ≠ 0)
  | _ => false

/-- The status that refuses bytes [a, a + n) to a requester, checked page by page; 0 when all are granted (R268, R279). -/
def State.rangeBad (s : State) (w : Who) (a n : Nat) (wr : Bool) : Nat :=
  if n = 0 then 0
  else
    (((List.range ((a + n - 1) / 65536 - a / 65536 + 1)).map fun k =>
      let lo := max a ((a / 65536 + k) * 65536)
      let hi := min (a + n) ((a / 65536 + k + 1) * 65536)
      if 0x200000000000 ≤ a then stProt
      else match s.resolve w lo (hi - lo) wr false false with
        | .ok _ => 0
        | .error e => e).find? (· ≠ 0)).getD 0

/-- Page addresses of a GATHER or SCATTER list held behind the entry. -/
def QEnt.listed (e : QEnt) (j : Nat) : Nat := le e.bytes (64 + 8 * j) 8

/-- Ranges an entry reads and writes: address, length, write. -/
def QEnt.ranges (e : QEnt) : List (Nat × Nat × Bool) :=
  let a := e.arg 0
  let b := e.arg 1
  let n := e.arg 2
  let np := e.npages
  let c := convOf (e.arg 5)
  match e.opc with
  | 0x01 => [(a, n, false), (b, n, true)]
  | 0x02 => ((List.range np).map fun j => (e.listed j, 65536, false)) ++ [(b, 65536 * np, true)]
  | 0x03 => [(b, 65536 * np, false)] ++ (List.range np).map fun j => (e.listed j, 65536, true)
  | 0x04 => [(a, elemBytes c.sf n, false), (b, elemBytes c.df n, true)] ++
            (if c.smx then [(e.arg 3, n / 32, false)] else []) ++ (if c.dmx then [(e.arg 4, n / 32, true)] else [])
  | 0x05 => [(b, n, true)]
  | 0x06 => [(a, 65536 * np, false), (b, ceilDiv np 8, true)]
  | 0x07 => [(a, 65536 * np, false), (b, 65536 * np, true)]
  | _ => []

/-- Bytes of a block of 32 elements. -/
def blockBytes (f : Nat) : Nat := 4 * fmtBits f

/-- The blocks of 32 elements of a CONVERT that its piece `i` makes: those whose first byte lies in the piece's page of the
destination (log entry 69). -/
def QEnt.convBlocks (e : QEnt) (i : Nat) : Nat × Nat :=
  let b := e.arg 1
  let w := blockBytes (convOf (e.arg 5)).df
  let at_ := fun a => min (ceilDiv (e.arg 2) 32) (ceilDiv (max b a - b) w)
  (at_ ((b / 65536 + i) * 65536), at_ ((b / 65536 + i + 1) * 65536))

/-- Elements from the first of block `lo` to the end of block `hi`. -/
def QEnt.convElems (e : QEnt) (lo hi : Nat) : Nat := min (e.arg 2) (32 * hi) - 32 * lo

/-- Bytes of the destination. -/
def QEnt.dstBytes (e : QEnt) : Nat :=
  match e.opc with
  | 0x01 | 0x05 => e.arg 2
  | 0x04 => elemBytes (convOf (e.arg 5)).df (e.arg 2)
  | 0x06 => ceilDiv e.npages 8
  | _ => 65536 * e.npages

/-- Pieces of an entry (R280): 64 KiB of destination each. -/
def QEnt.pieces (e : QEnt) : Nat :=
  if e.dstBytes = 0 then 0 else if e.opc = 0x03 then e.npages else (e.arg 1 + e.dstBytes - 1) / 65536 - e.arg 1 / 65536 + 1

/-- Destination of piece `i`: address and bytes. -/
def QEnt.dst (e : QEnt) (i : Nat) : Nat × Nat :=
  let b := e.arg 1
  let lo := max b ((b / 65536 + i) * 65536)
  let hi := min (b + e.dstBytes) ((b / 65536 + i + 1) * 65536)
  match e.opc with
  | 0x03 => (e.listed i, 65536)
  | 0x04 =>
    let k := e.convBlocks i
    let c := convOf (e.arg 5)
    (b + blockBytes c.df * k.1, elemBytes c.df (e.convElems k.1 k.2))
  | _ => (lo, hi - lo)

/-- Source of piece `i`: address and bytes; none of a FILL or a DIRTY_GET. -/
def QEnt.srcOf (e : QEnt) (i : Nat) : Nat × Nat :=
  let a := e.arg 0
  match e.opc with
  | 0x01 => (a + ((e.dst i).1 - e.arg 1), (e.dst i).2)
  | 0x02 => (e.listed i, 65536)
  | 0x03 => (e.arg 1 + 65536 * i, 65536)
  | 0x04 =>
    let k := e.convBlocks i
    let c := convOf (e.arg 5)
    (a + blockBytes c.sf * k.1, elemBytes c.sf (e.convElems k.1 k.2))
  | 0x07 => (a + 65536 * i, 65536)
  | _ => (0, 0)

/-- Whose base die makes piece `i` (R280): the stack of its destination, 8 for one outside the silo. -/
def QEnt.die (e : QEnt) (i : Nat) : Nat := if (e.dst i).1 < 0xA000000000 then siloStack (e.dst i).1 else 8

/-- Pieces still to do that are next on their base die: each die makes its pieces in order (R280). -/
def QEnt.nextOn (e : QEnt) (d : Nat) : Option Nat :=
  (List.range e.pieces).find? fun i => decide (e.die i = d) && !e.done.contains i

/-- Start the next entry of a page-mover ring when it has this opcode: a malformed one completes with PM_DESC_BAD, one
that a check refuses with its status and nothing written; the list of a GATHER or SCATTER is read whole (R279). -/
def State.pmStart (s : State) (q op : Nat) : Out :=
  match s.ringReady .pm q with
  | none => .next s
  | some e =>
    if e.opc ≠ op then .next s
    else if e.pmBad then .next (s.ringDone .pm q e.id stPmBad 0)
    else
      let lst : Except Nat (List Byte) := if op = 2 ∨ op = 3 then s.fetch e.owner (e.arg 0) (8 * e.npages) false else .ok []
      match lst with
      | .error st => .next ((s.noteRefusal st 6 q (e.arg 0)).ringDone .pm q e.id st 0)
      | .ok l =>
        let e1 := { e with bytes := e.bytes ++ l, sub := 1 }
        if (op = 2 ∨ op = 3) ∧ (List.range e.npages).any (fun j => decide (e1.listed j % 65536 ≠ 0)) then
          .next (s.ringDone .pm q e.id stPmBad 0)
        else if op = 6 ∧ e.arg 0 + 65536 * e.npages > 0xA000000000 ∨ op = 7 ∧ e.arg 0 + 65536 * e.npages > 0xA000000000 then
          .next ((s.raiseProt 6 q (e.arg 0)).ringDone .pm q e.id stProt 0)
        else
          match ((e1.ranges.map fun r => (r.1, s.rangeBad e.owner r.1 r.2.1 r.2.2)).find? fun x => decide (x.2 ≠ 0)) with
          | some x => .next ((s.noteRefusal x.2 6 q x.1).ringDone .pm q e.id x.2 0)
          | none =>
            let s1 := s.setRingEnt .pm q e1
            .next (if e1.pieces = 0 then s1.ringDone .pm q e.id stOK 0 else s1)

/-- PMQ_ENTRY_FETCH (R277, R278). -/
def execPmqEntryFetch (ring : Fin 64) (s : State) : Out :=
  let s1 := s.ringFetch .pm ring
  match s1.ringReady .pm ring with
  | some e => .next (if e.pmMalformed then s1.ringDone .pm ring e.id stPmBad 0 else s1)
  | none => .next s1

def execPmCopy (ring : Fin 64) (s : State) : Out := s.pmStart ring 0x01
def execGather (ring : Fin 64) (s : State) : Out := s.pmStart ring 0x02
def execScatter (ring : Fin 64) (s : State) : Out := s.pmStart ring 0x03
def execConvert (ring : Fin 64) (s : State) : Out := s.pmStart ring 0x04
def execPmFill (ring : Fin 64) (s : State) : Out := s.pmStart ring 0x05
def execDirtyGet (ring : Fin 64) (s : State) : Out := s.pmStart ring 0x06
def execWriteback (ring : Fin 64) (s : State) : Out := s.pmStart ring 0x07

/-! ### Pieces -/

/-- One moved range, as (status, state): both sides were checked when the entry started (R269, R279). -/
def State.moveRange (s : State) (w : Who) (a b n : Nat) : Nat × State :=
  match State.readAt w 16 s a n with
  | .error e => (e, s)
  | .ok bs => State.writeAt w 16 (s.countAt a n) b bs

/-- Convert a block of `n` elements packed in `x` (R33, R37 to R42, R281): the packed result and its scale byte. -/
def convBlock (c : Conv) (n x scale : Nat) : Nat × Nat :=
  let vals := (List.range n).map fun i =>
    let v := x / 2 ^ (i * fmtBits c.sf) % 2 ^ fmtBits c.sf
    if c.smx then mxValue (mxOf c.sf) scale v else elemVal c.sf v
  let ctx : RCtx := ⟨if c.rtz then .rtz else .rne, false, c.sat, false, 0⟩
  let e := if c.dmx then mxScale (mxOf c.df) vals else 0
  let out := fun v => if c.dmx then (mxQuantNan c.df (mxOf c.df) ctx e v).1 else (elemOf ctx c.df v).1
  ((List.range n).foldl (fun a i => a + out (lget vals i .nan) % 2 ^ fmtBits c.df * 2 ^ (i * fmtBits c.df)) 0, e)

/-- The converted blocks of a piece: `bs` its source elements, `sc` its source scales. -/
def convBlocksOf (c : Conv) (n : Nat) (bs sc : List Byte) : List (List Byte × Byte) :=
  (List.range (ceilDiv n 32)).map fun k =>
    let m := min 32 (n - 32 * k)
    let r := convBlock c m (bytesToNat ((bs.drop (blockBytes c.sf * k)).take (elemBytes c.sf m))) (lget sc k 0).toNat
    (natToBytes (elemBytes c.df m) r.1, BitVec.ofNat 8 r.2)

/-- Piece `i` of a CONVERT: its elements, then its scales where the destination is MX. -/
def State.convPiece (s : State) (e : QEnt) (i : Nat) : Nat × State :=
  let c := convOf (e.arg 5)
  let k := e.convBlocks i
  let nb := k.2 - k.1
  let src := e.srcOf i
  let scales := if c.smx then State.readAt e.owner 16 s (e.arg 3 + k.1) nb else .ok []
  match State.readAt e.owner 16 s src.1 src.2, scales with
  | .error st, _ => (st, s)
  | _, .error st => (st, s)
  | .ok bs, .ok sc =>
    let s0 := s.countAt src.1 src.2
    let s1 := if c.smx then s0.countAt (e.arg 3 + k.1) nb else s0
    let out := convBlocksOf c (e.convElems k.1 k.2) bs sc
    let r := State.writeAt e.owner 16 s1 (e.dst i).1 (out.flatMap (·.1))
    if r.1 = 0 ∧ c.dmx then State.writeAt e.owner 16 r.2 (e.arg 4 + k.1) (out.map (·.2)) else r

/-- Whether a silo page is dirty, and setting its bit (R285). -/
def State.isDirty (s : State) (page : Nat) : Bool := mget dFalse s.mem.dirty page
def State.setDirty (s : State) (page : Nat) (b : Bool) : State := { s with mem := { s.mem with dirty := mput dFalse s.mem.dirty page b } }

/-- Piece `i` of a DIRTY_GET (R287): its part of the bitmap and how many of those pages are dirty; CLEAR empties the bits as they
are read. -/
def State.dirtyGet (s : State) (e : QEnt) (i : Nat) : Nat × State × Nat :=
  let p0 := e.arg 0 / 65536 + 524288 * i
  let n := min 524288 (e.npages - 524288 * i)
  let d := (List.range n).map fun j => s.isDirty (p0 + j)
  let s1 := if nbit e.flags 1 then (List.range n).foldl (fun t j => t.setDirty (p0 + j) false) s else s
  let v := (List.range n).foldl (fun a j => a + (lget d j false).toNat * 2 ^ j) 0
  let r := State.writeAt e.owner 16 s1 (e.dst i).1 (natToBytes (ceilDiv n 8) v)
  (r.1, r.2, if r.1 = 0 then (d.filter id).length else 0)

/-- WRITEBACK of one page (R286): a dirty page's bit clears as the page is read, then the page is copied. -/
def State.writeback (s : State) (e : QEnt) (j : Nat) : Nat × State × Nat :=
  let a := (e.srcOf j).1
  if s.isDirty (a / 65536) then
    let r := (s.setDirty (a / 65536) false).moveRange e.owner a (e.dst j).1 65536
    (r.1, r.2, (decide (r.1 = 0)).toNat)
  else (0, s, 0)

/-- Perform piece `i` of an entry: status, state, units written. -/
def State.piece (s : State) (e : QEnt) (i : Nat) : Nat × State × Nat :=
  let d := e.dst i
  let unit := fun (r : Nat × State) (u : Nat) => (r.1, r.2, if r.1 = 0 then u else 0)
  match e.opc with
  | 0x01 => unit (s.moveRange e.owner (e.srcOf i).1 d.1 d.2) d.2
  | 0x02 | 0x03 => unit (s.moveRange e.owner (e.srcOf i).1 d.1 65536) 1
  | 0x04 => unit (s.convPiece e i) (e.convElems (e.convBlocks i).1 (e.convBlocks i).2)
  | 0x05 =>
    unit (State.writeAt e.owner 16 s d.1 ((List.range d.2).map fun k => lget (natToBytes 8 (e.arg 5)) ((d.1 - e.arg 1 + k) % 8) 0)) d.2
  | 0x06 => s.dirtyGet e i
  | _ => s.writeback e i

/-- Whether piece `i` waits for a row that is being repaired (R275). -/
def State.pieceWaits (s : State) (e : QEnt) (i : Nat) : Bool :=
  [e.srcOf i, e.dst i].any fun r => decide (0 < r.2 ∧ r.1 + r.2 ≤ 0xA000000000) && s.rowBusy r.1 r.2

/-- A command whose read or granary access failed stops (R282): the pieces in progress on the other base dies `dies` finish, and
the entry completes with the failure; RESULT counts the whole units written. -/
def State.pmStop (s : State) (q : Nat) (e : QEnt) (i st : Nat) (dies : List Nat) : State :=
  let rest := (dies.eraseDups.filter fun d => decide (d ≠ e.die i)).filterMap e.nextOn
  let r := rest.foldl (fun (a : State × Nat) j =>
    let x := a.1.piece e j
    (x.2.1, a.2 + x.2.2)) (s, e.result)
  (r.1.noteRefusal st 6 q (e.arg 1)).ringDone .pm q e.id st r.2

/-- PM_PIECE_DONE (R272, R280, R282): a piece of the k-th started entry of a ring ends, if it is the next one of its base die. Of
its reads of the silo, the line numbered `line` from the source's first has these symbols in error at the read and at its single
repeat; `fail` is the status of a read from elsewhere whose repeat has failed too; `dies` are the base dies with a piece of the
same entry in progress. -/
def execPmPieceDone (ring : Fin 64) (k piece line : Nat) (first again : List (Fin 36)) (fail : Option (BitVec 16)) (dies : List Nat)
    (s : State) : Out :=
  let q := ring.val
  let busy := (s.ring .pm q).ents.filter fun e => decide (0 < e.sub ∧ e.opc < 0x10)
  match busy[k]? with
  | none => .next s
  | some e =>
    if s.isFatal then .next (s.ringDone .pm q e.id stFatal e.result)
    else if e.nextOn (e.die piece) ≠ some piece ∨ s.pieceWaits e piece then .next s
    else
      let src := e.srcOf piece
      let inSilo := decide (0 < src.2 ∧ src.1 + src.2 ≤ 0xA000000000)
      let ecc := if inSilo then symEcc first again else .clean
      let s0 := if inSilo then s.siloErr (src.1 / 64 + line % (ceilDiv src.2 64)) ecc else s
      let st0 := match ecc with
        | .lasting _ => stMedia
        | _ => (fail.map BitVec.toNat).getD 0
      if st0 ≠ 0 then .next (s0.pmStop q e piece st0 dies)
      else
        let r := s0.piece e piece
        let e1 := { e with done := e.done ++ [piece], result := e.result + r.2.2 }
        if r.1 ≠ 0 then .next (r.2.1.pmStop q e1 piece r.1 dies)
        else if e1.done.length ≥ e.pieces then .next (r.2.1.ringDone .pm q e.id stOK e1.result)
        else .next (r.2.1.setRingEnt .pm q e1)

/-! ### Cache directory -/

def dFrame (_ : Nat) : Option Frame := none

/-- Key of a frame: region x 2^20 + number. -/
def State.frame (s : State) (k : Nat) : Option Frame := mget dFrame s.tier.frames k
def State.setFrame (s : State) (k : Nat) (f : Option Frame) : State :=
  { s with tier := { s.tier with frames := mput dFrame s.tier.frames k f } }

/-- Local address of a frame. -/
def State.frameAddr (s : State) (k : Nat) : Nat := (s.rdF .SILO_CACHE (k / 2 ^ 20) 0 23 0 + k % 2 ^ 20) * 65536

/-- Frames of a region in use, as (key, frame). -/
def State.regionFrames (s : State) (c : Nat) : List (Nat × Frame) :=
  s.tier.frames.filterMap fun p => if p.1 / 2 ^ 20 = c then p.2.map fun f => (p.1, f) else none

/-- Frames of a region. -/
def State.regionSize (s : State) (c : Nat) : Nat := s.rdF .SILO_CACHE c 0 43 24 + 1

/-- Frames of a region that are free, by key. -/
def State.freeFrames (s : State) (c : Nat) : List Nat :=
  let used := (s.regionFrames c).map (·.1)
  ((List.range (s.regionSize c)).map fun i => c * 2 ^ 20 + i).filter fun k => !used.contains k

/-- A frame for a miss (R304): a free one, at most 1,048,576 being in use in all (R302), else the VALID unpinned one of greatest use
age. -/
def State.takeFrame (s : State) (c : Nat) : Option Nat × State :=
  match s.pickFrom (if s.tier.frames.length < 1048576 then s.freeFrames c else []) with
  | (some k, t) => (some k, t)
  | (none, t) =>
    ((((s.regionFrames c).filter fun p => decide (p.2.pins = 0 ∧ !p.2.filling ∧ !p.2.stale)).foldl (fun (b : Option (Nat × Frame)) p => match b with
      | none => some p
      | some q => some (if p.2.used < q.2.used then p else q)) none).map (·.1), t)

/-- CLOOKUP (R303, R304, R305): a VALID frame completes at once; a FILLING one is pinned and waited for; a miss takes a
frame and starts its fill, an inbound page operation of the winnower; one that a check refuses frees the frame. `sub` holds the frame waited for, + 1. -/
def execClookup (ring : Fin 64) (rivals : List Rival) (s : State) : Out :=
  let q := ring.val
  match s.ringReady .pm q with
  | none => .next s
  | some e =>
    if e.opc ≠ 0x10 then .next s
    else
      let c := nbits (e.arg 3) 19 16
      if e.pmBad ∨ s.rdF .SILO_CACHE c 0 63 63 = 0 then .next (s.ringDone .pm q e.id stPmBad 0)
      else
        let hit := (s.regionFrames c).find? fun p => decide (!p.2.stale ∧ p.2.obj = e.arg 1 % 2 ^ 32 ∧ p.2.page = e.arg 1 / 2 ^ 32 ∧ p.2.ver = e.arg 2 % 2 ^ 32)
        match hit with
        | some (k, f) =>
          let s1 := s.setFrame k (some { f with pins := f.pins + 1, used := s.time })
          if f.filling then .next (s1.setRingEnt .pm q { e with sub := k + 1 })
          else .next (s1.ringDone .pm q e.id stOK (s.frameAddr k))
        | none =>
          if s.pagesFull false then .next s
          else
            match s.takeFrame c with
            | (none, _) => .next (s.ringDone .pm q e.id 0x0705 0)
            | (some k, t) =>
              let p : WPage := ⟨0, e.fn, 16, k, false, e.arg 0, t.frameAddr k, e.arg 1 % 2 ^ 32, e.arg 1 / 2 ^ 32, e.arg 2 % 2 ^ 32, e.arg 2 / 2 ^ 32, true, 0, [], false⟩
              let st := t.pageRefused p (e.arg 3 % 4096) true
              if st ≠ 0 then .next ((((t.setFrame k none).noteRefusal st 8 0 p.lower)).ringDone .pm q e.id st 0)
              else
                let f : Frame := ⟨p.obj, p.page, p.ver, true, false, 1, t.time⟩
                match t.winIntake p rivals with
                | (false, _) => .next (s.winIntake p rivals).2
                | (true, u) => .next (((u.setFrame k (some f)).setRingEnt .pm q { e with sub := k + 1, result := 2 ^ 63 }).pageBegin p (e.arg 3 % 4096))

/-- The frame an address names. -/
def State.frameAt (s : State) (a : Nat) : Option (Nat × Frame) :=
  (List.range 16).findSome? fun c =>
    let b := s.rdF .SILO_CACHE c 0 23 0
    if s.rdF .SILO_CACHE c 0 63 63 = 1 ∧ a % 65536 = 0 ∧ b ≤ a / 65536 ∧ a / 65536 < b + s.regionSize c then
      (s.frame (c * 2 ^ 20 + (a / 65536 - b))).map fun f => (c * 2 ^ 20 + (a / 65536 - b), f)
    else none

/-- CUNPIN (R306, R307): a frame loses a pin; a STALE frame without pins is freed. -/
def execCunpin (ring : Fin 64) (s : State) : Out :=
  let q := ring.val
  match s.ringReady .pm q with
  | none => .next s
  | some e =>
    if e.opc ≠ 0x11 then .next s
    else if e.pmBad then .next (s.ringDone .pm q e.id stPmBad 0)
    else
      match s.frameAt (e.arg 0) with
      | some (k, f) =>
        if f.pins = 0 then .next (s.ringDone .pm q e.id stPmBad 0)
        else
          let g := { f with pins := f.pins - 1 }
          let s1 := s.setFrame k (if g.stale ∧ g.pins = 0 ∧ !g.filling then none else some g)
          .next (s1.ringDone .pm q e.id stOK g.pins)
      | none => .next (s.ringDone .pm q e.id stPmBad 0)

/-- CINVAL (R306): every frame of the object version becomes STALE; those without pins are freed. -/
def execCinval (ring : Fin 64) (s : State) : Out :=
  let q := ring.val
  match s.ringReady .pm q with
  | none => .next s
  | some e =>
    if e.opc ≠ 0x12 then .next s
    else if e.pmBad then .next (s.ringDone .pm q e.id stPmBad 0)
    else
      let fs := (s.regionFrames (nbits (e.arg 3) 19 16)).filter fun p =>
        decide (!p.2.stale ∧ p.2.obj = e.arg 1 % 2 ^ 32 ∧ p.2.ver = e.arg 2 % 2 ^ 32)
      let s1 := fs.foldl (fun a p => a.setFrame p.1 (if p.2.pins = 0 then none else some { p.2 with stale := true })) s
      .next (s1.ringDone .pm q e.id stOK fs.length)

/-- Lookups that wait for a frame complete (R303, R305): with its address, bit 63 for the one that missed, or with the
fill's failure. -/
def State.fillEnds (s : State) (k status : Nat) : State :=
  (List.range 64).foldl (fun a q =>
    ((a.ring .pm q).ents.filter fun e => decide (e.opc = 0x10 ∧ e.sub = k + 1)).foldl (fun b e =>
      b.ringDone .pm q e.id status (if status = 0 then e.result + b.frameAddr k else 0)) a) s

/-- CACHE_FILL_DONE (R303, R305): the page of the k-th fill in flight has arrived; its frame becomes VALID, or is freed
and its lookups fail. A frame that became STALE meanwhile is never found again (R306). -/
def execCacheFillDone (k : Nat) (fail : BitVec 16) (s : State) : Out :=
  match (s.win.pages.filter fun p => decide (p.ring = 16))[k]? with
  | none => .next s
  | some p =>
    match s.inbound p fail.toNat with
    | (none, t) => .next t
    | (some st, t) =>
      if st = 0 then
        .next ((match t.frame p.ent with
          | some f => t.setFrame p.ent (some { f with filling := false })
          | none => t).fillEnds p.ent 0)
      else .next ((t.setFrame p.ent none).fillEnds p.ent st)

/-- A write to SILO_CACHE (Table 09.11): a change to an enabled region is refused. -/
def State.cacheCfg (s : State) (c : Nat) (v : Word) : State × Nat :=
  let v1 := v &&& Reg.mask .SILO_CACHE [.RW]
  if s.rdF .SILO_CACHE c 0 63 63 = 1 ∧ v1 ≠ s.rd .SILO_CACHE c 0 then (s, stProt) else (s.wr .SILO_CACHE c 0 v1, stOK)

end Sys2Proof.Machine
end

