-- ==== Sys2Proof/Machine/Winnower.lean ====
section
/-!
DEFINITION. The winnower's rings and the life of a weight set (chapter 10): page operations, manifests (R325 to R327),
loads (R329 to R332), model handles and switching (R333 to R337), adapters (R338 to R340).
-/
namespace Sys2Proof.Machine
open Sys2Proof

/-! ### Rings -/

/-- Bits of ARG0 to ARG4 that an operation uses (Table 10.3, Table 10.7). -/
def winMask (op : Nat) : Option (List Nat) :=
  match op with
  | 0x01 => some [2 ^ 64 - 1, 2 ^ 64 - 1, 2 ^ 64 - 1, 2 ^ 56 - 1, 0x10FFF]
  | 0x02 => some [2 ^ 64 - 1, 2 ^ 64 - 1, 2 ^ 64 - 1, 2 ^ 32 - 1, 0x3010FFF]
  | 0x10 => some [2 ^ 64 - 1, 0xFF, 0xFFFFFC3D, 0, 0]
  | 0x11 => some [2 ^ 64 - 1, 0xFFFFFFFF000000FF, 0xFFFFFC3D, 0, 0]
  | 0x12 => some [0, 0xFFFFFFFF000000FF, 0, 0, 0]
  | 0x13 => some [0, 0xFF, 0, 0, 0]
  | _ => none

/-- A malformed entry (R322). -/
def QEnt.winBad (e : QEnt) : Bool :=
  match winMask e.opc with
  | none => true
  | some ms =>
    decide (e.npages ≠ 1 ∨ e.flags > 3) || (nbit e.flags 1 && decide (e.opc ≠ 0x10)) ||
    ((List.range 7).any fun k => decide (Nat.land (e.arg k) (2 ^ 64 - 1 - lget ms k 0) ≠ 0)) ||
    match e.opc with
    | 0x01 => decide (e.arg 0 % 256 ≠ 0 ∨ e.arg 1 % 65536 ≠ 0)
    | 0x02 => decide (e.arg 0 % 65536 ≠ 0 ∨ e.arg 1 % 256 ≠ 0 ∨ nbits (e.arg 4) 25 24 = 3)
    | _ => false

/-- Start the next entry of a winnower ring when it has this opcode; the ring's next entry is fetched when none waits. A
malformed entry completes with WIN_DESC_BAD (R322). -/
def State.winStart (s : State) (q op : Nat) (f : State → QEnt → State) : State :=
  let s1 := if (s.ringReady .win q).isSome then s else s.ringFetch .win q
  match s1.ringReady .win q with
  | none => s1
  | some e =>
    if e.winBad then s1.ringDone .win q e.id stWinBad 0
    else if e.opc ≠ op then s1
    else f s1 e

/-- As `winStart`, for operations 0x10 to 0x13, which need function 0 or a core at PL1 (R323). -/
def State.winPriv (s : State) (q op : Nat) (f : State → QEnt → State) : State :=
  s.winStart q op fun s1 e =>
    if s1.ownerPl1 e.fn then f s1 e else (s1.raiseProt 8 q 0).ringDone .win q e.id stProt 0

/-! ### Page operations -/

/-- Start a page operation of a ring (R308 to R312); it waits while 256 pages of its direction are in flight, and while the intake
takes another requester's page. -/
def State.winPage (s : State) (q : Nat) (e : QEnt) (p : WPage) (rivals : List Rival) : State :=
  if s.pagesFull p.out then s
  else
    let st := s.pageRefused p (e.arg 4 % 4096) false
    if st ≠ 0 then (s.noteRefusal st 8 q p.lower).ringDone .win q e.id st 0
    else
      match s.winIntake p rivals with
      | (false, t) => t
      | (true, t) => (t.setRingEnt .win q { e with sub := 1 }).pageBegin p (e.arg 4 % 4096)

/-- OPEN_PAGE (R308, R311). -/
def execOpenPage (ring : Fin 16) (rivals : List Rival) (s : State) : Out :=
  .next (s.winStart ring 0x01 fun t e =>
    t.winPage ring e ⟨0, e.fn, ring, e.id, false, e.arg 0, e.arg 1, e.arg 2 % 2 ^ 32, e.arg 2 / 2 ^ 32, e.arg 3 % 2 ^ 32, e.arg 3 / 2 ^ 32, nbit (e.arg 4) 16, 0, [], false⟩ rivals)

/-- SEAL_PAGE (R308, R311). -/
def execSealPage (ring : Fin 16) (rivals : List Rival) (s : State) : Out :=
  .next (s.winStart ring 0x02 fun t e =>
    t.winPage ring e ⟨0, e.fn, ring, e.id, true, e.arg 1, e.arg 0, e.arg 2 % 2 ^ 32, e.arg 2 / 2 ^ 32, e.arg 3 % 2 ^ 32, 0, nbit (e.arg 4) 16, nbits (e.arg 4) 25 24, [], false⟩ rivals)

/-- INBOUND_PAGE_VERIFIED (R310, R324): the k-th OPEN_PAGE in flight has its sealed page; `fail` is the lower tier's status
when its read failed after its own repeat. -/
def execInboundPageVerified (k : Nat) (fail : BitVec 16) (s : State) : Out :=
  match (s.win.pages.filter fun p => decide (p.ring < 16 ∧ !p.out))[k]? with
  | none => .next s
  | some p =>
    match s.inbound p fail.toNat with
    | (none, t) => .next t
    | (some st, t) => .next (t.ringDone .win p.ring p.ent st (if st = 0 then 65536 else 0))

/-- OUTBOUND_PAGE_DONE (R308, R314). -/
def execOutboundPageDone (k : Nat) (fail : BitVec 16) (s : State) : Out :=
  match (s.win.pages.filter fun p => decide (p.ring < 16 ∧ p.out))[k]? with
  | none => .next s
  | some p =>
    let r := s.outbound p fail.toNat
    .next (r.2.2.ringDone .win p.ring p.ent r.1 r.2.1)

/-! ### Manifests -/

def stMissing : Nat := 0x0902
def stManSig : Nat := 0x0903
def stManBad : Nat := 0x0904

/-- Fields of a manifest (Table 10.4). -/
def manTotal (m : List Byte) : Nat := le m 0x08 8
def manVersion (m : List Byte) : Nat := le m 0x18 4
def manNobj (m : List Byte) : Nat := le m 0x1C 4
def manNshard (m : List Byte) : Nat := le m 0x20 4
def manPages (m : List Byte) : Nat := le m 0x38 4

/-- Object entry `i` and shard entry `i` (Tables 10.5, 10.6). -/
def manObj (m : List Byte) (i : Nat) : List Byte := (m.drop (le m 0x28 8 + 32 * i)).take 32
def manShard (m : List Byte) (i : Nat) : List Byte := (m.drop (le m 0x30 8 + 64 * i)).take 64
def objCold (o : List Byte) : Bool := nbit (le o 4 1) 0
def objEnc (o : List Byte) : Bool := nbit (le o 4 1) 1
def objPages (o : List Byte) : Nat := le o 8 4
def objPage0 (o : List Byte) : Nat := le o 12 4
/-- Image pages an object takes: its pages, or those of its page map. -/
def objSpan (o : List Byte) : Nat := if objCold o then ceilDiv (objPages o * 16) 65536 else objPages o
def shFirst (h : List Byte) : Nat := le h 4 4
def shPages (h : List Byte) : Nat := le h 8 2 + 1

/-- The first check of R327, on the header. -/
def manHeaderOk (kind : Nat) (h : List Byte) : Bool :=
  let t := manTotal h
  let oo := le h 0x28 8
  let so := le h 0x30 8
  decide (le h 0 4 = 0x4E4D4C46 ∧ le h 5 1 = 1 ∧ le h 6 1 = kind ∧ t ≤ 4194304 ∧ 128 ≤ t ∧ oo % 64 = 0 ∧ so % 64 = 0 ∧
    64 ≤ oo ∧ 64 ≤ so ∧ oo + 32 * manNobj h ≤ t - 64 ∧ so + 64 * manNshard h ≤ t - 64)

/-- Whether shards (first, pages) cover `goal` pages from `pos` exactly once. -/
def coversOnce : Nat → List (Nat × Nat) → Nat → Nat → Bool
  | 0, l, pos, goal => decide (l = [] ∧ pos = goal)
  | f + 1, l, pos, goal =>
    if pos = goal then decide (l = [])
    else
      match l.find? (fun x => decide (x.1 = pos)) with
      | none => false
      | some x => coversOnce f (l.erase x) (pos + x.2) goal

/-- The third check of R327. -/
def manBodyOk (m : List Byte) : Bool :=
  let objs := (List.range (manNobj m)).map (manObj m)
  let shards := (List.range (manNshard m)).map (manShard m)
  let zero := fun (l : List Byte) => l.all (· = 0)
  decide (1 ≤ manNobj m ∧ manNobj m ≤ 4096 ∧ 1 ≤ manNshard m ∧ manNshard m ≤ 65536 ∧ le m 7 1 = 0 ∧ le m 0x3C 4 = 0 ∧
    le m 0x24 2 < 4096 ∧ le m 0x26 2 < 4096) &&
  objs.all (fun o => decide (le o 4 1 < 4 ∧ le o 5 1 < 3 ∧ le o 6 2 = 0 ∧ objPage0 o + objSpan o ≤ manPages m) && zero (o.drop 16)) &&
  shards.all (fun h => decide (le h 8 2 < 1024 ∧ le h 0x10 8 % 256 = 0 ∧ le h 0x18 8 % 256 = 0) && zero ((h.drop 10).take 6) &&
    objs.any fun o => decide (le o 0 4 = le h 0 4)) &&
  decide ((objs.map fun o => le o 0 4).Nodup) &&
  objs.all (fun o => coversOnce (shards.length + 1)
    ((shards.filter fun h => decide (le h 0 4 = le o 0 4)).map fun h => (shFirst h, shPages h)) 0 (objPages o)) &&
  decide (objs.Pairwise fun a b => objPage0 a + objSpan a ≤ objPage0 b ∨ objPage0 b + objSpan b ≤ objPage0 a)

/-- Bytes of a manifest under an identity: silo or host memory (R590). -/
def State.manRead (s : State) (ids : List Who) (a n : Nat) : Except Nat (List Byte) :=
  if a + n ≤ 0xA000000000 then
    if !ids.any (fun w => s.siloOk w a n false false) then .error stProt
    else if s.media a (.silo a) n false ≠ 0 then .error (s.media a (.silo a) n false)
    else .ok (s.load .silo a n)
  else if a < 0x200000000000 then .error stProt
  else s.lowerRead ids a n true

/-- Read and check a manifest (R327, R590): the manifest, or the status of the first check that fails. -/
def State.manifest (s : State) (fn a kind : Nat) : Except Nat (List Byte) :=
  let ids := s.loadIds fn
  match s.manRead ids a 64 with
  | .error e => .error e
  | .ok h =>
    if !manHeaderOk kind h then .error stManBad
    else
      match s.manRead ids a (manTotal h) with
      | .error e => .error e
      | .ok m =>
        let v := le m 0x24 2
        let n := manTotal m - 64
        if v ≥ 4096 ∨ !s.slotAdmits v fn 61 ∨ s.rdF .HSP_KSLOT_A v 0 63 62 ≠ 2 ∨
            !ecdsaVerify (s.slotKey v) (sha256 (m.take n)) (m.drop n) then .error stManSig
        else if !manBodyOk m then .error stManBad
        else .ok m

/-! ### Weight sets, adapter slots and models -/

def dWModel (_ : Nat) : WModel := WModel.reset
def State.wmodel (s : State) (m : Nat) : WModel := mget dWModel s.win.models m

/-- STATE of WIN_MODEL_Am (Table 10.8). -/
def WModel.state (x : WModel) : Nat :=
  match x.op with
  | 3 => 5
  | 2 => 3
  | 1 => 2
  | _ => if x.unavail then 4 else if x.cur.isSome then 1 else 0

/-- Set a model, keeping WIN_MODEL_Am as Table 10.8 states it. -/
def State.setWModel (s : State) (m : Nat) (x : WModel) : State :=
  let s1 := s.setWin { s.win with models := mput dWModel s.win.models m x }
  let v := (s.rdF .WIN_MODEL_A m 0 63 63) * 2 ^ 63 + x.state * 2 ^ 60 +
    (match x.pend with | some w => 2 ^ 56 + w * 2 ^ 47 | none => 0) +
    (match x.rets.getLast? with | some w => 2 ^ 46 + w * 2 ^ 37 | none => 0) +
    (match x.cur with | some w => 2 ^ 36 + w * 2 ^ 27 | none => 0)
  s1.wr .WIN_MODEL_A m 0 (BitVec.ofNat 64 v)

def dGModel (_ : Nat) : GModel := GModel.reset
def State.gmodel (s : State) (m : Nat) : GModel := mget dGModel s.gln.models m
def State.setGModel (s : State) (m : Nat) (x : GModel) : State := { s with gln := { s.gln with models := mput dGModel s.gln.models m x } }

/-- An event that runs an idle boundary of a model when no step of it is planned or in flight (R359). -/
def State.glnDue (s : State) (m : Nat) : State := s.setGModel m { s.gmodel m with due := true }

/-- Free a weight set (R333). -/
def State.wsFree (s : State) (w : Nat) : State :=
  let m := s.rdF .WIN_WS_B w 0 60 53
  let x := s.wmodel m
  let s1 := (s.wr .WIN_WS_A w 0 0).wr .WIN_WS_B w 0 0
  let s2 := s1.setWin { s1.win with info := mput (fun _ => (0, [])) s1.win.info w (0, []) }
  s2.setWModel m { x with
    cur := if x.cur = some w then none else x.cur
    pend := if x.pend = some w then none else x.pend
    rets := x.rets.filter (· ≠ w) }

/-- UNLOAD completes when the last set is freed (R337). -/
def State.unloadCheck (s : State) (m : Nat) : State :=
  let x := s.wmodel m
  if x.op = 3 ∧ !x.closing ∧ x.cur = none ∧ x.rets = [] then
    (s.setWModel m { x with op := 0, unavail := false }).ringDone .win x.ring x.ent stOK 0
  else s

/-- A drained model frees its sets (R335, step 2); its SWITCH then takes an entry and pages. -/
def State.drainCheck (s : State) (m : Nat) : State :=
  let x := s.wmodel m
  let held := x.cur.toList ++ x.rets
  if x.op = 2 ∧ x.closed = 1 ∧ x.pend = none ∧ !x.wants ∧ held.all (fun w => decide (s.rdF .WIN_WS_A w 0 31 0 = 0)) then
    let s1 := held.foldl (fun a w => a.wsFree w) s
    s1.setWModel m { s1.wmodel m with wants := true }
  else s

/-- A set becomes RETIRING (R334, R337); it is freed at once when nothing pins it. -/
def State.wsRetire (s : State) (w : Nat) : State :=
  let m := s.rdF .WIN_WS_B w 0 60 53
  let x := s.wmodel m
  let s1 := (s.wrF .WIN_WS_B w 0 63 61 3).setWModel m { x with
    cur := if x.cur = some w then none else x.cur, rets := x.rets.filter (· ≠ w) ++ [w] }
  if s1.rdF .WIN_WS_A w 0 31 0 = 0 then s1.wsFree w else s1

/-- The gleaner pins a set (R333). -/
def State.wsPin (s : State) (w : Nat) : State := s.wrF .WIN_WS_A w 0 31 0 (s.rdF .WIN_WS_A w 0 31 0 + 1)

/-- The gleaner unpins a set; a RETIRING set without pins is freed (R333, R335, R337). -/
def State.wsUnpin (s : State) (w : Nat) : State :=
  let m := s.rdF .WIN_WS_B w 0 60 53
  let n := s.rdF .WIN_WS_A w 0 31 0 - 1
  let s1 := s.wrF .WIN_WS_A w 0 31 0 n
  let s2 := if n = 0 ∧ s1.rdF .WIN_WS_B w 0 63 61 = 3 then s1.wsFree w else s1
  (s2.unloadCheck m).drainCheck m

def State.adFree (s : State) (a : Nat) : State := (s.wr .WIN_AD_A a 0 0).wr .WIN_AD_B a 0 0

def State.adRetire (s : State) (a : Nat) : State :=
  let s1 := s.wrF .WIN_AD_B a 0 63 61 3
  if s1.rdF .WIN_AD_A a 0 31 0 = 0 then s1.adFree a else s1

/-- The gleaner binds a request to an adapter slot, and releases it (R339). -/
def State.adPin (s : State) (a : Nat) : State := s.wrF .WIN_AD_A a 0 31 0 (s.rdF .WIN_AD_A a 0 31 0 + 1)
def State.adUnpin (s : State) (a : Nat) : State :=
  let n := s.rdF .WIN_AD_A a 0 31 0 - 1
  let s1 := s.wrF .WIN_AD_A a 0 31 0 n
  if n = 0 ∧ s1.rdF .WIN_AD_B a 0 63 61 = 3 then s1.adFree a else s1

/-- The slot that a binding names (R339). -/
def State.binding (s : State) (m aid : Nat) : Option Nat :=
  match mget dNat (s.wmodel m).binds aid with
  | 0 => none
  | k + 1 => some k

/-- How a model stands for admission (R345): 0 open, 1 waiting (a drain, or a first SWITCH in progress), 2 closed by an
UNLOAD, 3 without a weight set. -/
def State.winAdmit (s : State) (m : Nat) : Nat :=
  let x := s.wmodel m
  if x.closed = 2 then 2
  else if x.closed = 1 then 1
  else if x.cur.isSome then 0
  else if x.op = 1 ∨ x.op = 2 then 1
  else 3

/-- Image pages [b, b + n) that firmware's allocator may give (R328, R590): silo pages of no other image and not retired. -/
def State.imageFree (s : State) (b n : Nat) : Bool :=
  let clear := fun (st lo k : Nat) => decide (st = 0 ∨ lo + k + 1 ≤ b ∨ b + n ≤ lo)
  decide (n ≠ 0 ∧ b + n ≤ 0xA00000) &&
  ((List.range 512).all fun w => let r := s.rd .WIN_WS_B w 0; clear (fld r 63 61) (fld r 23 0) (fld r 47 24)) &&
  ((List.range 4096).all fun a => let r := s.rd .WIN_AD_B a 0; clear (fld r 63 61) (fld r 23 0) (fld r 47 24)) &&
  s.mem.retired.all fun p => decide (p < b ∨ b + n ≤ p)

/-! ### Loads -/

/-- Fill the shard window (R329). -/
def feedShards (time win nshard : Nat) : Nat → Load → Load
  | 0, l => l
  | f + 1, l =>
    if l.failed ≠ 0 ∨ l.next ≥ nshard ∨ l.live.length ≥ win then l
    else feedShards time win nshard f { l with next := l.next + 1, live := l.live ++ [⟨l.next, 0, time, none, []⟩] }

def State.setLoad (s : State) (l : Load) : State :=
  s.setWin { s.win with loads := s.win.loads.map fun x => if x.id = l.id then l else x }

def State.feedLoad (s : State) (l : Load) : State :=
  s.setLoad (feedShards s.time (s.rdF .WIN_CTL 0 0 5 0) (manNshard l.man) 64 l)

/-- A SWITCH ends without a new set (R334 step 3, R335): a handle without CURRENT is left unavailable. -/
def State.switchFail (s : State) (m st : Nat) : State :=
  let x := s.wmodel m
  let s1 := s.setWModel m { x with
    pend := none, op := 0, wants := false, ready := false, closed := if x.closed = 1 then 0 else x.closed
    unavail := x.unavail || x.cur.isNone }
  (s1.ringDone .win x.ring x.ent st 0).glnDue m

/-- Take an entry of the 512 weight sets or 4,096 adapter slots and the image pages, and start the load (R334 step 1,
R338). Answers the state, or the status of what is missing. -/
def State.takeImage (s : State) (adapter : Bool) (fn q ent m aid bcast : Nat) (man : List Byte) (base : Option Nat) : Except Nat State :=
  let n := manPages man
  let ra : Reg := if adapter then .WIN_AD_A else .WIN_WS_A
  let rb : Reg := if adapter then .WIN_AD_B else .WIN_WS_B
  let cands := (List.range (if adapter then 4096 else 512)).filter fun w => decide (s.rdF rb w 0 63 61 = 0)
  match s.pickFrom cands with
  | (none, _) => .error (if adapter then 0x0908 else 0x0909)
  | (some w, s0) =>
    match base with
    | none => .error 0x0701
    | some b =>
      if !s.imageFree b n then .error 0x0701
      else
        let s1 := (s0.wr ra w 0 (BitVec.ofNat 64 ((if adapter then aid else manVersion man) * 2 ^ 32))).wr rb w 0
          (BitVec.ofNat 64 (2 ^ 61 + m * 2 ^ 53 + (n - 1) * 2 ^ 24 + b))
        let s2 := if adapter then s1 else
          let x := s1.wmodel m
          let t := s1.setWin { s1.win with info := mput (fun _ => (0, [])) s1.win.info w (le man 0x10 8, sha256 man) }
          t.setWModel m { x with pend := some w, wants := false }
        let l : Load := ⟨s2.win.no, q, ent, fn, adapter, m, aid, man, w, b, bcast, 0, [], 0⟩
        .ok ((s2.setWin { s2.win with no := s2.win.no + 1, loads := s2.win.loads ++ [l] }).feedLoad l)

/-- Start of a SWITCH (R334 to R336). -/
def State.switchStart (s : State) (q : Nat) (e : QEnt) (base : Option Nat) : State :=
  let m := e.arg 1 % 256
  let x := s.wmodel m
  let drain := nbit e.flags 1
  if x.op ≠ 0 ∨ (x.rets ≠ [] ∧ !drain) then s.ringDone .win q e.id 0x0906 0
  else
    match s.manifest e.fn (e.arg 0) 0 with
    | .error st => (s.noteRefusal st 8 q (e.arg 0)).ringDone .win q e.id st 0
    | .ok man =>
      if (x.cur.toList ++ x.rets).any (fun w => decide (s.rdF .WIN_WS_A w 0 63 32 = manVersion man)) then
        s.ringDone .win q e.id 0x0905 0
      else if drain ∧ x.cur.toList ++ x.rets ≠ [] then
        ((s.setRingEnt .win q { e with sub := 1 }).setWModel m { x with
          op := 2, ring := q, ent := e.id, fn := e.fn, man := man, bcast := e.arg 2, closing := true }).glnDue m
      else
        match ((s.countAt (e.arg 0) man.length).setWModel m { x with op := 1, ring := q, ent := e.id, fn := e.fn, closed := 0 }).takeImage false e.fn q e.id m 0 (e.arg 2) man base with
        | .error st => s.ringDone .win q e.id st 0
        | .ok t => t.setRingEnt .win q { e with sub := 1 }

/-- SWITCH (R334 to R336). `base` is the first page that firmware's allocator gives, if it has the pages. A SWITCH with
DRAIN whose sets have been freed takes its entry and pages when the command comes again (R335 step 3). -/
def execSwitch (ring : Fin 16) (base : Option (BitVec 24)) (s : State) : Out :=
  let b := base.map BitVec.toNat
  match (s.win.models.find? fun p => decide (p.2.op = 2 ∧ p.2.wants ∧ p.2.ring = ring.val)) with
  | some (m, x) =>
    match s.takeImage false x.fn ring x.ent m 0 x.bcast x.man b with
    | .error st => .next (s.switchFail m st)
    | .ok t => .next t
  | none => .next (s.winPriv ring 0x10 fun t e => t.switchStart ring e b)

/-- ADAPTER_LOAD (R338). -/
def execAdapterLoad (ring : Fin 16) (base : Option (BitVec 24)) (s : State) : Out :=
  .next (s.winPriv ring 0x11 fun t e =>
    match t.manifest e.fn (e.arg 0) 1 with
    | .error st => (t.noteRefusal st 8 ring (e.arg 0)).ringDone .win ring e.id st 0
    | .ok man =>
      match (t.countAt (e.arg 0) man.length).takeImage true e.fn ring e.id (e.arg 1 % 256) (e.arg 1 / 2 ^ 32) (e.arg 2) man (base.map BitVec.toNat) with
      | .error st => t.ringDone .win ring e.id st 0
      | .ok u => u.setRingEnt .win ring { e with sub := 1 })

/-- ADAPTER_UNBIND (R340). -/
def execAdapterUnbind (ring : Fin 16) (s : State) : Out :=
  .next (s.winPriv ring 0x12 fun t e =>
    let m := e.arg 1 % 256
    let aid := e.arg 1 / 2 ^ 32
    let x := t.wmodel m
    if t.binding m aid = none ∧ !x.pbinds.any (fun b => decide (b.1 = aid)) then t.ringDone .win ring e.id stOK 0
    else ((t.setRingEnt .win ring { e with sub := 1 }).setWModel m { x with pbinds := x.pbinds ++ [(aid, 0, ring.val, e.id)] }).glnDue m)

/-- UNLOAD (R337). -/
def execUnload (ring : Fin 16) (s : State) : Out :=
  .next (s.winPriv ring 0x13 fun t e =>
    let m := e.arg 1 % 256
    let x := t.wmodel m
    if x.op ≠ 0 then t.ringDone .win ring e.id 0x0906 0
    else ((t.setRingEnt .win ring { e with sub := 1 }).setWModel m { x with op := 3, ring := ring.val, ent := e.id, fn := e.fn, closing := true }).glnDue m)

/-- The start of a model's step, for the winnower (R334 step 4, R335, R337, R338, R340): closing, the switch to the pending
set, changes of bindings. -/
def State.winStepStart (s : State) (m : Nat) : State :=
  let x := s.wmodel m
  let s1 :=
    if !x.closing then s
    else if x.op = 2 then (s.setWModel m { x with closing := false, closed := 1 }).drainCheck m
    else
      let t := s.setWModel m { x with closing := false, closed := 2 }
      (match x.cur with | some w => t.wsRetire w | none => t).unloadCheck m
  let y := s1.wmodel m
  let s2 :=
    match y.ready, y.pend with
    | true, some w =>
      let t := (s1.wrF .WIN_WS_B w 0 63 61 2).setWModel m { y with
        cur := some w, pend := none, ready := false, op := 0, closed := 0, unavail := false }
      let u := match y.cur with
        | some o => t.wsRetire o
        | none => t
      u.ringDone .win y.ring y.ent stOK (w + s1.rdF .WIN_WS_B w 0 23 0 * 2 ^ 40)
    | _, _ => s1
  let z := s2.wmodel m
  z.pbinds.foldl (fun a b =>
    let w := a.wmodel m
    let old := mget dNat w.binds b.1
    let t := a.setWModel m { w with binds := mput dNat w.binds b.1 b.2.1 }
    let t1 := if b.2.1 = 0 then t else t.wrF .WIN_AD_B (b.2.1 - 1) 0 63 61 2
    let t2 := if old = 0 then t1 else t1.adRetire (old - 1)
    t2.ringDone .win b.2.2.1 b.2.2.2 stOK (b.2.1 - 1)) (s2.setWModel m { z with pbinds := [] })

/-! ### Shards -/

/-- Decode and write the pages of a resident shard (R329): status 0, or the status of the attempt's failure; the pages so
far. `rd off n` reads the stored shard. -/
def State.shardPages (rd : State → Nat → Nat → Except Nat (List Byte)) (key : List Byte) (enc : Bool) (obj ver first dst : Nat) (table : List Byte) :
    Nat → Nat → Nat → State → List Byte → Nat × List Byte × State
  | 0, _, _, s, acc => (0, acc, s)
  | f + 1, p, off, s, acc =>
    let n := le table (4 * p) 4
    let s1 := s.inc .WIN_IN_PAGES 0 0 1
    match rd s1 off n with
    | .error st => (if st = stProt then stProt else stMissing, acc, s1.inc .WIN_IN_FAIL 0 0 1)
    | .ok bs =>
      match openSealed key enc (pageIv obj (first + p) ver) bs with
      | .error k => (stCorrupt, acc, (s1.inc .WIN_IN_FAIL 0 0 1).inc (if k = 1 then .WIN_AUTH_FAIL else .WIN_FLC_FAIL) 0 0 1)
      | .ok x =>
        let a := dst + p * 65536
        let s2 := (s1.writeSilo a x).inc .WIN_IN_OK 0 0 1
        State.shardPages rd key enc obj ver first dst table f (p + 1) (off + roundUp n 256) s2 (acc ++ x)

/-- One attempt at a shard (R329, R330, R590): status and state. -/
def State.shardAttempt (s : State) (l : Load) (h : Shard) : Nat × State :=
  let e := manShard l.man h.idx
  let np := shPages e
  match ((List.range (manNobj l.man)).map (manObj l.man)).find? (fun o => decide (le o 0 4 = le e 0 4)) with
  | none => (stCorrupt, s)
  | some o =>
    let src := if h.attempt = 2 then le e 0x18 8 else le e 0x10 8
    let dst := (l.base + objPage0 o) * 65536
    let ids := s.loadIds l.fn
    let rd := fun (enc : Bool) (t : State) (off n : Nat) =>
      match h.got with
      | some bs => if off + n ≤ bs.length then Except.ok ((bs.drop off).take n) else .error stMissing
      | none => t.lowerRead ids (src + off) n enc
    match rd true s 0 (4 * np) with
    | .error st => (if st = stProt then stProt else stMissing, s)
    | .ok table =>
      let off0 := roundUp (4 * np) 256
      if objCold o then
        if sha256 table ≠ e.drop 0x20 then (stCorrupt, s)
        else
          let pm := (List.range np).foldl (fun (a : List Byte × Nat) p =>
            let n := le table (4 * p) 4
            (a.1 ++ natToBytes 8 (src + a.2) ++ natToBytes 4 n ++ [0, 0, 0, 0], a.2 + roundUp n 256)) ([], off0)
          (0, s.writeSilo (dst + 16 * shFirst e) pm.1)
      else if objEnc o ∧ !s.slotAdmits (le l.man 0x26 2) l.fn 59 then (stProt, s)
      else
        let key := s.slotKey (le l.man 0x26 2)
        let r := State.shardPages (rd (objEnc o)) key (objEnc o) (le e 0 4) (manVersion l.man) (shFirst e) (dst + shFirst e * 65536) table np 0 off0 s []
        if r.1 ≠ 0 then (r.1, r.2.2)
        else if sha256 r.2.1 ≠ e.drop 0x20 then (stCorrupt, r.2.2)
        else (0, r.2.2)

/-- A record of a load (Table 16.1, structure 0x0C) with the publisher's MODEL_ID. -/
def loadRec (code sev : Nat) (l : Load) : ErrRec := { errRec code sev 8 0 0xC with detail0 := le l.man 0x10 8 }

/-- A load that has failed ends once nothing of it is in flight: its image is freed and its operation completes (R331). -/
def State.loadEnds (s : State) (l : Load) : State :=
  if l.failed = 0 ∨ l.live ≠ [] then s
  else
    let s1 := s.setWin { s.win with loads := s.win.loads.filter fun x => decide (x.id ≠ l.id) }
    if l.adapter then (s1.adFree l.slot).ringDone .win l.ring l.ent l.failed 0
    else (s1.wsFree l.slot).switchFail l.model l.failed

/-- The attempt at a shard ended with a status (R330, R331): success, a refusal, or a failure that is reread. -/
def State.shardEnds (s : State) (l : Load) (h : Shard) (st : Nat) : State :=
  let rest := l.live.filter fun x => decide (x.idx ≠ h.idx)
  if l.failed ≠ 0 then
    let l1 := { l with live := rest }
    (s.setLoad l1).loadEnds l1
  else if st = 0 then
    (h.fails.foldl (fun a c => a.raise (loadRec c sevTransient l)) s).feedLoad { l with live := rest }
  else if st = stProt then
    let l1 := { l with live := rest, failed := stProt }
    ((s.raiseProt 8 l.ring (le (manShard l.man h.idx) 0x10 8)).setLoad l1).loadEnds l1
  else
    let alt := le (manShard l.man h.idx) 0x18 8
    if h.attempt = 0 ∨ (h.attempt = 1 ∧ alt ≠ 0) then
      let g : Shard := ⟨h.idx, h.attempt + 1, s.time, none, h.fails ++ [st]⟩
      (s.inc (if h.attempt = 0 then .WIN_SHARD_REREAD else .WIN_SHARD_ALT) 0 0 1).setLoad { l with live := l.live.map fun x => if x.idx = h.idx then g else x }
    else
      let l1 := { l with live := rest, failed := st }
      ((s.raise (loadRec st sevLasting l)).setLoad l1).loadEnds l1

/-- Fields of the broadcast word (Table 10.7). -/
def Load.isBcast (l : Load) : Bool := nbit l.bcast 0
def Load.reads (l : Load) (i : Nat) : Bool := !l.isBcast || decide (nbits l.bcast 31 20 = i % (nbits l.bcast 19 16 + 1))

/-- All the stored bytes of a shard at PRIMARY, for the group (R332). -/
def State.shardBytes (s : State) (l : Load) (h : Shard) : Except Nat (List Byte) :=
  let e := manShard l.man h.idx
  let np := shPages e
  let ids := s.loadIds l.fn
  match s.lowerRead ids (le e 0x10 8) (4 * np) true with
  | .error st => .error st
  | .ok t => s.lowerRead ids (le e 0x10 8) (roundUp (4 * np) 256 + ((List.range np).map fun p => roundUp (le t (4 * p) 4) 256).sum) true

def State.findShard (s : State) (load shard : Nat) : Option (Load × Shard) :=
  match s.win.loads[load]? with
  | none => none
  | some l => (l.live.find? fun h => decide (h.idx = shard)).map fun h => (l, h)

/-- SHARD_COMPLETE (R329, R330, R332): the attempt at a shard in flight ends; `readFailed` tells that a read of it failed
after its own repeat. The reader of a broadcast shard sends its stored bytes to the group; another member needs them to
have come. -/
def execShardComplete (load : Nat) (shard : Nat) (readFailed : Bool) (s : State) : Out :=
  match s.findShard load shard with
  | none => .next s
  | some (l, h) =>
    if h.attempt = 0 ∧ !l.reads h.idx ∧ h.got = none then .next s
    else if readFailed then .next (s.shardEnds l h stMissing)
    else
      let s0 :=
        if h.attempt = 0 ∧ l.isBcast ∧ l.reads h.idx then
          match s.shardBytes l h with
          | .ok bs => s.setHay { s.hay with msgs := s.hay.msgs ++ [⟨3, nbits l.bcast 15 10, nbits l.bcast 5 2, [l.id, h.idx], bs⟩] }
          | .error _ => s
        else s
      let r := s0.shardAttempt l h
      .next (r.2.shardEnds l h r.1)

/-- SHARD_TIMEOUT (R330). -/
def execShardTimeout (load : Nat) (shard : Nat) (s : State) : Out :=
  match s.findShard load shard with
  | none => .next s
  | some (l, h) => .next (s.shardEnds l h stMissing)

/-- BROADCAST_SHARD_RECEIVE (R332): a member that does not read the shard itself takes its stored bytes. -/
def execBroadcastShardReceive (load : Nat) (shard : Nat) (bytes : List Byte) (s : State) : Out :=
  match s.findShard load shard with
  | none => .next s
  | some (l, h) =>
    if h.attempt ≠ 0 ∨ l.reads h.idx then .next s
    else .next (s.setLoad { l with live := l.live.map fun x => if x.idx = h.idx then { h with got := some bytes } else x })

/-- LOAD_COMPLETE (R334, R338): every shard is written; the pending set, or the new binding, waits for the model's next
step. -/
def execLoadComplete (load : Nat) (s : State) : Out :=
  match s.win.loads[load]? with
  | none => .next s
  | some l =>
    if l.failed ≠ 0 ∨ l.live ≠ [] ∨ l.next < manNshard l.man then .next s
    else
      let s1 := s.setWin { s.win with loads := s.win.loads.filter fun x => decide (x.id ≠ l.id) }
      let x := s1.wmodel l.model
      if l.adapter then .next ((s1.setWModel l.model { x with pbinds := x.pbinds ++ [(l.aid, l.slot + 1, l.ring, l.ent)] }).glnDue l.model)
      else .next ((s1.setWModel l.model { x with ready := true }).glnDue l.model)

end Sys2Proof.Machine
end

