-- ==== Sys2Proof/Machine/Haywain.lean ====
section
/-!
DEFINITION. Fabric ports of the haywain (chapter 14): bring-up (R441 to R444), flits, replay, blocks and credits (R434 to
R440), going DOWN (R463), and the time alignment of control flits (R468).
-/
namespace Sys2Proof.Machine
open Sys2Proof

def dHPort (_ : Nat) : HPort := HPort.reset
def State.hport (s : State) (p : Nat) : HPort := mget dHPort s.hay.ports p
def State.setHport (s : State) (p : Nat) (x : HPort) : State := s.setHay { s.hay with ports := mput dHPort s.hay.ports p x }

/-- STATE of a port (Table 14.3): 0 DARK, 1 TRAIN, 2 IDENT, 3 HOLD, 4 REFUSED, 5 KEYING, 6 UP, 7 DOWN, 8 DISABLED. -/
def State.hstate (s : State) (p : Nat) : Nat := s.rdF .HAY_PORT_STATUS p 0 3 0
def State.setHstate (s : State) (p st : Nat) : State :=
  let t := s.wrF .HAY_PORT_STATUS p 0 3 0 st
  if st = 6 then t else t.wrF .HAY_PORT_STATUS p 0 8 8 0
def State.setCause (s : State) (p c : Nat) : State := s.wrF .HAY_PORT_STATUS p 0 23 16 c

/-- Credits by queue of Table 14.1 from the two buffer registers (R439). -/
def bufDepth (b0 b1 : Word) (q : Nat) : Nat :=
  match q with
  | 1 => fld b0 11 0 | 2 => fld b0 23 12 | 3 => fld b0 35 24 | 4 => fld b0 47 36 | 5 => fld b0 59 48
  | 6 => fld b1 11 0 | 7 => fld b1 23 12 | 8 => fld b1 35 24 | _ => fld b1 47 36

/-- Queue of a packet (Tables 14.1 and 14.6). -/
def Pkt.queue (p : Pkt) : Nat := if p.tr then 7 + p.cls else 1 + 2 * p.cls + p.set.toNat

/-- Payload bytes that travel with a packet. -/
def Pkt.payLen (p : Pkt) : Nat := if p.typ = 0 ∨ p.typ = 3 ∨ p.typ = 4 then 0 else p.len

/-- Flits of a packet (R435). -/
def Pkt.flits (p : Pkt) : Nat := ceilDiv (32 + p.payLen) 248

/-- The header of a packet (Table 14.5). -/
def Pkt.header (p : Pkt) : List Byte :=
  natToBytes 1 (p.typ + p.cls * 16 + p.set.toNat * 64 + p.tr.toNat * 128) ++ [0] ++ natToBytes 2 p.slice ++ natToBytes 2 p.dst ++ natToBytes 2 p.src ++
    natToBytes 2 p.len ++ natToBytes 2 p.tag ++ natToBytes 2 p.status ++ natToBytes 1 p.win ++ [0] ++ natToBytes 2 p.gen ++ natToBytes 1 p.group ++
    natToBytes 1 p.rop ++ natToBytes 6 p.addr ++ natToBytes 2 p.rid ++ natToBytes 4 p.chunk

/-- The packet that a header and payload spell; none for an undefined TYPE or CLS or a nonzero reserved field (R445). -/
def pktOf (h data : List Byte) : Option Pkt :=
  let t := le h 0 1
  if t % 16 > 8 ∨ t / 16 % 4 = 3 ∨ le h 1 1 ≠ 0 ∨ le h 4 2 ≥ 4096 ∨ le h 6 2 ≥ 4096 ∨ le h 8 2 > 3936 ∨ le h 8 2 % 4 ≠ 0 ∨ le h 0xA 2 ≥ 4096 ∨
      le h 0xE 1 > 7 ∨ le h 0xF 1 ≠ 0 ∨ le h 0x12 1 > 63 ∨ le h 0x13 1 > 3 then none
  else
    some ⟨t % 16, t / 16 % 4, nbit t 6, nbit t 7, le h 2 2, le h 4 2, le h 6 2, le h 8 2, le h 0xA 2, le h 0xC 2, le h 0xE 1, le h 0x10 2,
      le h 0x12 1, le h 0x13 1, le h 0x14 6, le h 0x1A 2, le h 0x1C 4, data, (0, 0)⟩

/-! ### Going down -/

/-- NACK a request to its source (R455, R463). -/
def State.hayNack (s : State) (p : Pkt) (status : Nat) : State :=
  s.originate { Pkt.mk0 4 1 p.slice p.src s.chip 0 [] with tag := p.tag, status := status }

/-- A ring entry whose packets have all left completes (R461). -/
def State.mcastCheck (s : State) (own : Nat × Nat) : State :=
  if own.1 = 0 ∨ s.hay.orig.any (fun p => decide (p.own = own)) ∨
      s.hay.ports.any (fun x => (x.2.queues.flatMap (·.2)).any fun p => decide (p.own = own)) then s
  else
    match (s.ring .hay (own.1 - 1)).ents.find? (fun e => decide (e.id = own.2)) with
    | some e => s.ringDone .hay (own.1 - 1) e.id stOK (e.arg 2)
    | none => s

/-- A packet whose port is DOWN: a request is NACKed with LINK_DOWN, anything else dropped (R463). -/
def State.downPkt (s : State) (p : Pkt) : State := if p.cls = 0 then s.hayNack p 0x0C03 else s.mcastCheck p.own

/-- The packets that a port discards when it goes DOWN: those in its replay store, then those queued for it (R463). -/
def HPort.lost (x : HPort) : List Pkt := x.sent.map (·.2) ++ x.queues.flatMap (·.2)

/-- A port goes DOWN (R463): the link is fenced and recorded with the cause, and what it held is discarded. -/
def State.hayDown (s : State) (p cause : Nat) : State :=
  let x := s.hport p
  let lost := x.lost
  let s1 := ((s.setHport p { x with queues := [], replay := [], sent := [], open_ := [], block := [], part := [], rxq := [] }).setHstate p 7).setCause p cause
  let s2 := s1.fenceWith 8 p { errRec 0x0C03 sevLasting 11 p 9 with detail0 := p + cause * 256 }
  lost.foldl (fun a k => a.downPkt k) s2

/-- A port goes DARK unless it is DOWN or DISABLED (R441). -/
def State.hayDark (s : State) (p cause : Nat) : State :=
  let s1 := s.setHport p { s.hport p with light := false }
  if s.hstate p = 7 ∨ s.hstate p = 8 then s1 else (s1.setHstate p 0).setCause p cause

/-! ### Bring-up -/

/-- A write to HAY_PORT_CTL.EN (R441, Table 14.8). -/
def State.hayEnable (s : State) (p : Nat) (on : Bool) : State :=
  if on then (if s.hstate p = 8 then s.setHstate p 1 else s)
  else
    let x := s.hport p
    let lost := x.lost
    let s1 := ((s.setHport p { HPort.reset with light := x.light, lightAt := x.lightAt }).setHstate p 8).setCause p 11
    lost.foldl (fun a k => a.downPkt k) s1

/-- LIGHT_DETECT (R441). -/
def execLightDetect (port : Fin 24) (s : State) : Out :=
  let p := port.val
  let s1 := s.setHport p { s.hport p with light := true, lightAt := s.time }
  .next (if s.hstate p = 0 then s1.setHstate p 1 else s1)

/-- LOSS_OF_LIGHT (R441, R585). -/
def execLossOfLight (port : Fin 24) (s : State) : Out := .next (s.hayDark port 1)

/-- LANE_ALIGNMENT (R432, R433): every lane is locked and aligned. -/
def execLaneAlignment (port : Fin 24) (s : State) : Out :=
  let p := port.val
  .next (if s.hstate p = 1 ∧ (s.hport p).light then (s.setHstate p 2).setHport p { s.hport p with holding := false, seen := false } else s)

/-- TRAIN_TIMEOUT (R587). -/
def execTrainTimeout (port : Fin 24) (s : State) : Out :=
  .next (if s.hstate port = 1 ∧ (s.hport port).light then s.setCause port 4 else s)

/-- Whether the record found is a mismatch (R442). -/
def State.identBad (s : State) (p : Nat) : Bool :=
  let e := s.rd .HAY_PORT_EXPECT p 0
  let b := s.rd .HAY_PORT_PEERB p 0
  let t := (s.rd .HAY_TOPO 0 0).toNat
  let u := (s.hport p).topo
  (bit e 63 && decide (fld e 59 48 ≠ fld b 59 48 ∨ fld e 44 40 ≠ fld b 44 40)) || decide (t ≠ 0 ∧ u ≠ 0 ∧ t ≠ u) ||
    decide (fld e 15 0 ≠ 0 ∧ fld b 31 16 ≠ 0 ∧ fld e 15 0 ≠ fld b 31 16)

/-- Whether an identity record has been found since the lanes aligned. -/
def State.identSeen (s : State) (p : Nat) : Bool := (s.hport p).seen

/-- Judge the record found by a port in IDENT (R442). -/
def State.identEval (s : State) (p : Nat) : State :=
  if s.hstate p ≠ 2 ∨ !s.identSeen p then s
  else if s.identBad p then
    ((s.setHstate p 3).setCause p 8).raise { errRec 0x0C01 sevTransient 11 p 9 with
      detail0 := (s.rd .HAY_PORT_PEERB p 0).toNat, detail1 := (s.rd .HAY_PORT_PEERA p 0).toNat }
  else if (s.hport p).holding then s
  else s.setHstate p 5

/-- Identity record of this chip at a port (Table 14.4). -/
def State.identRecord (s : State) (p : Nat) : List Byte :=
  natToBytes 4 0x4E594148 ++ [1, 3] ++ natToBytes 1 p ++ natToBytes 1 (decide (s.hstate p = 3)).toNat ++ natToBytes 8 Config.serial.toNat ++
    natToBytes 2 s.chip ++ natToBytes 2 (s.rdF .HAY_PORT_EXPECT p 0 15 0) ++ List.replicate 4 0 ++ natToBytes 8 (s.rd .HAY_TOPO 0 0).toNat ++ List.replicate 32 0

/-- Send a data, control or identity flit: it takes the next SEQ and stays in the replay store (R436). -/
def HPort.send (x : HPort) (kind : Nat) (first : Bool) (body : List Byte) : HPort :=
  { x with txSeq := (x.txSeq + 1) % 1024, replay := x.replay ++ [⟨x.txSeq, kind, first, false, body ++ List.replicate (248 - body.length) 0⟩] }

/-- IDENTITY_FLIT_SEND (R442): a port in IDENT or HOLD sends its record; a record found is judged again. -/
def execIdentityFlitSend (port : Fin 24) (s : State) : Out :=
  let p := port.val
  if (s.hstate p = 2 ∨ s.hstate p = 3) ∧ (s.hport p).replay.length < 1023 then
    .next (((s.setHport p ((s.hport p).send 3 false (s.identRecord p))).inc .HAY_PORT_TXFLITS p 0 1).identEval p)
  else .next s

/-- An identity record arrives (R442, R444). -/
def State.identReceive (s : State) (p : Nat) (r : List Byte) : State :=
  if (s.hstate p ≠ 2 ∧ s.hstate p ≠ 3) ∨ le r 0 4 ≠ 0x4E594148 then s
  else
    let b : Word := BitVec.ofNat 64 (le r 0x10 2 % 4096 * 2 ^ 48 + le r 6 1 % 32 * 2 ^ 40 + le r 0x12 2 * 2 ^ 16 + le r 4 1 * 2 ^ 8 + le r 5 1)
    let s1 := ((s.wr .HAY_PORT_PEERA p 0 (BitVec.ofNat 64 (le r 8 8))).wr .HAY_PORT_PEERB p 0 b).setHport p { s.hport p with
      holding := nbit (le r 7 1) 0, topo := le r 0x18 8, seen := true }
    if le r 4 1 ≠ 1 then
      if s.hstate p = 3 then s1
      else ((s1.setHstate p 4).setCause p 9).raise (errRec 0x0C02 sevTransient 11 p 9)
    else ((s1.wrF .HAY_PORT_STATUS p 0 63 56 1).wrF .HAY_PORT_STATUS p 0 55 48 (min 3 (le r 5 1))).identEval p

/-- IDENTITY_FLIT_RECEIVE (R442, R444). -/
def execIdentityFlitReceive (port : Fin 24) (record : List Byte) (s : State) : Out := .next (s.identReceive port record)

/-- Exchange two port numbers. -/
def swapPort (p q x : Nat) : Nat := if x = p then q else if x = q then p else x

/-- A routing word with two ports exchanged (Table 14.10). -/
def swapRt (p q : Nat) (w : Word) : Word :=
  (List.range 4).foldl (fun a i => setFld a (16 * i + 4) (16 * i) (swapPort p q (fld w (16 * i + 4) (16 * i)))) w

/-- Exchange ports p and q in every table (R443). -/
def State.swapTables (s : State) (p q : Nat) : State :=
  let rts := (List.range 16).foldl (fun a x => (List.range 1024).foldl (fun b n => b.wr .HAY_RT x n (swapRt p q (b.rd .HAY_RT x n))) a) s
  let tgs := (List.range 16).foldl (fun a g =>
    let v := a.rd .HAY_TG g 0
    a.wr .HAY_TG g 0 (setFld (setFld v 28 24 (swapPort p q (fld v 28 24))) 20 16 (swapPort p q (fld v 20 16)))) rts
  let mcg := (List.range 64).foldl (fun a g =>
    let v := a.rd .HAY_MCG g 0
    let v1 := setFld v 57 53 (swapPort p q (fld v 57 53))
    a.wr .HAY_MCG g 0 (setBit (setBit v1 p (bit v q)) q (bit v p))) tgs
  let t1 := mcg.wrF .HAY_TIME_CTL 0 0 12 8 (swapPort p q (mcg.rdF .HAY_TIME_CTL 0 0 12 8))
  (t1.wr .HAY_PORT_EXPECT p 0 (s.rd .HAY_PORT_EXPECT q 0)).wr .HAY_PORT_EXPECT q 0 (s.rd .HAY_PORT_EXPECT p 0)

/-- Whether the record found at p is what q expects. -/
def State.foundFor (s : State) (p q : Nat) : Bool :=
  let b := s.rd .HAY_PORT_PEERB p 0
  let e := s.rd .HAY_PORT_EXPECT q 0
  decide (fld b 59 48 = fld e 59 48 ∧ fld b 44 40 = fld e 44 40)

/-- HAY_PORT_CTL.ACCEPT (R443): a swap pair exchanges its ports in every table; another port takes what it found. -/
def State.hayAccept (s : State) (p : Nat) : State :=
  let held := fun q => decide (s.hstate q = 3 ∧ s.rdF .HAY_PORT_STATUS q 0 23 16 = 8)
  if s.hstate p ≠ 3 then s
  else
    match (List.range 24).find? (fun q => decide (q ≠ p) && held p && held q && s.foundFor p q && s.foundFor q p) with
    | some q => ((s.swapTables p q).setHstate p 5).setHstate q 5
    | none =>
      let b := s.rd .HAY_PORT_PEERB p 0
      ((s.wrF .HAY_PORT_EXPECT p 0 59 48 (fld b 59 48)).wrF .HAY_PORT_EXPECT p 0 44 40 (fld b 44 40)).setHstate p 5

/-- HAY_PORT_CTL.RETRAIN (R441): a REFUSED or DOWN port trains again; one that the fence map names stays unused (R515). -/
def State.hayRetrain (s : State) (p : Nat) : State :=
  if s.hstate p ≠ 4 ∧ s.hstate p ≠ 7 then s
  else if s.isFenced 8 p then s.setCause p 12
  else s.setHstate p 1

/-- A write of HAY_PORT_EXPECT takes a holding port back to IDENT (R442). -/
def State.hayExpect (s : State) (p : Nat) (v : Word) : State :=
  let s1 := s.wr .HAY_PORT_EXPECT p 0 (v &&& Reg.mask .HAY_PORT_EXPECT [.RW])
  if s.hstate p = 3 then s1.setHstate p 2 else s1

/-- KEYING_COMPLETE (R439, R441, R463): the link's keys and the depths that the far end advertises for queues 1 to 9, or a
failure. The link starts afresh; packets not acknowledged under the old keys go back to the heads of their queues. -/
def execKeyingComplete (port : Fin 24) (keys : Option (List Byte × List Byte)) (depths : List Nat) (s : State) : Out :=
  let p := port.val
  if s.hstate p ≠ 5 then .next s
  else
    match keys with
    | none => .next (s.hayDown p 10)
    | some (tx, rx) =>
      let x := s.hport p
      let y := { HPort.reset with
        light := x.light, lightAt := x.lightAt, holding := x.holding, topo := x.topo, seen := x.seen, ptr := x.ptr, tptr := x.tptr
        queues := (x.sent.map (·.2)).foldr (fun k m => mput dNil m k.queue (k :: mget dNil m k.queue)) x.queues
        txKey := tx, rxKey := rx, keygen := (x.keygen + 1) % 2 ^ 32
        cr := (List.range 9).foldl (fun m i => mput dNat m (i + 1) (lget depths i 0)) []
        adv := (List.range 9).foldl (fun m i => mput dNat m (i + 1) (lget depths i 0)) [] }
      .next (((s.setHport p y).setHstate p 6).wrF .HAY_PORT_STATUS p 0 8 8 1)

/-! ### Sending -/

/-- The IV of a block (R437). -/
def blockIv (gen block : Nat) : List Byte := beBytes 4 gen ++ beBytes 8 block

/-- The bytes of a control flit from 0x14 to 0xFB (Table 14.2). -/
def State.ctlBody (s : State) (x : HPort) : List Byte :=
  let credc := (List.range 9).flatMap fun i => natToBytes 2 (mget dNat x.given (i + 1))
  let ok := decide (s.rdF .HAY_TIME_STATUS 0 0 0 0 = 1 ∧ s.rdF .HAY_TIME_STATUS 0 0 3 3 = 0)
  let ps := Config.freeNat s.free % 6400
  let resid := (s.time - x.echo.2) * 6400
  let b := natToBytes 8 x.txBlock ++ natToBytes 4 x.keygen ++ credc ++ List.replicate 14 0 ++ natToBytes 8 s.time ++ natToBytes 2 ps ++ List.replicate 6 0 ++
    natToBytes 8 x.echo.1 ++ natToBytes 8 resid ++ natToBytes 1 ok.toNat ++ List.replicate 7 0 ++ natToBytes 8 s.hay.frame
  b ++ List.replicate (232 - b.length) 0

/-- Send a control flit: it closes the block of the data flits sent since the last one and carries its tag (R437). The
credits owed to the far end have then been returned. -/
def State.sendCtl (s : State) (p : Nat) : State :=
  let x := s.hport p
  if x.replay.length ≥ 1023 then s
  else
    let given := x.owed.foldl (fun m o => mput dNat m o.1 ((mget dNat m o.1 + o.2) % 65536)) x.given
    let x1 := { x with given := given, owed := [] }
    let body := s.ctlBody x1
    let iv := blockIv x.keygen x.txBlock
    let word := natToBytes 4 (x.txSeq * 2 ^ 22 + x.ackSeq * 2 ^ 12 + 2 * 2 ^ 10 + x.nak.toNat * 2 ^ 9)
    let tag := if x.open_ = [] then List.replicate 16 0 else gcmTag x.txKey iv (word ++ body) (gcmCrypt x.txKey iv x.open_.flatten)
    let y := { (x1.send 2 false (tag ++ body)) with open_ := [], txBlock := if x.open_ = [] then x.txBlock else x.txBlock + 1 }
    { (s.setHport p y).inc .HAY_PORT_TXFLITS p 0 1 with free := s.free + 1 }

/-- CONTROL_FLIT_SEND (R441). -/
def execControlFlitSend (port : Fin 24) (s : State) : Out := .next (if s.hstate port = 6 then s.sendCtl port else s)

/-- CONTROL_FLIT_TIMEOUT (R441). -/
def execControlFlitTimeout (port : Fin 24) (s : State) : Out := .next (if s.hstate port = 6 then s.hayDown port 7 else s)

/-- Split a packet into flit bodies (R435). -/
def Pkt.bodies (k : Pkt) : List (List Byte) :=
  (chunks 248 17 (k.header ++ k.data.take k.payLen ++ List.replicate (k.payLen - k.data.length) 0)).map fun b => b ++ List.replicate (248 - b.length) 0

/-- Send a packet's flits on a port whose credits have been checked; a block closes after 255 data flits (R437, R439). -/
def State.sendPkt (s : State) (p : Nat) (k : Pkt) : State :=
  let q := k.queue
  let go := fun (t : State) (fb : Nat × List Byte) =>
    let x := t.hport p
    let t1 := t.setHport p { (x.send 0 (decide (fb.1 = 0)) fb.2) with
      open_ := x.open_ ++ [fb.2], sent := if fb.1 + 1 = k.flits then x.sent ++ [(x.txSeq, k)] else x.sent }
    let t2 := t1.inc .HAY_PORT_TXFLITS p 0 1
    if (t2.hport p).open_.length ≥ 255 then t2.sendCtl p else t2
  let x := s.hport p
  let s1 := s.setHport p { x with cr := mput dNat x.cr q (mget dNat x.cr q - k.flits) }
  let bs := k.bodies
  let s2 := ((List.range bs.length).zip bs).foldl go s1
  (if k.tr then s2.inc .HAY_PORT_TRANSIT p 0 1 else s2).mcastCheck k.own

/-! ### Receiving -/

/-- The receiver asks for a resend, or gives the port up when the same flit has failed before (R436). -/
def State.hayBad (s : State) (p cause : Nat) : State :=
  let x := s.hport p
  if x.badSeq = some x.rxSeq then s.hayDown p cause
  else s.setHport p { x with badSeq := some x.rxSeq, nak := true, rxSeq := (x.ackSeq + 1) % 1024, block := [] }

/-- Packets in the bytes of a verified block, from `part` on; none where a header is malformed (R435, R438, R445). -/
def assemble : Nat → List Byte → List (Bool × List Byte) → List Pkt → Option (List Byte × List Pkt)
  | 0, part, _, acc => some (part, acc)
  | _ + 1, part, [], acc => some (part, acc)
  | n + 1, part, b :: bs, acc =>
    let cur := if b.1 then b.2 else part ++ b.2
    match pktOf (cur.take 32) ((cur.drop 32).take (le cur 8 2)) with
    | none => none
    | some k =>
      if cur.length < 32 + k.payLen then assemble n cur bs acc
      else assemble n [] bs (acc ++ [{ k with data := k.data.take k.payLen }])

/-- The counter's response to a deviation in ticks (R467): none, slewing, or a step forwards; a nonzero one is recorded. -/
def State.applyDev (s : State) (d : Int) : State :=
  let s1 := s.wrF .HAY_TIME_STATUS 0 0 0 0 (decide (d = 0)).toNat
  let rec_ := fun (t : State) => t.raise { errRec 0 sevTransient 11 0 0 with detail0 := (d % 2 ^ 64).toNat }
  if d = 0 then s1.setHay { s1.hay with dev := 0 }
  else if d < -65536 then
    let t := rec_ s1
    { t.setHay { t.hay with dev := 0 } with time := ((t.time : Int) - d).toNat % 2 ^ 64 }
  else let t := rec_ s1; t.setHay { t.hay with dev := d }

/-- Counter deviations of mode 1 from a control flit (R468): averaged over 1,024 of them. -/
def State.timeSample (s : State) (p : Nat) (body : List Byte) : State :=
  let f := fun (off n : Nat) => le body (off - 4) n
  let x := s.hport p
  let tstx := f 0x40 8
  let echo := f 0x50 8
  let resid := f 0x58 8
  let rtt := ((s.time : Int) - echo) * 6400 - resid
  let s1 := (s.setHport p { x with echo := (tstx, s.time) }).wrF .HAY_PORT_STATUS p 0 47 32 (min 65535 (rtt.toNat / 1000))
  if s.rdF .HAY_TIME_CTL 0 0 1 0 ≠ 1 ∨ s.rdF .HAY_TIME_CTL 0 0 12 8 ≠ p ∨ !nbit (f 0x60 1) 0 ∨ echo = 0 then s1
  else
    let d := rtt / 2 + sfld (s.rd .HAY_TIME_CTL 0 0) 47 32
    let dev := ((s.time : Int) * 6400 - (tstx * 6400 + f 0x48 2 + d)) / 6400
    let l := s1.hay.samples ++ [dev]
    let s2 := s1.setHay { s1.hay with frame := f 0x68 8, samples := if l.length ≥ 1024 then [] else l }
    if l.length ≥ 1024 then s2.applyDev (l.sum / 1024) else s2

/-- A control flit in order (R437 to R439): its credit counts and the tag of the block it closes are checked; a block that
fails twice takes the port DOWN. -/
def State.ctlReceive (s : State) (p : Nat) (word body : List Byte) : State :=
  let x := s.hport p
  let f := fun (off n : Nat) => le body (off - 4) n
  let credOk := (List.range 9).all fun i => decide (f (0x20 + 2 * i) 2 = mget dNat x.crBack (i + 1) % 65536)
  if !credOk then (s.inc .HAY_PORT_CRC_ERR p 0 1).hayBad p 5
  else
    let iv := blockIv (f 0x1C 4) (f 0x14 8)
    let ct := (x.block.map (·.2)).flatten
    let aad := word ++ body.drop 0x10
    let good := decide (x.block = []) || (decide (f 0x14 8 = x.rxBlock) && decide (gcmTag x.rxKey iv aad ct = body.take 16))
    let again := s.setHport p { x with tagBad := true, nak := true, rxSeq := (x.ackSeq + 1) % 1024, block := [] }
    if !good then (if x.tagBad then s.hayDown p 6 else again)
    else
      let pt := gcmCrypt x.rxKey iv ct
      let bl := ((List.range x.block.length).zip x.block).map fun b => (b.2.1, (pt.drop (248 * b.1)).take 248)
      match assemble 300 x.part bl [] with
      | none => let t := if x.tagBad then s.hayDown p 5 else again; t.inc .HAY_PORT_CRC_ERR p 0 1
      | some (part, ks) =>
        let y := { x with
          part := part, rxq := x.rxq ++ ks, block := [], tagBad := false, badSeq := none, nak := false
          rxBlock := if x.block = [] then x.rxBlock else x.rxBlock + 1
          ackSeq := x.rxSeq, rxSeq := (x.rxSeq + 1) % 1024 }
        (s.setHport p y).timeSample p body

/-- Flits of the replay store resent once from ACK + 1 (R436); one that has been resent before is a lasting error. -/
def State.hayResend (s : State) (p : Nat) : State :=
  let x := s.hport p
  if x.replay.any (·.again) then s.hayDown p 5
  else (s.setHport p { x with replay := x.replay.map fun f => { f with again := true } }).inc .HAY_PORT_REPLAYS p 0 x.replay.length

/-- LINK_FLIT_RECEIVE (R434 to R439, R444): a flit arrives, with the symbols its codewords had corrected, or marked as
overlapping an uncorrectable one. The link word acknowledges, returns credits and asks for resends; data flits wait for
their block. -/
def execLinkFlitReceive (port : Fin 24) (flit : List Byte) (corrected : Nat) (lost : Bool) (s : State) : Out :=
  let p := port.val
  let w := le flit 0 4
  let kind := nbits w 11 10
  let body := (flit.drop 4).take 248
  let s0 := (s.inc .HAY_PORT_FEC_CORR p 0 corrected).inc .HAY_PORT_RXFLITS p 0 1
  if s.hstate p ≠ 6 ∧ s.hstate p ≠ 2 ∧ s.hstate p ≠ 3 then .next s
  else if lost ∨ flit.length ≠ 256 ∨ crc32 (flit.take 252) ≠ le flit 252 4 then
    .next ((s0.inc .HAY_PORT_CRC_ERR p 0 1).hayBad p 5)
  else if s.hstate p ≠ 6 then .next (if kind = 3 then s0.identReceive p (body.take 64) else s0)
  else
    let x := s0.hport p
    let ack := nbits w 21 12
    let kept := x.replay.filter fun f => decide (0 < ringDist f.seq ack 1024 ∧ ringDist f.seq ack 1024 < 1023 ∧ ringDist f.seq ack 1024 ≤ x.replay.length)
    let crq := nbits w 7 4
    let n := nbits w 3 0
    let y := { x with
      replay := kept
      sent := x.sent.filter fun e => kept.any fun f => decide (f.seq = e.1)
      cr := if 1 ≤ crq ∧ crq ≤ 9 then mput dNat x.cr crq (mget dNat x.cr crq + n) else x.cr
      crBack := if 1 ≤ crq ∧ crq ≤ 9 then mput dNat x.crBack crq (mget dNat x.crBack crq + n) else x.crBack }
    let s1 := s0.setHport p y
    let s2 := if nbit w 9 then s1.hayResend p else s1
    if s2.hstate p ≠ 6 ∨ kind = 1 then .next s2
    else if nbits w 31 22 ≠ y.rxSeq then .next (if (s2.hport p).nak then s2 else s2.hayBad p 5)
    else
      let z := s2.hport p
      match kind with
      | 0 => .next (s2.setHport p { z with rxSeq := (z.rxSeq + 1) % 1024, block := z.block ++ [(nbit w 8, body)] })
      | 2 => .next (s2.ctlReceive p (flit.take 4) body)
      | _ => .next (s2.setHport p { z with rxSeq := (z.rxSeq + 1) % 1024, ackSeq := z.rxSeq })

end Sys2Proof.Machine
end

