-- ==== Sys2Proof/Machine/Fabrics.lean ====
section
/-!
DEFINITION. Packets on the fabric (chapter 14): routing, transit, egress (R447 to R454), local delivery (R455), multicast
(R457, R458), reductions (R459, R460, R462), haywain rings (R461) and rack time (R465 to R470).
-/
namespace Sys2Proof.Machine
open Sys2Proof

/-! ### Egress -/

/-- Whether an enabled context of this chip holds a SLICE_ID; and which. -/
def State.ctxOfSlice (s : State) (slice : Nat) : Option Nat :=
  (List.range 16).find? fun x => decide (s.sliceOf x = some slice)

/-- The enabled grant for a SLICE_ID at a port (R452, R453), and the port at its other side. -/
def State.grantAt (s : State) (slice p : Nat) : Option (Nat × Nat) :=
  (List.range 16).findSome? fun g =>
    let v := s.rd .HAY_TG g 0
    if !bit v 63 ∨ fld v 47 32 ≠ slice then none
    else if fld v 20 16 = p then some (g, fld v 28 24)
    else if fld v 28 24 = p then some (g, fld v 20 16)
    else none

def dBucket (_ : Nat) : Nat × Nat := (2048, 0)

/-- Key and level of a grant's bucket at a port, in 1/64 flit: it gains RES/64 flit each flit time of 1.28 ns, that is 5
flit times in a tick of 6.4 ns, and holds at most 32 flits (R454). -/
def State.bucket (s : State) (slice p : Nat) : Option (Nat × Nat) :=
  (s.grantAt slice p).map fun g =>
    let key := 32 * g.1 + p
    let b := mget dBucket s.hay.buckets key
    (key, min 2048 (b.1 + (s.time - b.2) * 5 * s.rdF .HAY_TG g.1 0 53 48))

/-- Queue a packet for a port (R447, R463). -/
def State.enqPort (s : State) (p : Nat) (k : Pkt) : State :=
  if s.hstate p = 7 then s.downPkt k
  else
    let x := s.hport p
    let q := k.queue
    s.setHport p { x with queues := mput dNil x.queues q (mget dNil x.queues q ++ [k]) }

/-- The first packet of a queue when the port can send it whole: credits, and room among the unacknowledged flits. -/
def HPort.ready (x : HPort) (q : Nat) : Option Pkt :=
  match mget dNil x.queues q with
  | [] => none
  | k :: _ => if k.flits ≤ mget dNat x.cr q ∧ x.replay.length + k.flits ≤ 1021 then some k else none

/-- Transit queues of a port in the order of their rotation. -/
def HPort.transits (x : HPort) : List Nat := (List.range 3).map fun i => 7 + (x.tptr + i) % 3

/-- The slot of an egress ring that wins (R181, R450): the slot and the queue. -/
def State.ringSlot (s : State) (p : Nat) : Option (Nat × Nat) :=
  let x := s.hport p
  let n := max 1 (s.rdF .HAY_PORT_RING p 0 53 48)
  let r := s.rd .HAY_PORT_RING p 0
  (List.range n).findSome? fun i =>
    let k := (x.ptr + i) % n
    let c := fld r (2 * k + 1) (2 * k)
    let qs := if c = 3 then x.transits else [1 + 2 * c, 2 + 2 * c]
    (qs.find? fun q => (x.ready q).isSome).map fun q => (k, q)

/-- The plot a packet is charged to (R213): the one the slice tables associate with its slice's context. -/
def State.pktPlot (s : State) (k : Pkt) : Option Nat := (s.ctxOfSlice k.slice).bind s.slicePlot

/-- The packets ready in a port's other queues wait while a packet `k` of queue `q` leaves (R213). -/
def State.egressWaits (s : State) (p q : Nat) (k : Pkt) : State :=
  ((List.range 10).filter (· ≠ q)).foldl (fun t o => match (s.hport p).ready o with
    | some l => t.waitFor .SEED_PLOT_STALL_HAY (s.pktPlot l) (s.pktPlot k)
    | none => t) s

/-- One packet leaves a port that is UP (R450, R454): a transit packet inside its reservation first, else the ring. -/
def State.egress (s : State) (p : Nat) : State :=
  if s.hstate p ≠ 6 then s
  else
    let x := s.hport p
    let reserved := x.transits.findSome? fun q => match x.ready q with
      | some k => match s.bucket k.slice p with
        | some (key, lvl) => if 64 * k.flits ≤ lvl then some (q, key, lvl) else none
        | none => none
      | none => none
    let go := fun (t : State) (q : Nat) =>
      let y := t.hport p
      match mget dNil y.queues q with
      | [] => t
      | k :: ks =>
        let t1 := t.setHport p { y with queues := mput dNil y.queues q ks, tptr := if 7 ≤ q then (q - 7 + 1) % 3 else y.tptr }
        let t2 := match (if k.tr then t1.bucket k.slice p else none) with
          | some (key, lvl) => t1.setHay { t1.hay with buckets := mput dBucket t1.hay.buckets key (lvl - 64 * k.flits, t1.time) }
          | none => t1
        (t2.egressWaits p q k).sendPkt p k
    match reserved with
    | some (q, _, _) => go s q
    | none =>
      match s.ringSlot p with
      | none => s
      | some (slot, q) =>
        let n := max 1 (s.rdF .HAY_PORT_RING p 0 53 48)
        go (s.setHport p { s.hport p with ptr := (slot + 1) % n }) q

/-! ### Local delivery -/

/-- The refusal of a packet (R447): dropped whole, counted at its ingress port and recorded with SRC, DST and SLICE_ID. -/
def State.refusePkt (s : State) (ing : Option Nat) (k : Pkt) : State :=
  let s1 := match ing with
    | some p => s.inc .HAY_PORT_REFUSED p 0 1
    | none => s
  (s1.raise { errRec stProt sevTransient 11 (ing.getD 0) 0 with detail0 := k.src + k.dst * 2 ^ 16 + k.slice * 2 ^ 32 }).mcastCheck k.own

/-- Status of the check of a local target (R455), and what it names. -/
def State.remoteCheck (s : State) (x : Nat) (k : Pkt) (wr : Bool) : Except Nat Loc :=
  let n := k.len
  if 0x010000000000 ≤ k.addr ∧ k.addr < 0x010100000000 then
    let o := k.addr - 0x010000000000
    match unitOfLbin (s.rd .SEED_REMAP 0 0) (o / 0x40000) with
    | none => .error stProt
    | some u =>
      let st := s.windowCheck u (.slice ⟨x % 16, Nat.mod_lt _ (by decide)⟩) k.win k.gen (o % 0x40000) n wr
      if st ≠ 0 then .error st else .ok (.bin u (o % 0x40000))
  else if k.addr + n ≤ 0xA000000000 ∨ 0x100000000000 ≤ k.addr ∧ k.addr + n ≤ 0x200000000000 then
    s.resolve (.slice x) k.addr n wr false false
  else .error stProt

/-- Write a packet's payload at its local target (R455, R456): a bin's write waits in its window as R146 states. -/
def State.remoteWrite (s : State) (k : Pkt) (l : Loc) : State :=
  match l with
  | .bin u o => s.setMu u { s.mu u with wins := (s.mu u).wins ++ [⟨k.win, o, k.data⟩] }
  | l => s.writeLoc k.addr l k.data

/-- A request or a copy that the local target refuses (R23, R145, R455): the port and the bin named count it, and a refusal by
protection is recorded. -/
def State.remoteRefuse (s : State) (ing : Option Nat) (k : Pkt) (st : Nat) : State :=
  let s1 := match ing with
    | some p => s.inc .HAY_PORT_NACKS p 0 1
    | none => s
  let s2 := if 0x010000000000 ≤ k.addr ∧ k.addr < 0x010100000000 then
      match unitOfLbin (s.rd .SEED_REMAP 0 0) ((k.addr - 0x010000000000) / 0x40000) with
      | some u => s1.inc .MU_WIN_NACKS u 0 1
      | none => s1
    else s1
  s2.noteRefusal st 11 (ing.getD 0) k.addr

/-- An answer ends the gateway's tag of a bin's request, which keeps it (R124, R451). -/
def State.binAnswer (s : State) (k : Pkt) : State :=
  let s1 := s.setHay { s.hay with tags := s.hay.tags.filter fun t => decide (t.tag ≠ k.tag) }
  match s.hay.tags.find? (fun t => decide (t.tag = k.tag)) with
  | some t =>
    let g := s1.gen t.unit t.gen
    s1.setGen t.unit t.gen { g with reqs := g.reqs.map fun r => if r.id = t.req then { r with ans := some (k.typ, k.status, k.data) } else r }
  | none => s1

/-- A packet for this chip (R455): requests are checked and answered, responses end the gateway's tag (R451), messages go
to their engine. -/
def State.deliverPkt (s : State) (ing : Option Nat) (k : Pkt) : State :=
  match s.ctxOfSlice k.slice with
  | none => if k.typ = 0 ∨ k.typ = 2 then (s.remoteRefuse ing k stProt).hayNack k stProt else s.refusePkt ing k
  | some x =>
    let nack := fun (st : Nat) => (s.remoteRefuse ing k st).hayNack k st
    match k.typ with
    | 0 =>
      match s.remoteCheck x k false with
      | .error e => nack e
      | .ok l =>
        if s.media k.addr l k.len false ≠ 0 then nack (s.media k.addr l k.len false)
        else (s.countAt k.addr k.len).originate { Pkt.mk0 1 1 k.slice k.src s.chip k.len (s.readLoc k.addr l k.len) with tag := k.tag }
    | 2 =>
      match s.remoteCheck x k true with
      | .error e => nack e
      | .ok l =>
        if s.media k.addr l k.len true ≠ 0 then nack (s.media k.addr l k.len true)
        else (s.remoteWrite k l).originate { Pkt.mk0 3 1 k.slice k.src s.chip 0 [] with tag := k.tag }
    | 1 | 3 | 4 =>
      match s.hay.ctags.find? (fun t => decide (t.tag = k.tag)) with
      | some t => s.coreAnswer t k.typ k.status k.data
      | none => s.binAnswer k
    | 5 => s.setHay { s.hay with inbox := s.hay.inbox ++ [k] }
    | _ => s

/-- The local copy of a multicast (R458): refused copies are counted, never NACKed. -/
def State.deliverGroup (s : State) (ing : Option Nat) (k : Pkt) : State :=
  match s.ctxOfSlice k.slice with
  | none => s.remoteRefuse ing k stProt
  | some x =>
    match s.remoteCheck x k true with
    | .error e => s.remoteRefuse ing k e
    | .ok l => if s.media k.addr l k.len true ≠ 0 then s.remoteRefuse ing k (s.media k.addr l k.len true) else s.remoteWrite k l

/-! ### Routing -/

/-- Tree ports of a group. -/
def State.treePorts (s : State) (g : Nat) : List Nat := (List.range 24).filter (nbit (s.rdF .HAY_MCG g 0 23 0))

/-- A packet of a group (R457): sent on every tree port but the one it came by, and delivered locally under LOCAL. -/
def State.groupPkt (s : State) (ing : Option Nat) (k : Pkt) : State :=
  let v := s.rd .HAY_MCG k.group 0
  let inTree := match ing with
    | some p => nbit (fld v 23 0) p
    | none => true
  if !bit v 63 ∨ fld v 47 32 ≠ k.slice ∨ !inTree then s.refusePkt ing k
  else
    let s1 := ((s.treePorts k.group).filter fun p => decide (ing ≠ some p)).foldl (fun a p => a.enqPort p k) s
    (if bit v 62 then s1.deliverGroup ing k else s1).mcastCheck k.own

/-- Route by a context's table (R447, R448). -/
def State.routePkt (s : State) (ing : Option Nat) (k : Pkt) : State :=
  if k.typ = 6 ∨ k.typ = 7 ∨ k.typ = 8 then s.groupPkt ing k
  else if k.dst = s.chip then s.deliverPkt ing k
  else
    match s.ctxOfSlice k.slice with
    | none => s.refusePkt ing k
    | some x =>
      let w := s.rd .HAY_RT x (k.dst / 4)
      let i := 16 * (k.dst % 4)
      if !bit w (i + 15) then s.refusePkt ing k
      else
        let m := fld w (i + 13) (i + 12)
        s.enqPort (fld w (i + 4) i) { k with
          tr := bit w (i + 14)
          set := if m = 1 then false else if m = 2 then true else if ing.isSome then k.set else false }

/-- A packet that has arrived by a port (R453): transit packets are forwarded unchanged, or lose TR at a member. -/
def State.arrivePkt (s : State) (p : Nat) (k : Pkt) : State :=
  if !k.tr then s.routePkt (some p) k
  else if (s.ctxOfSlice k.slice).isSome then s.routePkt (some p) { k with tr := false }
  else
    match s.grantAt k.slice p with
    | some (_, o) => if k.dst = s.chip ∧ k.typ < 6 then s.refusePkt (some p) k else s.enqPort o k
    | none => s.refusePkt (some p) k

/-- A packet leaves its ingress queue: its credits go back (R439). -/
def State.takeRx (s : State) (p : Nat) : State :=
  let x := s.hport p
  match x.rxq with
  | [] => s
  | k :: ks => s.setHport p { x with rxq := ks, owed := mput dNat x.owed k.queue (mget dNat x.owed k.queue + k.flits) }

/-- Every port's egress arbitration, once. -/
def State.egressAll (s : State) : State := (List.range 24).foldl (fun a p => a.egress p) s

/-- In the FATAL state the chip drops every packet but those under transit grants, as R447 drops a packet (R509). -/
def State.fatalDrop (s : State) (p : Nat) (k : Pkt) : State :=
  if k.tr ∧ (s.ctxOfSlice k.slice).isNone then s.arrivePkt p k else s.refusePkt (some p) k

/-- PACKET_ROUTE (R445 to R458): the next packet of an ingress port, or the next one that this chip originates, is routed;
then every port's egress is arbitrated. -/
def execPacketRoute (ingress : Option (Fin 24)) (s : State) : Out :=
  match ingress with
  | some port =>
    let p := port.val
    match (s.hport p).rxq with
    | [] => .next s.egressAll
    | k :: _ =>
      if !k.tr ∧ (k.typ = 7 ∨ k.typ = 8) ∧ !s.isFatal then .next s.egressAll
      else .next ((if s.isFatal then (s.takeRx p).fatalDrop p k else (s.takeRx p).arrivePkt p k).egressAll)
  | none =>
    match s.hay.orig with
    | k :: ks => .next (((s.setHay { s.hay with orig := ks }).routePkt none k).egressAll)
    | [] => .next ((s.setHay { s.hay with msgs := s.hay.msgs.drop 1 }).egressAll)

/-- GATEWAY_TAG_TIMEOUT (R451): the tag is freed; a core's access is repeated once. -/
def execGatewayTagTimeout (tag : Fin 4096) (s : State) : Out :=
  match s.hay.ctags.find? (fun t => decide (t.tag = tag.val)) with
  | some t => .next (s.coreAnswer t 4 0x0C03 [])
  | none =>
  .next (s.setHay { s.hay with tags := s.hay.tags.filter fun t => decide (t.tag ≠ tag.val) })

/-! ### Reductions -/

/-- FP32 values of a chunk (R459): bit 1 of ROP selects BF16. -/
def chunkVals (rop : Nat) (data : List Byte) : List Nat :=
  if nbit rop 1 then (List.range (data.length / 2)).map fun i => (Fmt.fp32.ofVal RCtx.rne (Fmt.bf16.decode (le data (2 * i) 2))).1
  else (List.range (data.length / 4)).map fun i => le data (4 * i) 4

/-- A combined chunk in its format, rounded with RNE. -/
def chunkBytes (rop : Nat) (vals : List Nat) : List Byte :=
  if nbit rop 1 then vals.flatMap fun v => natToBytes 2 (Fmt.bf16.ofVal RCtx.rne (Fmt.fp32.decode v)).1
  else vals.flatMap fun v => natToBytes 4 v

/-- Combine one value (R459, R83). -/
def redOne (rop a b : Nat) : Nat :=
  let x := Fmt.fp32.decode a
  let y := Fmt.fp32.decode b
  (Fmt.fp32.ofVal RCtx.rne (if nbit rop 0 then FVal.minmax true x y else (x.add y).1)).1

def State.redLive (s : State) (group rid : Nat) : Option RedOp := s.hay.reds.find? fun r => decide (r.group = group ∧ r.rid = rid)

/-- Free the block of a reduction without open chunks and without an operation of this chip (R460). -/
def State.redSweep (s : State) (group rid : Nat) : State :=
  if (s.redLive group rid).isSome then s
  else s.setHay { s.hay with blocks := s.hay.blocks.filter fun b => decide (b.group ≠ group ∨ b.rid ≠ rid ∨ b.chunks ≠ []) }

/-- A packet of a group's reduction. -/
def State.redPkt (s : State) (typ group rid rop chunk : Nat) (data : List Byte) : Pkt :=
  { Pkt.mk0 typ 2 (s.rdF .HAY_MCG group 0 47 32) 0 s.chip data.length data with group := group, rid := rid, rop := rop, chunk := chunk }

/-- Contributions that a chunk still needs: tree ports other than UPPORT, and 24 for the local one (R459). -/
def State.redNeeds (s : State) (group : Nat) : List Nat :=
  (s.treePorts group).filter (fun p => decide (p ≠ s.rdF .HAY_MCG group 0 57 53)) ++ (if s.rdF .HAY_MCG group 0 62 62 = 1 then [24] else [])

/-- A contribution to a chunk from a port (24: local): the new state and, when it was the last, the combined chunk; none
when it must wait for a block (R459, R460). -/
def State.redTake (s : State) (group rid rop chunk src : Nat) (data : List Byte) : Option (State × Option (List Byte)) :=
  let found := s.hay.blocks.find? fun b => decide (b.group = group ∧ b.rid = rid)
  if found.isNone ∧ s.hay.blocks.length ≥ 16 then none
  else
    let b := found.getD ⟨group, rid, rop, []⟩
    let c := (b.chunks.find? fun c => decide (c.idx = chunk)).getD ⟨chunk, s.redNeeds group, []⟩
    let vals := chunkVals rop data
    if b.rop ≠ rop ∨ (c.vals ≠ [] ∧ c.vals.length ≠ vals.length) ∨ !c.from_.contains src then
      some (s.raise (errRec 0x0C04 sevTransient 11 src 0), none)
    else
      let c1 : RChunk := ⟨chunk, c.from_.erase src, if c.vals = [] then vals else (List.range vals.length).map fun i => redOne rop (lget c.vals i 0) (lget vals i 0)⟩
      let others := b.chunks.filter fun c => decide (c.idx ≠ chunk)
      let put := fun (x : RBlock) => s.setHay { s.hay with blocks := (s.hay.blocks.filter fun y => decide (y.group ≠ group ∨ y.rid ≠ rid)) ++ [x] }
      if c1.from_ = [] then some (put { b with chunks := others }, some (chunkBytes rop c1.vals))
      else some (put { b with chunks := others ++ [c1] }, none)

/-- A REDUCE of this chip gets a RESULT chunk (R459 to R461): it is written, and the chunk 64 further on may be contributed;
the last one completes the operation. Answers the state and the chunk to contribute next, if any. -/
def State.redWrite (s : State) (group rid chunk : Nat) (data : List Byte) : State × Option (RedOp × Nat) :=
  match s.redLive group rid with
  | none => (s, none)
  | some r =>
    let n := ceilDiv r.len 3936
    if r.wrote.contains chunk ∨ chunk ≥ n then (s, none)
    else
      let a := r.dst + 3936 * chunk
      match s.put (ownerWho (r.fn / 128) (r.fn % 128)) a (data.take (r.len - 3936 * chunk)) false with
      | .error st =>
        let s1 := s.setHay { s.hay with reds := s.hay.reds.filter fun x => decide (x.ent ≠ r.ent ∨ x.ring ≠ r.ring) }
        (((s1.noteRefusal st 11 r.ring a).redSweep group rid).ringDone .hay r.ring r.ent st 0, none)
      | .ok t =>
        let r1 := { r with wrote := r.wrote ++ [chunk] }
        if r1.wrote.length = n then
          let s1 := t.setHay { t.hay with reds := t.hay.reds.filter fun x => decide (x.ent ≠ r.ent ∨ x.ring ≠ r.ring) }
          ((s1.redSweep group rid).ringDone .hay r.ring r.ent stOK r.len, none)
        else
          (t.setHay { t.hay with reds := t.hay.reds.map fun x => if x.ent = r.ent ∧ x.ring = r.ring then r1 else x },
            if chunk + 64 < n then some (r1, chunk + 64) else none)

/-- A local contribution that finds no free block waits (R460). -/
def State.redHold (s : State) (group rid chunk : Nat) : State :=
  s.setHay { s.hay with reds := s.hay.reds.map fun r => if r.group = group ∧ r.rid = rid then { r with waits := r.waits ++ [chunk] } else r }

/-- Send a complete chunk up, or as RESULT from the root, and write it locally there (R459). `fuel` bounds how many further
chunks of this chip's own REDUCE complete at once. -/
def State.redOut : Nat → State → Nat → Nat → Nat → Nat → List Byte → State
  | 0, s, _, _, _, _, _ => s
  | f + 1, s, group, rid, rop, chunk, data =>
    let v := s.rd .HAY_MCG group 0
    if fld v 57 53 ≠ 31 then (s.enqPort (fld v 57 53) (s.redPkt 7 group rid rop chunk data)).redSweep group rid
    else
      let s1 := (s.treePorts group).foldl (fun a p => a.enqPort p (a.redPkt 8 group rid rop chunk data)) s
      let w := if bit v 62 then s1.redWrite group rid chunk data else (s1, none)
      match w.2 with
      | none => w.1.redSweep group rid
      | some (r, c) =>
        match w.1.redTake group rid rop c 24 (w.1.load .silo (r.src + 3936 * c) (min 3936 (r.len - 3936 * c))) with
        | some (t, some d) => State.redOut f t group rid rop c d
        | some (t, none) => t
        | none => w.1.redHold group rid c

/-- The local contribution of a REDUCE to a chunk (R459, R460). -/
def State.redLocal (s : State) (r : RedOp) (c : Nat) : State :=
  match s.redTake r.group r.rid r.rop c 24 (s.load .silo (r.src + 3936 * c) (min 3936 (r.len - 3936 * c))) with
  | some (t, some d) => State.redOut 65536 t r.group r.rid r.rop c d
  | some (t, none) => t
  | none => s.redHold r.group r.rid c

/-- Local contributions of a ring's REDUCE that waited for a block try again (R460). -/
def State.redRetry (s : State) (q : Nat) : State :=
  let clear := s.setHay { s.hay with reds := s.hay.reds.map fun r => if r.ring = q then { r with waits := [] } else r }
  (s.hay.reds.filter fun r => decide (r.ring = q)).foldl (fun t r => r.waits.foldl (fun u c => u.redLocal r c) t) clear

/-- The first packet of a port's ingress when it is of this type. -/
def State.rxHead (s : State) (p typ : Nat) : Option Pkt :=
  match (s.hport p).rxq with
  | k :: _ => if k.typ = typ ∧ !k.tr ∧ !s.isFatal then some k else none
  | [] => none

/-- REDUCE_CONTRIBUTION (R459, R460): a contribution that needs a block while none is free waits at the head of its queue. -/
def execReduceContribution (port : Fin 24) (s : State) : Out :=
  let p := port.val
  match s.rxHead p 7 with
  | none => .next s
  | some k =>
    let v := s.rd .HAY_MCG k.group 0
    if !bit v 63 ∨ fld v 47 32 ≠ k.slice ∨ !nbit (fld v 23 0) p then .next ((s.takeRx p).refusePkt (some p) k)
    else
      match s.redTake k.group k.rid k.rop k.chunk p k.data with
      | none => .next s
      | some (t, none) => .next (t.takeRx p)
      | some (t, some d) => .next (State.redOut 65536 (t.takeRx p) k.group k.rid k.rop k.chunk d)

/-- RESULT_ARRIVAL (R459, R460): forwarded down every other tree port and written locally under LOCAL. -/
def execResultArrival (port : Fin 24) (s : State) : Out :=
  let p := port.val
  match s.rxHead p 8 with
  | none => .next s
  | some k =>
    let v := s.rd .HAY_MCG k.group 0
    let s0 := s.takeRx p
    if !bit v 63 ∨ fld v 47 32 ≠ k.slice ∨ fld v 57 53 ≠ p then .next (s0.refusePkt (some p) k)
    else
      let s1 := ((s0.treePorts k.group).filter (· ≠ p)).foldl (fun a q => a.enqPort q k) s0
      let w := if bit v 62 then s1.redWrite k.group k.rid k.chunk k.data else (s1, none)
      match w.2 with
      | none => .next (w.1.redSweep k.group k.rid)
      | some (r, c) => .next (w.1.redLocal r c)

/-! ### Rings -/

def stHayBad : Nat := 0x0C05

/-- A malformed haywain entry (R461). -/
def QEnt.hayBad (e : QEnt) : Bool :=
  let n := e.arg 2
  decide (e.flags > 1 ∨ e.npages ≠ 0 ∨ n = 0 ∨ n % 4 ≠ 0 ∨ n > 2 ^ 32 ∨ e.arg 4 ≠ 0 ∨ e.arg 5 ≠ 0 ∨ e.arg 6 ≠ 0) ||
  match e.opc with
  | 1 => decide (e.arg 3 ≥ 64)
  | 2 => decide (Nat.land (e.arg 3) (2 ^ 64 - 1 - 0xFFFF033F) ≠ 0)
  | _ => true

/-- Start the next entry of a haywain ring when it has this opcode; the ring's next entry is fetched when none waits. -/
def State.hayStart (s : State) (q op : Nat) (f : State → QEnt → State) : State :=
  let s1 := if (s.ringReady .hay q).isSome then s else s.ringFetch .hay q
  match s1.ringReady .hay q with
  | none => s1
  | some e =>
    if e.hayBad ∨ s1.rdF .HAY_MCG (e.arg 3 % 64) 0 63 63 = 0 then s1.ringDone .hay q e.id stHayBad 0
    else if e.opc ≠ op then s1
    else
      let st := s1.rangeBad e.owner (e.arg 0) (e.arg 2) false
      let st2 := if op = 2 then s1.rangeBad e.owner (e.arg 1) (e.arg 2) true else 0
      if st ≠ 0 ∨ e.arg 0 + e.arg 2 > 0xA000000000 then (s1.noteRefusal stProt 11 q (e.arg 0)).ringDone .hay q e.id stProt 0
      else if st2 ≠ 0 ∨ (op = 2 ∧ e.arg 1 + e.arg 2 > 0xA000000000) then (s1.noteRefusal stProt 11 q (e.arg 1)).ringDone .hay q e.id stProt 0
      else if s1.media (e.arg 0) (.silo (e.arg 0)) (e.arg 2) false ≠ 0 then
        s1.ringDone .hay q e.id (s1.media (e.arg 0) (.silo (e.arg 0)) (e.arg 2) false) 0
      else f s1 e

/-- MCAST_SEND (R461): the range leaves as packets of the group. -/
def execMcastSend (ring : Fin 16) (s : State) : Out :=
  let q := ring.val
  .next (s.hayStart q 1 fun t e =>
    let g := e.arg 3 % 64
    let n := ceilDiv (e.arg 2) 3936
    let slice := t.rdF .HAY_MCG g 0 47 32
    let t1 := (t.setRingEnt .hay q { e with sub := 1 }).countSilo .SILO_RD_BYTES (e.arg 0) (e.arg 2)
    (List.range n).foldl (fun a i =>
      let len := min 3936 (e.arg 2 - 3936 * i)
      a.originate { Pkt.mk0 6 2 slice 0 a.chip len (a.load .silo (e.arg 0 + 3936 * i) len) with
        group := g, addr := e.arg 1 + 3936 * i, own := (q + 1, e.id) }) t1)

/-- REDUCE (R459 to R461): the first 64 chunks are contributed at once, each further one when its place is free. One
that waits for a block tries again. A chip that is no member of the group only starts the clock of R462. -/
def execReduce (ring : Fin 16) (s : State) : Out :=
  let q := ring.val
  .next ((s.redRetry q).hayStart q 2 fun t e =>
    let g := e.arg 3 % 64
    let rid := nbits (e.arg 3) 31 16
    let rop := nbits (e.arg 3) 9 8
    let r : RedOp := ⟨q, e.id, e.fn, g, rid, rop, e.arg 0, e.arg 1, e.arg 2, [], []⟩
    let n := ceilDiv (e.arg 2) 3936
    let t1 := (t.setRingEnt .hay q { e with sub := 1 })
    let t2 := (t1.setHay { t1.hay with reds := t1.hay.reds ++ [r] }).countSilo .SILO_RD_BYTES (e.arg 0) (e.arg 2)
    if t2.rdF .HAY_MCG g 0 62 62 = 0 then t2
    else
      (List.range (min 64 n)).foldl (fun a c => a.redLocal r c) t2)

/-- REDUCE_TIMEOUT (R462): a REDUCE of a ring has not completed RTMO after it started; its block is freed. -/
def execReduceTimeout (ring : Fin 16) (s : State) : Out :=
  let q := ring.val
  match s.hay.reds.find? (fun r => decide (r.ring = q)) with
  | none => .next s
  | some r =>
    .next ((s.setHay { s.hay with
      reds := s.hay.reds.filter fun x => decide (x.ent ≠ r.ent ∨ x.ring ≠ q)
      blocks := s.hay.blocks.filter fun b => decide (b.group ≠ r.group ∨ b.rid ≠ r.rid) }).ringDone .hay q r.ent 0x0C04 0)

/-! ### Rack time -/

/-- One tick of REF (R465, R467): the counter advances by one, by two every 16 ticks while it is behind, and not at all for
one tick in 16 while it is ahead. -/
def State.refTick (s : State) : State :=
  let r := s.hay.ref + 1
  let h := s.hay
  if r % 16 = 0 ∧ h.dev < 0 then { s.setHay { h with ref := r, dev := h.dev + 1 } with time := (s.time + 2) % 2 ^ 64 }
  else if r % 16 = 0 ∧ 0 < h.dev then s.setHay { h with ref := r, dev := h.dev - 1 }
  else { s.setHay { h with ref := r } with time := (s.time + 1) % 2 ^ 64 }

/-- RACKTICK_EDGE (R466, R467): in mode 0, an edge at the right distance from the last one takes the next frame number and
corrects the counter; another is counted. `phase` is the measured phase error in ps. -/
def execRacktickEdge (phase : BitVec 16) (s : State) : Out :=
  let h := s.hay
  if s.rdF .HAY_TIME_CTL 0 0 1 0 ≠ 0 then .next s
  else if h.edgeAt ≠ 0 ∧ (h.ref + 4 < h.edgeAt - 1 + 156250 ∨ h.edgeAt - 1 + 156250 + 4 < h.ref) ∧ s.rdF .HAY_TIME_STATUS 0 0 1 1 = 0 then
    .next (s.inc .HAY_TIME_BADTICKS 0 0 1)
  else
    let d : Int := (s.time : Int) - (h.frame * 156250 : Nat)
    let s1 := (s.setHay { h with edgeAt := h.ref + 1, frame := (h.frame + 1) % 2 ^ 48 }).wrF .HAY_TIME_STATUS 0 0 47 32 phase.toNat
    .next ((s1.wrF .HAY_TIME_STATUS 0 0 1 1 0).applyDev d)

/-- A write to HAY_TIME_FRAME: the number of the next frame (R466). -/
def State.writeFrame (s : State) (v : Word) : State := s.setHay { s.hay with frame := fld v 47 0 }

/-- REF_LOSS (R470): the chip fails over to the other source, or holds over on its internal reference. `refclk` tells
whether REFCLK is present when SRCPORT is lost. -/
def execRefLoss (refclk : Bool) (s : State) : Out :=
  let c := s.rd .HAY_TIME_CTL 0 0
  let hold := ((s.wrF .HAY_TIME_STATUS 0 0 3 3 1).wrF .HAY_TIME_STATUS 0 0 0 0 0)
  if fld c 1 0 = 0 then
    if bit c 2 ∧ s.hstate (fld c 12 8) = 6 then .next (s.wrF .HAY_TIME_CTL 0 0 1 0 1 |>.wrF .HAY_TIME_STATUS 0 0 2 2 1)
    else .next (hold.wrF .HAY_TIME_STATUS 0 0 2 2 1)
  else if bit c 2 ∧ refclk then .next (s.wrF .HAY_TIME_CTL 0 0 1 0 0)
  else .next (hold.wrF .HAY_TIME_STATUS 0 0 2 2 1)

/-- TICK_LOST (R470): the counter runs free. -/
def execTickLost (s : State) : Out :=
  let s1 := (s.wrF .HAY_TIME_STATUS 0 0 1 1 1).wrF .HAY_TIME_STATUS 0 0 0 0 0
  .next (s1.setHay { s1.hay with dev := 0 })

/-- REF_RETURN (R470): alignment resumes. -/
def execRefReturn (s : State) : Out := .next ((s.wrF .HAY_TIME_STATUS 0 0 3 3 0).wrF .HAY_TIME_STATUS 0 0 2 2 0)

end Sys2Proof.Machine
end

