-- ==== Sys2Proof/Machine/Granary.lean ====
section
/-!
DEFINITION. The granary ports (chapter 09): bring-up (R288), flit groups and their replay (R291, R292, R294), requests, tags
and credits (R293, R295, R296).
-/
namespace Sys2Proof.Machine
open Sys2Proof

def dGrnPort (_ : Nat) : GrnPort := GrnPort.reset
def State.gport (s : State) (p : Nat) : GrnPort := mget dGrnPort s.tier.ports p
def State.setGport (s : State) (p : Nat) (x : GrnPort) : State := { s with tier := { s.tier with ports := mput dGrnPort s.tier.ports p x } }

/-- STATE of a port (Table 09.15): 0 dark, 1 training, 2 hello, 3 UP, 4 refused, 5 DOWN. -/
def State.gstate (s : State) (p : Nat) : Nat := s.rdF .GRN_PORT_STATUS p 0 2 0
def State.setGstate (s : State) (p n : Nat) : State := s.wrF .GRN_PORT_STATUS p 0 2 0 n

/-- TAGS_INUSE and QUARANTINED follow the port's tags. -/
def State.gcount (s : State) (p : Nat) : State :=
  let x := s.gport p
  (s.wrF .GRN_PORT_STATUS p 0 44 32 (x.out.length + x.quar.length)).wrF .GRN_PORT_STATUS p 0 31 21 x.quar.length

/-- The port goes DOWN (R294): its outstanding tags are NACKed with GRANARY_PORT_DOWN and freed. `fenced`: a group failed
again after its replay, and the port is fenced (Table 16.1). -/
def State.gdown (s : State) (p : Nat) (fenced : Bool) : State :=
  let x := s.gport p
  let s1 := (s.setGport p { x with out := [], again := [], replay := [], rx := [] }).inc .GRN_TAG_FREE p 0 x.out.length
  let s2 := (s1.setGstate p 5).gcount p
  let e := errRec 0x0801 sevLasting 7 p 0xA
  if fenced then s2.fenceWith 8 (24 + p) e else s2.raise e

/-- Bytes as data flits of 256 bytes. -/
def flits256 (bs : List Byte) : List (List Byte) := (List.range (ceilDiv bs.length 256)).map fun j => (bs.drop (256 * j)).take 256

/-- The control flit of a port's next group (Table 09.8): it acknowledges the last group received intact and asks for a resend when
one is due. The port returns no credits, since responses need none (R293). -/
def GrnPort.ctlFlit (x : GrnPort) (msgs data : List (List Byte)) : List Byte :=
  let pad := fun (n : Nat) (l : List Byte) => l ++ List.replicate (n - l.length) 0
  let body := [0xC1] ++ natToBytes 1 data.length ++ natToBytes 2 x.txSeq ++ natToBytes 2 ((x.rxSeq + 65535) % 65536) ++
    natToBytes 1 msgs.length ++ natToBytes 1 x.nackDue.toNat ++ natToBytes 8 0 ++
    pad 128 (data.flatMap fun d => natToBytes 4 (crc32 d).toNat) ++ pad 96 msgs.flatten ++ List.replicate 12 0
  body ++ natToBytes 4 (crc32 body).toNat

/-- Send a group: it enters the replay store, which holds 64 groups, and the sequence number advances (R291, R294). -/
def GrnPort.sendGroup (x : GrnPort) (msgs data : List (List Byte)) : GrnPort :=
  { x with txSeq := (x.txSeq + 1) % 65536, replay := x.replay ++ [⟨x.txSeq, false, x.ctlFlit msgs data, data⟩], nackDue := false }

/-- A message of 32 bytes (Table 09.9): its type, tag, units minus 1 and remote address. -/
def grnMsg (mtype tag len raddr : Nat) : List Byte :=
  natToBytes 1 mtype ++ [0] ++ natToBytes 2 tag ++ natToBytes 1 len ++ [0, 0, 0] ++ natToBytes 8 raddr ++ List.replicate 16 0

/-- HELLO (R288, Table 09.9): protocol version 1.2 and the chip serial. -/
def helloMsg : List Byte :=
  [5, 0, 0, 0, 0, 0, 0, 0, 1, 2] ++ natToBytes 6 0 ++ natToBytes 8 Config.serial.toNat ++ List.replicate 8 0

/-- GRANARY_PORT_LOCK (R288): the lanes lock and HELLO is sent. A fenced port is never used. -/
def execGranaryPortLock (port : Fin 4) (s : State) : Out :=
  let p := port.val
  if s.isFenced 8 (24 + p) ∨ s.gstate p > 1 then .next s
  else .next ((s.setGport p (GrnPort.reset.sendGroup [helloMsg] [])).setGstate p 2)

/-- A HELLO_RSP (R288): a different major version refuses the port; the lower minor runs; credits, identifier and
capacity are the appliance's. -/
def State.helloRsp (s : State) (p major minor msgCr dataCr : Nat) (id : Word) (cap : Nat) : State :=
  if s.gstate p ≠ 2 then s
  else if major ≠ 1 then (s.setGstate p 4).raise (errRec 0x0805 sevTransient 7 p 0)
  else
    let s1 := s.setGport p { s.gport p with msgCr := msgCr, dataCr := dataCr, capacity := cap, advMsg := msgCr, advData := dataCr }
    (((s1.wrF .GRN_PORT_STATUS p 0 63 56 1).wrF .GRN_PORT_STATUS p 0 55 48 (min 2 minor)).wr .GRN_PORT_ID p 0 id).setGstate p 3

/-- HELLO_RSP (R288). -/
def execHelloRsp (port : Fin 4) (major minor : BitVec 8) (msgCr : BitVec 16) (dataCr : BitVec 32) (id : BitVec 64) (cap : BitVec 32) (s : State) : Out :=
  .next (s.helloRsp port major.toNat minor.toNat msgCr.toNat dataCr.toNat id cap.toNat)

/-- Tags of a port in use or quarantined. -/
def GrnPort.tags (x : GrnPort) : List Nat := x.out.map (·.tag) ++ x.quar

/-- Free tags of a port: 4,096 in all (R293). -/
def GrnPort.freeTags (x : GrnPort) : List Nat := (List.range 4096).filter fun t => !x.tags.contains t

/-- Return-buffer units a port still has room for: 2 MiB in units of 256 bytes, less what outstanding reads will bring. -/
def GrnPort.room (x : GrnPort) : Nat :=
  8192 - (x.out.filter fun r => !r.wr).foldl (fun n r => n + r.units) 0

/-- Send a request when a tag, a message credit and its room or data credits are there (R293). A WR's bytes are then in
the appliance's memory. -/
def State.gsend (s : State) (p : Nat) (r : GrnReq) : Option State :=
  let x := s.gport p
  if s.gstate p ≠ 3 ∨ x.msgCr = 0 ∨ x.replay.length ≥ 64 ∨ (r.wr ∧ x.dataCr < r.units) ∨ (!r.wr ∧ x.room < r.units) then none
  else
    match s.pickFrom x.freeTags with
    | (none, _) => none
    | (some t, s0) =>
      let y := { x.sendGroup [grnMsg (if r.wr then 2 else 1) t (r.units - 1) r.raddr] (if r.wr then flits256 r.data else []) with
        msgCr := x.msgCr - 1
        dataCr := if r.wr then x.dataCr - r.units else x.dataCr
        out := x.out ++ [{ r with tag := t, sentAt := s.time }] }
      let s1 := ((s0.setGport p y).inc .GRN_TAG_ALLOC p 0 1).gcount p
      some (if r.wr then s1.store .gran (p * 2 ^ 48 + r.raddr) r.data else s1)

/-- Slots of the ports' intake ring (Tables 09.16, 09.17). -/
def State.grnSlots (s : State) : List Nat :=
  (List.range (s.rdF .GRN_CTL 0 0 5 0)).map fun i => nbits (s.rd .GRN_RING (i / 32) 0).toNat (2 * (i % 32) + 1) (2 * (i % 32))

/-- GRANARY_REQUEST_SEND (R293, R298): a repeat waiting in the error class goes first; else the ring decides between the request
named and the rivals of the same cycle, and the pointer moves past the slot that won. A request that loses waits, charged to its
plot when a rival of another plot won (R213); so does one that finds no tag or credit. -/
def execGranaryRequestSend (port : Fin 4) (who : Fin 4) (raddr : BitVec 56) (units : Fin 16) (data : Option (List Byte))
    (plot : Option (Fin 16)) (rivals : List Rival) (s : State) : Out :=
  let p := port.val
  let x := s.gport p
  match x.again with
  | r :: rs =>
    match s.gsend p r with
    | some t => .next (t.setGport p { t.gport p with again := rs })
    | none => .next s
  | [] =>
    let n := units.val + 1
    let wr := data.isSome
    let bs := (data.getD []).take (256 * n)
    if raddr.toNat % 256 ≠ 0 ∨ (wr ∧ bs.length ≠ 256 * n) then .next s
    else
      let slots := s.grnSlots
      match ringGrant slots (mget dNat s.tier.grnPtr p) fun w => decide (w = who.val) || rivals.any fun r => decide (r.idx % 4 = w) with
      | none => .next s
      | some i =>
        if slots[i]? = some who.val then
          .next (match s.gsend p ⟨0, wr, raddr.toNat, n, who, false, 0, bs⟩ with
            | some t => { t with tier := { t.tier with grnPtr := mput dNat t.tier.grnPtr p ((i + 1) % slots.length) } }
            | none => s)
        else .next (s.waitFor .SEED_PLOT_STALL_GRN (plot.map Fin.val) ((rivals.find? fun r => slots[i]? = some (r.idx % 4)).bind Rival.plotNo))

/-- A detected error of a request is repeated once, in the error class; a second one stands (R295). -/
def GrnPort.retry (x : GrnPort) (r : GrnReq) : GrnPort := if r.again then x else { x with again := x.again ++ [{ r with again := true }] }

/-- The response to a tag (R295, R296): 0 OK, 1 ADDR_ERR, 2 MEDIA_ERR. A late response frees a quarantined tag and is
discarded; read data is what the appliance's memory holds. -/
def State.gresponse (s : State) (p tag status : Nat) (data : List Byte) : State :=
  let x := s.gport p
  match x.out.find? (fun r => decide (r.tag = tag)) with
  | some r =>
    let y := { x with out := x.out.filter fun q => decide (q.tag ≠ tag) }
    let s1 := fun (z : GrnPort) => ((s.setGport p z).inc .GRN_TAG_FREE p 0 1).gcount p
    let e := (errRec 0x0802 (if r.again then sevLasting else sevTransient) 7 p 0xA).withAddr r.raddr
    if status = 2 then
      if r.again then { (s1 y).raise e with rstat := 0x0802 } else s1 (y.retry r)
    else if status = 1 then { (s1 y).raise { e with code := 0x0803, sev := sevTransient } with rstat := 0x0803 }
    else
      let s2 := if r.again then (s1 y).raise e else s1 y
      let s3 := if r.wr ∨ data = [] then s2 else s2.store .gran (p * 2 ^ 48 + r.raddr) (data.take (256 * r.units))
      { s3 with rstat := stOK, rdata := if r.wr then 0 else BitVec.ofNat 64 (s3.loadNat .gran (p * 2 ^ 48 + r.raddr) 8) }
  | none =>
    if x.quar.contains tag then
      ((s.setGport p { x with quar := x.quar.filter (· ≠ tag) }).inc .GRN_TAG_FREE p 0 1).gcount p
    else s

/-- GRANARY_RESPONSE (R295). -/
def execGranaryResponse (port : Fin 4) (tag : Fin 4096) (status : Fin 3) (data : List Byte) (s : State) : Out :=
  .next (if s.gstate port = 3 then s.gresponse port tag status data else s)

/-- GRANARY_TIMEOUT (R295, R296): the tag is quarantined and the request repeated once; more than 1,024 quarantined tags
take the port DOWN. -/
def execGranaryTimeout (port : Fin 4) (tag : Fin 4096) (s : State) : Out :=
  let p := port.val
  let x := s.gport p
  match x.out.find? (fun r => decide (r.tag = tag.val)) with
  | none => .next s
  | some r =>
    let y := { x with out := x.out.filter (fun q => decide (q.tag ≠ tag.val)), quar := x.quar ++ [tag.val] }
    let s1 := (s.setGport p (y.retry r)).gcount p
    let s2 := if r.again then { s1.raise ((errRec 0x0804 sevLasting 7 p 0xA).withAddr r.raddr) with rstat := 0x0804 } else s1
    .next (if y.quar.length > 1024 then s2.gdown p false else s2)

/-! ### Groups -/

/-- Messages of a control flit, as their 32 bytes each (Table 09.8). -/
def groupMsgs (ctl : List Byte) : List (List Byte) :=
  (List.range (min 3 (le ctl 6 1))).map fun k => (ctl.drop (0x90 + 32 * k)).take 32

/-- Whether a group is intact: TYPE, both kinds of CRC, and only defined message types (R291, R294). -/
def groupOk (ctl : List Byte) (data : List (List Byte)) : Bool :=
  let n := le ctl 1 1
  decide (ctl.length = 256 ∧ le ctl 0 1 = 0xC1 ∧ n ≤ 32 ∧ data.length = n ∧ le ctl 6 1 ≤ 3) &&
  decide (crc32 (ctl.take 0xFC) = le ctl 0xFC 4) &&
  (List.range n).all (fun j => decide ((lget data j []).length = 256 ∧ crc32 (lget data j []) = le ctl (0x10 + 4 * j) 4)) &&
  (groupMsgs ctl).all fun m => decide (1 ≤ le m 0 1 ∧ le m 0 1 ≤ 6)

/-- Give data flits to the responses that wait for them, in message order; each response that is whole is taken. -/
def feedRx : Nat → State → Nat → List (List Byte) → State
  | 0, s, _, _ => s
  | f + 1, s, p, data =>
    let x := s.gport p
    match x.rx with
    | [] => s
    | (tag, st, left, got) :: rest =>
      let k := min left data.length
      let got1 := got ++ (data.take k).flatten
      if k = left then
        feedRx f ((s.setGport p { x with rx := rest }).gresponse p tag st got1) p (data.drop k)
      else s.setGport p { x with rx := (tag, st, left - k, got1) :: rest }

/-- One message of an intact group. -/
def State.gmsg (s : State) (p : Nat) (m : List Byte) : State :=
  let tag := le m 2 2 % 4096
  match le m 0 1 with
  | 3 =>
    let units := (((s.gport p).out.find? fun r => decide (r.tag = tag)).map (·.units)).getD 0
    let x := s.gport p
    if le m 1 1 = 0 then s.setGport p { x with rx := x.rx ++ [(tag, 0, units, [])] } else s.gresponse p tag (le m 1 1) []
  | 4 => s.gresponse p tag (le m 1 1) []
  | 6 => s.helloRsp p (le m 8 1) (le m 9 1) (le m 10 2) (le m 12 4) (BitVec.ofNat 64 (le m 16 8)) (le m 24 4)
  | _ => s

/-- GRANARY_GROUP_RECEIVE (R291, R292, R294): a group that fails a check is NACKed once and takes the port DOWN when its
replay fails too; an intact one acknowledges, returns credits, asks for replays and carries messages. -/
def execGranaryGroupReceive (port : Fin 4) (ctl : List Byte) (data : List (List Byte)) (s : State) : Out :=
  let p := port.val
  let x := s.gport p
  if s.gstate p ≠ 2 ∧ s.gstate p ≠ 3 then .next s
  else if !groupOk ctl data then
    if x.nackSent then .next (s.gdown p true)
    else .next (s.setGport p { x with nackSent := true, nackDue := true })
  else if le ctl 2 2 ≠ x.rxSeq then .next s
  else
    let ack := le ctl 4 2
    let kept := x.replay.filter fun g => decide (0 < ringDist g.seq ack 65536 ∧ ringDist g.seq ack 65536 < 32768)
    let nack := nbit (le ctl 7 1) 0
    if nack ∧ kept.any (·.again) then .next (s.gdown p true)
    else
      let y := { x with
        rxSeq := (x.rxSeq + 1) % 65536
        nackSent := false
        nackDue := false
        replay := if nack then kept.map fun g => { g with again := true } else kept
        msgCr := x.msgCr + le ctl 8 4
        dataCr := x.dataCr + le ctl 12 4 }
      let s1 := (s.setGport p y).inc .GRN_REPLAYS p 0 (if nack then kept.length else 0)
      let s2 := (groupMsgs ctl).foldl (fun a m => a.gmsg p m) s1
      .next (feedRx ((s2.gport p).rx.length + 1) s2 p data)

/-- GRANARY_CONTROL_TIMEOUT (R294). -/
def execGranaryControlTimeout (port : Fin 4) (s : State) : Out :=
  .next (if s.gstate port = 2 ∨ s.gstate port = 3 then s.gdown port false else s)

/-- GRANARY_IDLE_FLIT (R294): an idle port sends a control flit, which enters the replay store. -/
def execGranaryIdleFlit (port : Fin 4) (s : State) : Out :=
  let x := s.gport port
  .next (if s.gstate port = 3 ∧ x.replay.length < 64 then s.setGport port (x.sendGroup [] []) else s)

/-- GRN_PORT_CTL.RETRAIN (R288, R294, R296): bring-up starts again and every tag is freed. -/
def State.gretrain (s : State) (p : Nat) : State :=
  let x := s.gport p
  let n := x.out.length + x.quar.length
  if s.isFenced 8 (24 + p) then s
  else (((s.setGport p GrnPort.reset).inc .GRN_TAG_FREE p 0 n).gcount p).setGstate p 1

/-- A write to an extent (R289, Table 09.13): a bad port count, or a change that makes two enabled extents overlap, leaves
it unchanged. -/
def State.extentCfg (s : State) (x : Nat) (v : Word) : State × Nat :=
  let v1 := v &&& Reg.mask .GRN_EXTA [.RW]
  let n := (portList (fld v1 59 56)).length
  let lo := fld v1 14 0
  let hi := lo + fld v1 46 32
  let meets := (List.range 256).any fun y =>
    let e := s.rd .GRN_EXTA y 0
    decide (y ≠ x) && bit e 63 && bit v1 63 && decide (fld e 14 0 ≤ hi ∧ lo ≤ fld e 14 0 + fld e 46 32)
  if n ≠ 1 ∧ n ≠ 2 ∧ n ≠ 4 then (s, stOK) else if meets then (s, stProt) else (s.wr .GRN_EXTA x 0 v1, stOK)

/-- GRN_CAP.LIMIT (R289): the end of the highest enabled extent, in GiB. -/
def State.granLimit (s : State) : Nat :=
  (List.range 256).foldl (fun m x =>
    let e := s.rd .GRN_EXTA x 0
    if bit e 63 then max m (fld e 14 0 + fld e 46 32 + 1) else m) 0

end Sys2Proof.Machine
end

