-- ==== Sys2Proof/Machine/Riddle.lean ====
section
/-!
DEFINITION. The riddle (chapter 13): jobs (R407 to R410), gating (R411, R412), records and capacity (R414 to R417), dispatch
(R418 to R422), combine (R424, R425), messages (R426, R427) and the token ledger (R428, R429).
-/
namespace Sys2Proof.Machine
open Sys2Proof

def stRdlBad : Nat := 0x0B01
def stRdlTimeout : Nat := 0x0B02
def stRdlMismatch : Nat := 0x0B03
def stRdlData : Nat := 0x0B04

def State.setRdl (s : State) (r : RdlSt) : State := { s with rdl := r }

/-! ### Context and descriptor fields -/

/-- Own member index, members, serving core and group of a slice context (Table 13.3). -/
def State.rdlMember (s : State) (x : Nat) : Nat := s.rdF .RDL_CTX_CFG x 0 38 27
def State.rdlMembers (s : State) (x : Nat) : Nat := s.rdF .RDL_CTX_CFG x 0 50 39 + 1
def State.rdlCore (s : State) (x : Nat) : Nat := s.rdF .RDL_CTX_CFG x 0 62 57
def State.rdlGroup (s : State) (x : Nat) : Nat := s.rdF .RDL_CTX_CFG x 0 56 51

/-- Home member and local slot of an expert (R409). -/
def State.expertHome (s : State) (x e : Nat) : Nat × Nat :=
  let v := s.loadNat .csram (fld (s.rd .RDL_CTX_CFG x 0) 24 0 + 4 * e) 4
  (nbits v 11 0, nbits v 25 16)

/-- Fields of a job (Table 13.1). -/
def RdlJob.f (j : RdlJob) (off n : Nat) : Nat := le j.desc off n
def RdlJob.op (j : RdlJob) : Nat := j.f 0 1
def RdlJob.flag (j : RdlJob) (i : Nat) : Bool := nbit (j.f 1 1) i
def RdlJob.layer (j : RdlJob) : Nat := j.f 2 2
def RdlJob.experts (j : RdlJob) : Nat := j.f 4 2 + 1
def RdlJob.k (j : RdlJob) : Nat := j.f 6 1
def RdlJob.tlocal (j : RdlJob) : Nat := j.f 8 4
def RdlJob.tbase (j : RdlJob) : Nat := j.f 0xC 4
def RdlJob.step (j : RdlJob) : Nat := j.f 0x10 8
def RdlJob.cf (j : RdlJob) : Nat := j.f 0x18 2
def RdlJob.xrows (j : RdlJob) : Nat := j.f 0x1C 4
def RdlJob.gate (j : RdlJob) : Nat := j.f 0x20 8
def RdlJob.src (j : RdlJob) : Nat := j.f 0x28 8
def RdlJob.rowBytes (j : RdlJob) : Nat := j.f 0x30 4
def RdlJob.srowBytes (j : RdlJob) : Nat := j.f 0x34 4
def RdlJob.ssrc (j : RdlJob) : Nat := j.f 0x38 8
def RdlJob.xtab (j : RdlJob) : Nat := j.f 0x40 8
def RdlJob.bias (j : RdlJob) : Nat := j.f 0x48 8
def RdlJob.wAddr (j : RdlJob) : Nat := j.f 0x50 8
def RdlJob.cntAddr (j : RdlJob) : Nat := j.f 0x58 8
def RdlJob.scale (j : RdlJob) : Nat := j.f 0x60 4
def RdlJob.yrowBytes (j : RdlJob) : Nat := j.f 0x64 4

/-- Bytes of a gate row (R411). -/
def RdlJob.gateRow (j : RdlJob) : Nat := roundUp (j.experts * (if j.flag 3 then 2 else 4)) 64

/-- The identity that every message of a job carries (R414). -/
def RdlJob.ident (j : RdlJob) : JobId := ⟨j.step, j.layer, j.op, j.f 4 2, j.k, j.cf⟩

/-- Whether two identities name the same job: STEP, LAYER and OP; the rest must then agree (R426, R427). -/
def JobId.same (a b : JobId) : Bool := decide (a.step = b.step ∧ a.layer = b.layer ∧ a.op = b.op)

/-- Base addresses of a local slot: input rows, scale rows, output rows (Table 13.2). -/
def State.xtabOf (s : State) (j : RdlJob) (slot : Nat) : Nat × Nat × Nat :=
  let a := j.xtab + 32 * slot
  (s.loadNat .csram a 8, s.loadNat .csram (a + 8) 8, s.loadNat .csram (a + 16) 8)

/-- The experts of a job whose home is this chip, with their slots. -/
def State.localExperts (s : State) (j : RdlJob) : List (Nat × Nat) :=
  (List.range j.experts).filterMap fun e =>
    let h := s.expertHome j.ctx e
    if h.1 = s.rdlMember j.ctx then some (e, h.2) else none

/-- Local slots of a job: one more than the highest. -/
def State.localSlots (s : State) (j : RdlJob) : Nat := (s.localExperts j).foldl (fun m p => max m (p.2 + 1)) 0

def csramSize : Nat := 0x2000000

/-- Bytes within control SRAM. -/
def inCsram (a n al : Nat) : Bool := decide (a % al = 0 ∧ a + n ≤ csramSize)

/-- Field checks of R408 that need only the descriptor. Each address is aligned to the unit it holds (log entry 70). -/
def RdlJob.fieldsOk (j : RdlJob) : Bool :=
  decide (1 ≤ j.op ∧ j.op ≤ 2 ∧ nbits (j.f 1 1) 7 5 = 0 ∧ j.experts ≤ 1024 ∧ 1 ≤ j.k ∧ j.k ≤ 8 ∧ j.f 7 1 = 0 ∧
    j.tlocal ≤ 65535 ∧ 1 ≤ j.cf ∧ j.f 0x1A 2 = 0 ∧ 16 ≤ j.xrows ∧ j.xrows % 16 = 0 ∧ j.rowBytes % 64 = 0 ∧
    j.srowBytes % 16 = 0 ∧ j.yrowBytes % 64 = 0 ∧ (j.desc.drop 0x68).all (· = 0) ∧ j.src % 64 = 0 ∧
    (j.op = 1 ∨ j.gate = 0) ∧ j.gate % 64 = 0 ∧ j.ssrc % 16 = 0 ∧ j.wAddr % 4 = 0) &&
  inCsram j.xtab 32 32 && (!j.flag 2 || inCsram j.bias (4 * j.experts) 4) && (decide (j.op = 2) || inCsram j.cntAddr 8 8)

/-- The silo addresses of a job under R268: (address, bytes, written). -/
def State.jobRanges (s : State) (j : RdlJob) : List (Nat × Nat × Bool) :=
  let t := j.tlocal
  let xs := (s.localExperts j).map fun p => s.xtabOf j p.2
  if j.op = 1 then
    [(j.gate, t * j.gateRow, false), (j.src, t * j.rowBytes, false), (j.ssrc, t * j.srowBytes, false), (j.wAddr, t * j.k * 4, true)] ++
      xs.map (fun x => (x.1, j.xrows * j.rowBytes, true)) ++ xs.map (fun x => (x.2.1, j.xrows * j.srowBytes, true))
  else
    [(j.src, t * j.k * j.yrowBytes, true)] ++ xs.map (fun x => (x.2.2, j.xrows * j.yrowBytes, false))

/-- The checks of R408. -/
def State.jobOk (s : State) (j : RdlJob) : Bool :=
  j.fieldsOk && (s.jobRanges j).all fun r => decide (r.2.1 = 0) || s.siloOk (.slice j.ctx) r.1 r.2.1 r.2.2 false

/-! ### Jobs and the ledger -/

def State.rdlJob? (s : State) (no : Nat) : Option RdlJob := s.rdl.jobs.find? fun j => decide (j.no = no)
def State.setJob (s : State) (j : RdlJob) : State :=
  s.setRdl { s.rdl with jobs := s.rdl.jobs.map fun x => if x.no = j.no then j else x }
def State.ctxJobs (s : State) (x : Nat) : List RdlJob := s.rdl.jobs.filter fun j => decide (j.ctx = x)

def RdlLed.new (x core step : Nat) : RdlLed := ⟨x, core, step, 0, 0, 0, 0, 0, [], false⟩

/-- Change the counts staged for a job's step (R429); those of an abandoned step are dropped (R428). -/
def State.stageLed (s : State) (j : RdlJob) (f : RdlLed → RdlLed) : State :=
  if j.drop then s
  else
    let mine := fun (l : RdlLed) => decide (l.ctx = j.ctx ∧ l.core = j.core ∧ l.step = j.step)
    let l0 := (s.rdl.leds.find? mine).getD (RdlLed.new j.ctx j.core j.step)
    s.setRdl { s.rdl with leds := s.rdl.leds.filter (fun l => !mine l) ++ [f l0] }

/-- Bytes of a job written to the silo; a refused write is recorded (R508). -/
def State.rdlPut (s : State) (x a : Nat) (bs : List Byte) : State :=
  if bs = [] then s
  else match s.put (.slice x) a bs false with
    | .ok t => t
    | .error e => s.noteRefusal e 10 x a

/-- The count area (R420, R422). -/
def State.countArea (s : State) (j : RdlJob) (status : Nat) (counts : List Nat) : State :=
  (s.store .csram j.cntAddr (natToBytes 2 status ++ natToBytes 2 j.layer ++ natToBytes 4 j.step ++
    counts.flatMap (natToBytes 4))).event (s.rdlCore j.ctx) 8

/-- A job ends: its command completes and its identity is remembered (R426). -/
def State.jobEnd (s : State) (j : RdlJob) (status : Nat) : State :=
  let s1 := s.setRdl { s.rdl with
    jobs := s.rdl.jobs.filter fun x => decide (x.no ≠ j.no)
    ended := mput dNil s.rdl.ended j.ctx (mget dNil s.rdl.ended j.ctx ++ [j.ident]) }
  (s1.wrF .RDL_CTX_STATUS j.ctx 0 63 48 status).complete ⟨j.core, j.ticket⟩ 0 status none

/-- A job fails; a ROUTE job still writes its count area with every count 0 (R422). -/
def State.jobFail (s : State) (j : RdlJob) (status : Nat) : State :=
  let s1 := if j.op = 1 ∧ inCsram j.cntAddr 8 8 then s.countArea j status (List.replicate (s.localSlots j) 0) else s
  s1.jobEnd j status

/-! ### Messages -/

/-- A header that disagrees with the job (R427). -/
def RdlMsg.clash (m : RdlMsg) (j : RdlJob) : Bool :=
  match m.body with
  | .records c rs => decide (m.job ≠ j.ident ∨ c ≠ rs.length)
  | .header _ => decide (m.job ≠ j.ident)
  | _ => false

/-- A message meets its job (R426, R427). -/
def State.jobMsg (s : State) (j : RdlJob) (m : RdlMsg) : State :=
  if m.clash j then s.jobFail j stRdlMismatch else s.setJob { j with inbox := j.inbox ++ [m] }

/-- Numbers of a message as handed to the fabric. -/
def jobNums (i : JobId) : List Nat := [i.step, i.layer, i.op, i.e, i.k, i.cf]

/-- Hand a message to the fabric, to a group or to a member + 64 (R414, R418); its packets are not stated (log entry 71). -/
def State.rdlSend (s : State) (x to_ : Nat) (nums : List Nat) (bytes : List Byte) : State :=
  s.setHay { s.hay with msgs := s.hay.msgs ++ [⟨1, to_, x, nums, bytes⟩] }

/-- RIDDLE_MESSAGE_ARRIVAL (R426): matched to its job, discarded as stale, held in the early store, or, when that is full,
held back by credit. -/
def execRiddleMessageArrival (ctx : Fin 16) (msg : RdlMsg) (s : State) : Out :=
  match (s.ctxJobs ctx).find? (fun j => j.ident.same msg.job) with
  | some j => .next (s.jobMsg j msg)
  | none =>
    let early := mget dNil s.rdl.early ctx
    if (mget dNil s.rdl.ended ctx).any (·.same msg.job) then .next (s.inc .RDL_STALE_MSGS ctx 0 1)
    else if early.length ≥ 64 then .next s
    else .next (s.setRdl { s.rdl with early := mput dNil s.rdl.early ctx (early ++ [msg]) })

/-- The early messages of a job just accepted meet it. -/
def State.drainEarly (s : State) (j : RdlJob) : State :=
  let early := mget dNil s.rdl.early j.ctx
  let mine := early.filter (·.job.same j.ident)
  let s1 := s.setRdl { s.rdl with early := mput dNil s.rdl.early j.ctx (early.filter fun m => !m.job.same j.ident) }
  mine.foldl (fun t m => match t.rdlJob? j.no with
    | some y => t.jobMsg y m
    | none => t) s1

/-! ### Gating -/

def fpNegInf : Nat := 0xFF800000
def fpv (x : Nat) : FVal := Fmt.fp32.decode x
def fpr (v : FVal) : Nat := (Fmt.fp32.ofVal RCtx.rne v).1
def fpAdd (a b : Nat) : Nat := fpr ((fpv a).add (fpv b)).1
def fpMul (a b : Nat) : Nat := fpr ((fpv a).mul (fpv b)).1
def fpDiv (a b : Nat) : Nat := (Fmt.fp32.divide RCtx.rne (fpv a) (fpv b)).1
/-- a > b; false when either is a NaN. -/
def fpGt (a b : Nat) : Bool := decide ((fpv a).cmp (fpv b) = some 1)

/-- exp(x) as exp2(x x log2 e), within the accuracy of Table 02.5 (R411); `cand` is the free candidate. -/
def fpExp (cand : Word32) (x : Nat) : Nat := (sfEval .exp2 false cand (BitVec.ofNat 32 (fpMul x 0x3FB8AA3B))).1.toNat

/-- The free candidate of evaluation `k` at free counter `n`. -/
def candAt (n k : Nat) : Word32 := (Config.freeWord (n + k)).setWidth 32

/-- A logit as FP32; a NaN counts as minus infinity (R411). -/
def logit (bf16 : Bool) (v : Nat) : Nat :=
  let x := if bf16 then v * 65536 else v
  if fpv x = .nan then fpNegInf else x

/-- Scores of a row of logits: softmax, the maximum taken off first and the sum in expert order (log entry 72), or sigmoid. -/
def gateScores (n : Nat) (sigmoid : Bool) (ls : List Nat) : List Nat :=
  if sigmoid then
    (List.range ls.length).map fun k => fpDiv 0x3F800000 (fpAdd 0x3F800000 (fpExp (candAt n k) ((lget ls k 0).xor 0x80000000)))
  else
    let m := ls.foldl (fun a x => if fpGt x a then x else a) fpNegInf
    let es := (List.range ls.length).map fun k => fpExp (candAt n k) (fpAdd (lget ls k 0) (m.xor 0x80000000))
    let sum := es.foldl fpAdd 0
    es.map fun e => fpDiv e sum

/-- The K best experts of a list of selection values with their indices, ties to the lower index; minus infinity is never
chosen under a bias of minus infinity (R411, R412). -/
def topK : Nat → List (Nat × Nat) → List (Nat × Nat)
  | 0, _ => []
  | _ + 1, [] => []
  | k + 1, c :: cs =>
    let b := cs.foldl (fun a x => if fpGt x.2 a.2 then x else a) c
    b :: topK k ((c :: cs).filter fun x => decide (x.1 ≠ b.1))

/-- The records of one local token (R412, R414). -/
def tokenRecs (j : RdlJob) (n i : Nat) (logits biases : List Nat) : List RRec :=
  let sc := gateScores n (j.flag 0) logits
  let cand := (List.range j.experts).filterMap fun e =>
    let b := lget biases e 0
    if j.flag 2 ∧ b = fpNegInf then none
    else some (e, if j.flag 2 then fpAdd (lget sc e 0) b else lget sc e 0)
  let ch := (topK j.k cand).map (·.1)
  let tot := ch.foldl (fun a e => fpAdd a (lget sc e 0)) 0
  (List.range ch.length).map fun c =>
    let e := lget ch c 0
    let w := fpMul j.scale (lget sc e 0)
    ⟨j.tbase + i, e, c, lget sc e 0, if j.flag 1 then fpDiv w tot else w⟩

/-- Read the gate rows and form the records of every local token; none when a read fails (R413). -/
def State.gateAll (s : State) (j : RdlJob) : Option (List RRec) :=
  let biases := if j.flag 2 then (List.range j.experts).map fun e => s.loadNat .csram (j.bias + 4 * e) 4 else []
  let w := if j.flag 3 then 2 else 4
  (List.range j.tlocal).foldl (fun acc i =>
    match acc with
    | none => none
    | some rs =>
      match s.fetch (.slice j.ctx) (j.gate + i * j.gateRow) j.gateRow false with
      | .error _ => none
      | .ok bs =>
        let ls := (List.range j.experts).map fun e => logit (j.flag 3) (le bs (w * e) w)
        some (rs ++ tokenRecs j (s.free + i * 1024) i ls biases)) (some [])

/-- Bytes of a record (R414). -/
def RRec.bytes (r : RRec) : List Byte :=
  natToBytes 4 r.g ++ natToBytes 2 r.e ++ natToBytes 1 r.j ++ [0] ++ natToBytes 4 r.score ++ natToBytes 4 r.weight

/-! ### Accepting a job -/

/-- Accept the DISPATCH a core has sent, if its job has this operation (R407, R408, R410): none while it waits or when
there is no such job; the job, or nothing when it failed at once. A job whose operation is neither fails under either. -/
def State.acceptJob (s : State) (c op : Nat) : Option (State × Option RdlJob) :=
  match s.inHand c 10 with
  | none => none
  | some m =>
    let x := m.ctx % 16
    let a := (m.arg 0).toNat
    let bad := fun (t : State) => some ((t.wrF .RDL_CTX_STATUS x 0 63 48 stRdlBad).finish c m stRdlBad, none)
    if s.isFatal then none
    else if s.rdF .RDL_CTX_CFG x 0 63 63 = 0 ∨ !inCsram a 128 64 then bad s
    else if (s.ctxJobs x).length ≥ 4 then none
    else
      let j : RdlJob := ⟨s.rdl.no, x, c, m.ticket, s.load .csram a 128, 0, [], [], [], [], [], false⟩
      if (j.op = 1 ∨ j.op = 2) ∧ j.op ≠ op then none
      else
        let s1 := (s.setCmd c { m with phase := 2 }).setRdl { s.rdl with no := s.rdl.no + 1, jobs := s.rdl.jobs ++ [j] }
        if !s1.jobOk j then some (s1.jobFail j stRdlBad, none) else some (s1, some j)

/-- ROUTE (R407 to R414): the job is accepted, its tokens scored, and its records multicast to the slice. -/
def execRoute (core : Fin 64) (s : State) : Out :=
  match s.acceptJob core 1 with
  | none => .next s
  | some (s1, none) => .next s1
  | some (s1, some j) =>
    match s1.gateAll j with
    | none => .next ((s1.noteReads 10 j.ctx ((List.range j.tlocal).map fun i =>
        (.slice j.ctx, j.gate + i * j.gateRow, j.gateRow)) false).jobFail j stRdlData)
    | some rs =>
      let s2 := { s1.countAt j.gate (j.tlocal * j.gateRow) with free := s1.free + j.tlocal * 1024 }
      let s3 := s2.rdlSend j.ctx (s2.rdlGroup j.ctx) (jobNums j.ident ++ [s2.rdlMember j.ctx, rs.length]) (rs.flatMap RRec.bytes)
      let j1 := { j with recs := [(s2.rdlMember j.ctx, rs)] }
      let s4 := (s3.setJob j1).stageLed j1 fun l => { l with assign := l.assign + j.tlocal * j.k }
      .next (s4.drainEarly j1)

/-! ### Capacity -/

/-- R415: the capacity before and after XROWS. -/
def RdlJob.capacity (j : RdlJob) (assigned : Nat) : Nat × Nat :=
  let c0 := roundUp (ceilDiv (j.cf * assigned) (256 * j.experts)) 16
  (c0, min c0 j.xrows)

/-- Insert by gate score, highest first, ties to the lower g (R416). -/
def insScore (r : RRec) : List RRec → List RRec
  | [] => [r]
  | x :: xs =>
    if fpGt r.score x.score ∨ (!fpGt x.score r.score ∧ r.g < x.g) then r :: x :: xs else x :: insScore r xs

/-- Insert by g. -/
def insTok (r : RRec) : List RRec → List RRec
  | [] => [r]
  | x :: xs => if r.g < x.g then r :: x :: xs else x :: insTok r xs

/-- The accepted assignments of an expert with their rows (R416, R417). -/
def acceptedOf (c e : Nat) (rs : List RRec) : List (RRec × Nat) :=
  let mine := rs.filter fun r => decide (r.e = e)
  let top := (mine.foldl (fun l r => insScore r l) []).take c
  let ord := top.foldl (fun l r => insTok r l) []
  (List.range ord.length).map fun k => (lget ord k ⟨0, 0, 0, 0, 0⟩, k)

/-- The member that holds a token: the one whose records name it. -/
def ownerOf (recs : List (Nat × List RRec)) (g : Nat) : Nat :=
  match recs.find? (fun p => p.2.any fun r => decide (r.g = g)) with
  | some p => p.1
  | none => 0

/-! ### Completion of inbound rows -/

/-- A member's announced rows have all landed, from every member (R419). -/
def State.inboundDone (s : State) (j : RdlJob) : Bool :=
  (List.range (s.rdlMembers j.ctx)).all fun m => match j.hdrs.find? (·.1 = m) with
    | some h => decide (h.2 ≤ mget dNat j.rows m)
    | none => false

/-- Count of an expert (R417). -/
def RdlJob.count (j : RdlJob) (e : Nat) : Nat := (j.acc.filter fun p => decide (p.1.e = e)).length

/-- Inbound dispatch is complete (R420): padding rows, the count area, the event; RECV takes the counts written (R429). -/
def State.dispatchDone (s : State) (j : RdlJob) : State :=
  let les := s.localExperts j
  let s1 := les.foldl (fun t p =>
    let n := j.count p.1
    if n = 0 then t
    else
      let x := t.xtabOf j p.2
      (List.range (roundUp n 16 - n)).foldl (fun u k =>
        (u.rdlPut j.ctx (x.1 + (n + k) * j.rowBytes) (List.replicate j.rowBytes 0)).rdlPut j.ctx
          (x.2.1 + (n + k) * j.srowBytes) (List.replicate j.srowBytes 0)) t) s
  let counts := (List.range (s.localSlots j)).map fun i => match les.find? (fun p => decide (p.2 = i)) with
    | some p => j.count p.1
    | none => 0
  let s2 := s1.stageLed j fun l => { l with recv := l.recv + (les.map fun p => j.count p.1).sum }
  (s2.countArea j stOK counts).setJob { j with stage := 2 }

/-- A COMBINE job is complete (R424, R425). -/
def State.combineDone (s : State) (j : RdlJob) : State :=
  let s1 := s.stageLed j fun l => { l with
    ret := l.ret + (List.range (s.rdlMembers j.ctx)).foldl (fun a m => a + mget dNat j.rows m) 0
    closed := l.closed || j.flag 4 }
  let s2 := s1.setRdl { s1.rdl with maps := s1.rdl.maps.filter fun m => !(decide (m.ctx = j.ctx) && decide (m.job.step = j.step ∧ m.job.layer = j.layer)) }
  s2.jobEnd j stOK

/-- Go on when everything inbound has landed. -/
def State.jobGo (s : State) (no : Nat) : State :=
  match s.rdlJob? no with
  | none => s
  | some j => if j.stage ≠ 1 ∨ !s.inboundDone j then s else if j.op = 1 then s.dispatchDone j else s.combineDone j

/-- Write an expert's input row at its home (R418). -/
def State.landRow (s : State) (j : RdlJob) (e r : Nat) (data scale : List Byte) : State :=
  let x := s.xtabOf j (s.expertHome j.ctx e).2
  (s.rdlPut j.ctx (x.1 + r * j.rowBytes) data).rdlPut j.ctx (x.2.1 + r * j.srowBytes) (if j.srowBytes = 0 then [] else scale)

/-- Write a combine row at its token's slot (R424). -/
def State.landCombine (s : State) (j : RdlJob) (g c : Nat) (data : List Byte) : State :=
  s.rdlPut j.ctx (j.src + ((g - j.tbase) * j.k + c) * j.yrowBytes) data

/-- Read row bytes for sending; none when the read fails (R413). -/
def State.rowBytes (s : State) (x a n : Nat) : Option (List Byte) :=
  if n = 0 then some []
  else match s.fetch (.slice x) a n false with
    | .ok bs => some bs
    | .error _ => none

/-- Send or copy the accepted row of a local token (R418). -/
def State.sendRow (s : State) (j : RdlJob) (p : RRec × Nat) : Option State :=
  let i := p.1.g - j.tbase
  match s.rowBytes j.ctx (j.src + i * j.rowBytes) j.rowBytes, s.rowBytes j.ctx (j.ssrc + i * j.srowBytes) j.srowBytes with
  | some d, some sc =>
    let h := (s.expertHome j.ctx p.1.e).1
    let t := (s.countAt (j.src + i * j.rowBytes) j.rowBytes).countAt (j.ssrc + i * j.srowBytes) j.srowBytes
    if h = s.rdlMember j.ctx then some (t.landRow j p.1.e p.2 d sc)
    else some (t.rdlSend j.ctx (64 + h) (jobNums j.ident ++ [s.rdlMember j.ctx, p.1.e, p.2]) (d ++ sc))
  | _, _ => none

/-- Headers to every member with the rows it will get (R419); this chip's own is kept. -/
def State.sendHeaders (s : State) (j : RdlJob) (dest : List Nat) : State :=
  let me := s.rdlMember j.ctx
  (List.range (s.rdlMembers j.ctx)).foldl (fun t m =>
    let n := (dest.filter (· = m)).length
    if m = me then t else t.rdlSend j.ctx (64 + m) (jobNums j.ident ++ [me, n]) []) s

/-- ROUTING_RECORDS_RECEIVED (R414 to R419, R421): every member's records are in; capacity is applied, the accepted rows are
sent, and the combine weights are written. -/
def execRoutingRecordsReceived (ctx : Fin 16) (s : State) : Out :=
  let full := fun (j : RdlJob) => j.recs ++ j.inbox.filterMap fun m => match m.body with
    | .records _ rs => some (m.member, rs)
    | _ => none
  let ready := fun (j : RdlJob) => decide (j.stage = 0) && (List.range (s.rdlMembers ctx)).all fun m => (full j).any (·.1 = m)
  match (s.ctxJobs ctx).find? ready with
  | none => .next s
  | some j0 =>
    let recs := (List.range (s.rdlMembers ctx)).map fun m => (m, match (full j0).find? (·.1 = m) with
      | some p => p.2
      | none => [])
    let all := recs.flatMap (·.2)
    let (c0, c) := j0.capacity all.length
    let acc := (List.range j0.experts).flatMap fun e => acceptedOf c e all
    let me := s.rdlMember ctx
    let mine := acc.filter fun p => decide (j0.tbase ≤ p.1.g ∧ p.1.g < j0.tbase + j0.tlocal)
    let dest := mine.map fun p => (s.expertHome ctx p.1.e).1
    let own := (dest.filter (· = me)).length
    let j := { j0 with
      stage := 1, recs := recs, acc := acc, hdrs := [(me, own)], rows := mput dNat [] me own
      inbox := j0.inbox.filter fun m => match m.body with
        | .records _ _ => false
        | _ => true }
    let s1 := (s.inc .RDL_CAPCLAMP ctx 0 (if c0 > j.xrows then 1 else 0)).setJob j
    let s2 := s1.sendHeaders j dest
    let sent := mine.foldl (fun (t : Option State) p => match t with
      | none => none
      | some u => u.sendRow j p) (some s2)
    match sent with
    | none => .next ((s2.noteReads 10 ctx (mine.flatMap fun p => [(.slice j.ctx, j.src + (p.1.g - j.tbase) * j.rowBytes, j.rowBytes),
        (.slice j.ctx, j.ssrc + (p.1.g - j.tbase) * j.srowBytes, j.srowBytes)]) false).jobFail j stRdlData)
    | some s3 =>
      let mineAll := (match recs.find? (·.1 = me) with
        | some p => p.2
        | none => [])
      let s4 := mineAll.foldl (fun t r =>
        let w := if mine.any (fun p => p.1 = r) then r.weight else 0
        t.rdlPut ctx (j.wAddr + 4 * ((r.g - j.tbase) * j.k + r.j)) (natToBytes 4 w)) s3
      let s5 := s4.stageLed j fun l => { l with
        disp := l.disp + mine.length
        ovf := l.ovf + (mineAll.length - mine.length)
        exp := (List.range j.experts).foldl (fun m e =>
          let a := j.count e
          let o := (all.filter fun r => decide (r.e = e)).length - a
          let m1 := mput dNat m (2 * e) (mget dNat m (2 * e) + a)
          mput dNat m1 (2 * e + 1) (mget dNat m1 (2 * e + 1) + o)) l.exp }
      let s6 := s5.setRdl { s5.rdl with maps := s5.rdl.maps ++ [⟨ctx, j.ident, acc, recs⟩] }
      .next (s6.jobGo j.no)

/-! ### Arrivals -/

/-- The first message of a kind in the inbox of a job of a context at stage 1: the job without it, and the message. -/
def State.takeMsg (s : State) (x : Nat) (k : RdlBody → Bool) : Option (RdlJob × RdlMsg) :=
  (s.ctxJobs x).findSome? fun j =>
    if j.stage ≠ 1 then none
    else (j.inbox.find? fun m => k m.body).map fun m => ({ j with inbox := j.inbox.erase m }, m)

def RdlJob.landed (j : RdlJob) (m : Nat) : RdlJob := { j with rows := mput dNat j.rows m (mget dNat j.rows m + 1) }

/-- DISPATCH_HEADER_ARRIVAL (R419, R420, R424). -/
def execDispatchHeaderArrival (ctx : Fin 16) (s : State) : Out :=
  match s.takeMsg ctx (fun b => match b with
    | .header _ => true
    | _ => false) with
  | some (j, m) =>
    match m.body with
    | .header n => .next ((s.setJob { j with hdrs := j.hdrs ++ [(m.member, n)] }).jobGo j.no)
    | _ => .next s
  | none => .next s

/-- DISPATCH_ROW_ARRIVAL (R418, R420). -/
def execDispatchRowArrival (ctx : Fin 16) (s : State) : Out :=
  match s.takeMsg ctx (fun b => match b with
    | .row _ _ _ _ => true
    | _ => false) with
  | some (j, m) =>
    match m.body with
    | .row e r d sc => .next (((s.setJob (j.landed m.member)).landRow j e r d sc).jobGo j.no)
    | _ => .next s
  | none => .next s

/-- COMBINE_ROW_ARRIVAL (R424, R425). -/
def execCombineRowArrival (ctx : Fin 16) (s : State) : Out :=
  match s.takeMsg ctx (fun b => match b with
    | .crow _ _ _ => true
    | _ => false) with
  | some (j, m) =>
    match m.body with
    | .crow g c d => .next (((s.setJob (j.landed m.member)).landCombine j g c d).jobGo j.no)
    | _ => .next s
  | none => .next s

/-- ROUTE_COMPLETE (R421): the rows a ROUTE job sent are all acknowledged. -/
def execRouteComplete (ctx : Fin 16) (s : State) : Out :=
  match (s.ctxJobs ctx).find? (fun j => decide (j.op = 1 ∧ j.stage = 2)) with
  | some j => .next (s.jobEnd j stOK)
  | none => .next s

/-- RDL_PEER_TIMEOUT (R422, R427): TMO has passed since the oldest job that still waits for a member was accepted. -/
def execRdlPeerTimeout (ctx : Fin 16) (s : State) : Out :=
  match (s.ctxJobs ctx).find? (fun j => decide (j.stage < 2)) with
  | some j => .next (s.jobFail j stRdlTimeout)
  | none => .next s

/-- COMBINE (R424): output rows go back to their tokens' chips; the slots of overflowed choices are zeroed. Where no ROUTE
job of the step and layer stands, no row does (log entry 73). -/
def execCombine (core : Fin 64) (s : State) : Out :=
  match s.acceptJob core 2 with
  | none => .next s
  | some (s1, none) => .next s1
  | some (s1, some j) =>
    let x := j.ctx
    let me := s1.rdlMember x
    let (acc, recs) := match s1.rdl.maps.find? (fun m => decide (m.ctx = x ∧ m.job.step = j.step ∧ m.job.layer = j.layer)) with
      | some m => (m.acc, m.recs)
      | none => ([], [])
    let out := acc.filter fun p => decide ((s1.expertHome x p.1.e).1 = me)
    let dest := out.map fun p => ownerOf recs p.1.g
    let own := (dest.filter (· = me)).length
    let j1 := { j with stage := 1, acc := acc, recs := recs, hdrs := [(me, own)], rows := mput dNat [] me own }
    let s2 := (s1.setJob j1).sendHeaders j1 dest
    let sent := out.foldl (fun (t : Option State) p => match t with
      | none => none
      | some u =>
        let y := (u.xtabOf j1 (u.expertHome x p.1.e).2).2.2
        match u.rowBytes x (y + p.2 * j1.yrowBytes) j1.yrowBytes with
        | none => none
        | some d =>
          let u1 := u.countAt (y + p.2 * j1.yrowBytes) j1.yrowBytes
          if ownerOf recs p.1.g = me then some (u1.landCombine j1 p.1.g p.1.j d)
          else some (u1.rdlSend x (64 + ownerOf recs p.1.g) (jobNums j1.ident ++ [me, p.1.g, p.1.j]) d)) (some s2)
    match sent with
    | none => .next ((s2.noteReads 10 x (out.map fun p =>
        (.slice x, (s2.xtabOf j1 (s2.expertHome x p.1.e).2).2.2 + p.2 * j1.yrowBytes, j1.yrowBytes)) false).jobFail j1 stRdlData)
    | some s3 =>
      let mine := (match recs.find? (·.1 = me) with
        | some p => p.2
        | none => [])
      let s4 := mine.foldl (fun t r =>
        if acc.any (fun p => p.1 = r) then t else t.landCombine j1 r.g r.j (List.replicate j1.yrowBytes 0)) s3
      let s5 := s4.drainEarly j1
      .next (s5.jobGo j1.no)

/-! ### The token ledger -/

/-- Add the counts staged for a step of a serving core to the counters (R429). -/
def State.ridCommit (s : State) (core step : Nat) : State :=
  let mine := fun (l : RdlLed) => decide (l.core = core ∧ l.step = step)
  let s1 := (s.rdl.leds.filter mine).foldl (fun t l =>
    let a := ((((t.inc .RDL_LED_ASSIGN l.ctx 0 l.assign).inc .RDL_LED_DISP l.ctx 0 l.disp).inc .RDL_LED_OVF l.ctx 0 l.ovf).inc
      .RDL_LED_RECV l.ctx 0 l.recv).inc .RDL_LED_RET l.ctx 0 l.ret
    l.exp.foldl (fun u p => u.inc (if p.1 % 2 = 0 then .RDL_EXP_ACC else .RDL_EXP_OVF) l.ctx (p.1 / 2) p.2) a) s
  s1.setRdl { s1.rdl with leds := s1.rdl.leds.filter fun l => !mine l }

/-- Drop the counts of an abandoned step; its jobs in flight go on uncounted (R428). -/
def State.ridDrop (s : State) (core step : Nat) : State :=
  s.setRdl { s.rdl with
    leds := s.rdl.leds.filter fun l => !decide (l.core = core ∧ l.step = step)
    jobs := s.rdl.jobs.map fun j => if j.core = core ∧ j.step = step then { j with drop := true } else j }

end Sys2Proof.Machine
end

