-- ==== Sys2Proof/Machine/Sieve.lean ====
section
/-!
DEFINITION. The sieve's pipeline (chapter 12): sampling blocks (R378, R379), masks and grammars (R392 to R395), the stages of
Table 12.2 (R385 to R388), the random stream (R390), and rejection sampling (R403).
-/
namespace Sys2Proof.Machine
open Sys2Proof

/-- A sampling block (Table 12.1). -/
structure Samp where
  temp : Nat
  topk : Nat
  flags : Nat
  nstop : Nat
  topp : Nat
  minp : Nat
  rep : Nat
  pres : Nat
  freq : Nat
  penWin : Nat
  seed : Nat
  allow : Nat
  gram : Nat
  gstart : Nat
  stops : List Nat
deriving DecidableEq, Repr

/-- The sampling block of a request descriptor. -/
def sampOf (d : List Byte) : Samp :=
  ⟨le d 0x80 4, le d 0x84 2, le d 0x86 1, le d 0x87 1, le d 0x88 4, le d 0x8C 4, le d 0x90 4, le d 0x94 4, le d 0x98 4,
    le d 0x9C 2, le d 0xA0 8, le d 0xA8 8, le d 0xB0 8, le d 0xB8 4, (List.range 8).map fun k => le d (0xC0 + 4 * k) 4⟩

def Samp.seedEn (p : Samp) : Bool := nbit p.flags 0
def Samp.allowEn (p : Samp) : Bool := nbit p.flags 1
def Samp.gramEn (p : Samp) : Bool := nbit p.flags 2
def Samp.specOff (p : Samp) : Bool := nbit p.flags 3
def Samp.stopAcc (p : Samp) : Bool := nbit p.flags 4
/-- +0 and -0 are greedy (Table 12.1). -/
def Samp.greedy (p : Samp) : Bool := decide (p.temp % 2 ^ 31 = 0)

def fpOne : Nat := 0x3F800000
def fpZero (x : Nat) : Bool := decide (x % 2 ^ 31 = 0)
def fpFinite (x : Nat) : Bool := decide (nbits x 30 23 ≠ 255)
/-- 0 or positive: -0 counts as 0. -/
def fpNonNeg (x : Nat) : Bool := fpZero x || !nbit x 31

/-- The range checks of R379 that need only the block. -/
def sampOk (d : List Byte) (vocab : Nat) : Bool :=
  let p := sampOf d
  let z := fun (o n : Nat) => decide (le d o n = 0)
  [p.temp, p.topp, p.minp, p.rep, p.pres, p.freq].all fpFinite &&
    fpNonNeg p.temp && fpNonNeg p.topp && !fpGt p.topp fpOne && fpNonNeg p.minp && fpGt fpOne p.minp && fpNonNeg p.rep &&
    decide (p.topk ≤ 1024 ∧ p.penWin ≤ 1024 ∧ p.nstop ≤ 8 ∧ nbits p.flags 7 5 = 0) && z 0x9E 2 && z 0xBC 4 && z 0xE0 32 &&
    ((p.stops.take p.nstop).all fun t => decide (t < vocab)) && ((p.stops.drop p.nstop).all fun t => decide (t = 0)) &&
    (if p.allowEn then decide (p.allow % 64 = 0) else decide (p.allow = 0)) &&
    (if p.gramEn then decide (p.gram % 64 = 0) else decide (p.gram = 0 ∧ p.gstart = 0)) && (p.seedEn || decide (p.seed = 0))

/-! ### Masks -/

/-- Header fields of a grammar object (Table 12.3). -/
def gVocab (g : List Byte) : Nat := le g 4 4
def gStates (g : List Byte) : Nat := le g 8 4
def gMasks (g : List Byte) : Nat := le g 0xC 4
def gTrans (g : List Byte) : Nat := le g 0x10 8
def gStateOff (g : List Byte) : Nat := le g 0x18 8
def gMaskOff (g : List Byte) : Nat := le g 0x20 8
def gTransOff (g : List Byte) : Nat := le g 0x28 8
def gBytes (g : List Byte) : Nat := le g 0x30 8

/-- The header check of R393. -/
def gramHeaderOk (h : List Byte) (vocab : Nat) : Bool :=
  decide (le h 0 4 = 0x31524D47 ∧ gVocab h = vocab ∧ 1 ≤ gStates h ∧ gStates h ≤ 1048576 ∧ gMasks h ≤ 4096 ∧
    gStateOff h % 64 = 0 ∧ gMaskOff h % 64 = 0 ∧ gTransOff h % 64 = 0 ∧ gBytes h % 64 = 0 ∧ le h 0x38 8 = 0 ∧
    gStateOff h + 16 * gStates h ≤ gBytes h ∧ gMaskOff h + 32768 * gMasks h ≤ gBytes h ∧ gTransOff h + 8 * gTrans h ≤ gBytes h)

/-- Bit t of a mask of 32 KiB that starts at byte `off` (R392). -/
def maskBit (bs : List Byte) (off t : Nat) : Bool := nbit (le bs (off + t / 8) 1) (t % 8)

/-- A field of a state entry. -/
def gState (g : List Byte) (st off n : Nat) : Nat := le g (gStateOff g + 16 * st + off) n
def gAccept (g : List Byte) (st : Nat) : Bool := nbit (gState g st 6 1) 0

/-- next(s, t) (R394). -/
def gNext (g : List Byte) (st t : Nat) : Option Nat :=
  let first := gState g st 0 4
  let own := (List.range (gState g st 4 2)).find? fun k => decide (le g (gTransOff g + 8 * (first + k)) 4 = t)
  let n := match own with
    | some k => le g (gTransOff g + 8 * (first + k) + 4) 4
    | none => gState g st 0xC 4
  if (own = none ∧ n = 0xFFFFFFFF) ∨ n ≥ gStates g then none else some n

/-- Whether a grammar allows a token in a state (R394). -/
def gAllows (g : List Byte) (st t : Nat) : Bool :=
  let all := nbit (gState g st 6 1) 1
  let k := gState g st 8 4
  (if all then decide (t < gVocab g) else decide (k < gMasks g) && maskBit g (gMaskOff g + 32768 * k) t) && (gNext g st t).isSome

/-- The masks of a request as read: allow-list and grammar object. -/
structure Masks where
  allow : Option (List Byte)
  gram : Option (List Byte)
deriving DecidableEq, Repr

def Masks.allows (m : Masks) (st t : Nat) : Bool :=
  (match m.allow with | some a => maskBit a 0 t | none => true) && (match m.gram with | some g => gAllows g st t | none => true)

/-- Grammar state after a token. -/
def Masks.next (m : Masks) (st t : Nat) : Nat :=
  match m.gram with
  | some g => (gNext g st t).getD st
  | none => st

/-- Whether a grammar is enabled and its state accepts. -/
def Masks.accepts (m : Masks) (st : Nat) : Bool :=
  match m.gram with
  | some g => gAccept g st
  | none => false

/-! ### The pipeline -/

/-- Insert in descending order of value, ties to the lower token id (R385); the list is kept in that order. -/
def insCand (c : Cand) : List Cand → List Cand
  | [] => [c]
  | x :: xs => if fpGt c.val x.val ∨ (!fpGt x.val c.val ∧ c.tok < x.tok) then c :: x :: xs else x :: insCand c xs

/-- The `k` highest of a list (stage 3). -/
def topCands (k : Nat) (l : List Cand) : List Cand := l.foldl (fun a c => (insCand c a).take k) []

/-- Stage 1. -/
def penalise (p : Samp) (hist : List Nat) (c : Cand) : Cand :=
  let n := (hist.filter (· = c.tok)).length
  if n = 0 then c
  else
    let rep := if fpZero p.rep then fpOne else p.rep
    let l := if fpGt c.val 0 then fpDiv c.val rep else fpMul c.val rep
    let neg := fun (x : Nat) => x.xor 0x80000000
    let l2 := fpAdd l (neg p.pres)
    { c with val := fpAdd l2 (neg (fpMul (fpr (FVal.ofInt n)) p.freq)) }

/-- Stage 5: the shortest part whose mass reaches TOPP. -/
def topP (topp : Nat) : Nat → List Cand → List Cand
  | _, [] => []
  | run, c :: cs =>
    let r := fpAdd run c.val
    if fpGt topp r then c :: topP topp r cs else [c]

def massOf (l : List Cand) : Nat := l.foldl (fun a c => fpAdd a c.val) 0

/-- What stages 1 to 7 leave of a row: the candidates with their masses, and whether the row was bad (R387) or fell back
(R395). A single choice made without a draw stands alone; no candidate means that no token is allowed. -/
structure RowDist where
  cands : List Cand
  bad : Bool
  fell : Bool
deriving DecidableEq, Repr

def single (c : Option Cand) : List Cand :=
  match c with
  | some x => [{ x with val := fpOne }]
  | none => []

/-- Stages 1 to 7 (R385 to R387, R395). -/
def rowDist (p : Samp) (logits : List Nat) (hist : List Nat) (allows : Nat → Bool) : RowDist :=
  let raw := (List.range logits.length).map fun t => (⟨t, lget logits t 0⟩ : Cand)
  let best := fun (l : List Cand) => (topCands 1 (l.filter fun c => allows c.tok)).head?
  if raw.all fun c => decide (c.val = fpNegInf) then ⟨single (raw.find? fun c => allows c.tok), true, false⟩
  else
    let l1 := raw.map (penalise p hist)
    if p.greedy then ⟨single (best l1), false, false⟩
    else
      let l2 := l1.map fun c => { c with val := fpDiv c.val p.temp }
      let k := topCands (if p.topk = 0 then 1024 else p.topk) l2
      let m := (k.head?.map (·.val)).getD 0
      let es := k.map fun c => { c with val := (Config.sieveExp (BitVec.ofNat 32 (fpAdd c.val (m.xor 0x80000000)))).toNat }
      let sum := massOf es
      let ps := es.map fun c => { c with val := fpDiv c.val sum }
      let p5 := if fpZero p.topp then ps else topP p.topp 0 ps
      let floor := fpMul p.minp ((p5.head?.map (·.val)).getD 0)
      let p6 := if fpZero p.minp then p5 else p5.filter fun c => !fpGt floor c.val
      let p7 := p6.filter fun c => allows c.tok
      if p7 = [] then ⟨single (best l2), false, (best l2).isSome⟩ else ⟨p7, false, false⟩

/-- A value of a request's stream (R390), as FP32 bits. -/
def streamU (seed pos purpose : Nat) : Nat :=
  fpr (.num false (lget (philox (seed % 2 ^ 32, seed / 2 ^ 32 % 2 ^ 32) [pos, purpose, 0, 0]) 0 0 / 256) (-24))

/-- Stage 8: the first candidate whose running mass exceeds the threshold, the last one if none does. -/
def walkMass (thr : Nat) : Nat → List Cand → Option Nat
  | _, [] => none
  | _, [c] => some c.tok
  | run, c :: cs => if fpGt (fpAdd run c.val) thr then some c.tok else walkMass thr (fpAdd run c.val) cs

def drawFrom (u : Nat) (l : List Cand) : Option Nat := walkMass (fpMul u (massOf l)) 0 l

/-- The mass of a token in a distribution, normalised (R403). -/
def normMass (l : List Cand) (t : Nat) : Nat :=
  match l.find? (fun c => decide (c.tok = t)) with
  | some c => fpDiv c.val (massOf l)
  | none => 0

/-- Whether a draft token stands under rejection sampling, and what is committed when it does not (R403). -/
def acceptDraft (p q : List Cand) (d seed pos : Nat) : Bool × Option Nat :=
  if fpGt (fpDiv (normMass p d) (normMass q d)) (streamU seed pos 2) then (true, some d)
  else
    let res := p.map fun c => (⟨c.tok, fpAdd (normMass p c.tok) ((normMass q c.tok).xor 0x80000000)⟩ : Cand)
    let pos_ := res.filter fun c => fpGt c.val 0
    (false, drawFrom (streamU seed pos 3) (if pos_ = [] then p else pos_))

end Sys2Proof.Machine
end

