-- ==== Sys2Proof/Machine/Gleaner.lean ====
section
/-!
DEFINITION. The gleaner's requests, pages and prefix handles (chapter 11): request-class entries (R343 to R345), endings
(R349), pages (R350 to R353), prefix handles (R354 to R357), histograms (R370 to R372), and outputs (R347).
-/
namespace Sys2Proof.Machine
open Sys2Proof

def stAdmitReject : Nat := 0x0A01
def stQTimeout : Nat := 0x0A02
def stCancelled : Nat := 0x0A03
def stDropped : Nat := 0x0A04
def stReqBad : Nat := 0x0A06
def stCidInUse : Nat := 0x0A07
def stReqUnknown : Nat := 0x0A08
def stAdapterUnknown : Nat := 0x0A09
def stModelClosed : Nat := 0x0A0A
def stPrefixBad : Nat := 0x0A0B
def stModelUnavail : Nat := 0x0907

/-! ### State by index -/

def dReq (_ : Nat) : Req := Req.reset
def dPfx (_ : Nat) : Pfx := Pfx.reset
def State.req (s : State) (r : Nat) : Req := mget dReq s.gln.reqs r
def State.setReq (s : State) (r : Nat) (x : Req) : State := { s with gln := { s.gln with reqs := mput dReq s.gln.reqs r x } }
def State.pfx (s : State) (h : Nat) : Pfx := mget dPfx s.gln.pfx h
def State.setPfx (s : State) (h : Nat) (x : Pfx) : State := { s with gln := { s.gln with pfx := mput dPfx s.gln.pfx h x } }
def State.setGStep (s : State) (m : Nat) (x : GStep) : State := s.setGModel m { s.gmodel m with step := x }

/-- Fields of a request's descriptor (Table 11.2). -/
def Req.f (r : Req) (off n : Nat) : Nat := le r.desc off n
def Req.plen (r : Req) : Nat := r.f 4 4
def Req.maxNew (r : Req) : Nat := r.f 8 4
def Req.aid (r : Req) : Option Nat := if nbit (r.f 1 1) 1 then some (r.f 0xC 4) else none
def Req.usePfx (r : Req) : Bool := nbit (r.f 1 1) 0
def Req.samp (r : Req) : Samp := sampOf r.desc
def Req.live (r : Req) : Bool := decide (1 ≤ r.st ∧ r.st ≤ 4)
def Req.admitted (r : Req) : Bool := decide (2 ≤ r.st ∧ r.st ≤ 4)
/-- The prompt is not done: committed positions are fewer than the prompt's. -/
def Req.prompting (r : Req) : Bool := decide (r.len < r.plen)

/-- Registers of a model (Tables 11.12, 11.13). -/
def State.mPT (s : State) (m : Nat) : Nat := max 1 (s.rdF .GLN_MODEL_B m 0 63 48)
def State.mPPB (s : State) (m : Nat) : Nat := s.rdF .GLN_MODEL_B m 0 47 40
def State.mMaxCtx (s : State) (m : Nat) : Nat := s.rdF .GLN_MODEL_B m 0 31 0
def State.mEn (s : State) (m : Nat) : Bool := decide (s.rdF .GLN_MODEL_A m 0 63 63 = 1)
def State.mRole (s : State) (m : Nat) : Nat := s.rdF .GLN_MODEL_A m 0 62 61
def State.mCore (s : State) (m : Nat) : Nat := s.rdF .GLN_MODEL_A m 0 59 54
def State.mBudget (s : State) (m : Nat) : Nat := if s.rdF .GLN_MODEL_A m 0 31 16 = 0 then 8192 else s.rdF .GLN_MODEL_A m 0 31 16
def State.mStep (s : State) (m : Nat) : Nat := (s.rd .GLN_MODEL_STEP m 0).toNat
def State.vocab (s : State) (m : Nat) : Nat := s.rdF .SIV_MODEL_A m 0 35 18 + 1

/-- Pages that hold `n` positions of a model (R351). -/
def State.pagesFor (s : State) (m n : Nat) : Nat := ceilDiv n (s.mPT m) * s.mPPB m

/-- Kind of a class (0 guaranteed, 1 bulk) and its PRIO. -/
def State.clsBulk (s : State) (c : Nat) : Bool := decide (s.rdF .GLN_CLS_CFG c 0 62 62 = 1)
def State.clsPrio (s : State) (c : Nat) : Nat := s.rdF .GLN_CLS_CFG c 0 59 56

/-- Requests of this chip's own, with their indices; a member's copies under other keys stand apart (log entry 74). -/
def State.ownReqs (s : State) : List (Nat × Req) := s.gln.reqs.filter fun p => decide (p.1 < 65536)
def State.liveOf (s : State) (m : Nat) : List (Nat × Req) := s.ownReqs.filter fun p => decide (p.2.model = m) && p.2.live

/-- Choose a free index of `n` where the manual does not say which. -/
def scanFree (used : Nat → Bool) (n : Nat) : Nat → Nat → Option Nat
  | 0, _ => none
  | f + 1, i => if used (i % n) then scanFree used n f (i + 1) else some (i % n)

def State.pickFree (s : State) (n : Nat) (used : Nat → Bool) : Option Nat × State :=
  (scanFree used n n (Config.freeNat s.free % n), { s with free := s.free + 1 })

/-! ### Memory -/

/-- Write under the gleaner's identity; a refused write is recorded (R508). -/
def State.glnPut (s : State) (a : Nat) (bs : List Byte) : State :=
  match s.put .gleaner a bs false with
  | .ok t => t
  | .error e => s.noteRefusal e 9 0 a

/-- Write under a function's identity (R347). -/
def State.fnPut (s : State) (fn a : Nat) (bs : List Byte) : State :=
  match s.put (.func fn) a bs true with
  | .ok t => t
  | .error e => s.noteRefusal e 9 0 a

/-- Page-table slot and sieve slot of a request (R351, Table 12.7). -/
def State.ptSize (s : State) : Nat := 2 ^ s.rdF .GLN_PTAB 0 0 63 59
def State.ptSlot (s : State) (r : Nat) : Nat := s.rdF .GLN_PTAB 0 0 23 0 * 65536 + r * s.ptSize
def State.sivSlot (s : State) (r : Nat) : Nat := s.rdF .SIV_AREA 0 0 23 0 * 65536 + r * 8192
def State.pageAddr (s : State) (p : Nat) : Nat := (s.rdF .GLN_POOL 0 0 23 0 + p) * 65536

/-- Write page-table entries `k` onward of a request. -/
def State.ptWrite (s : State) (r k : Nat) (pages : List Nat) (shared : Bool) : State :=
  if pages = [] then s
  else s.glnPut (s.ptSlot r + 4 * k) (pages.flatMap fun p => natToBytes 4 (p + (if shared then 2 ^ 31 else 0)))

/-- The token line (R351): the last committed token in its first word; what the other words hold is not stated. -/
def State.tokenLine (s : State) (r tok : Nat) : State :=
  let s1 := s.glnPut (s.ptSlot r + s.ptSize - 64)
    (natToBytes 4 tok ++ (List.range 60).map fun k => Config.freeByte s.free k)
  { s1 with free := s1.free + 1 }

/-! ### Pages -/

def State.poolSize (s : State) : Nat := s.rdF .GLN_POOL 0 0 46 24 + 1

/-- Pages held by page tables and by handles: those not lent. -/
def State.reqHeld (s : State) : List Nat := s.gln.reqs.flatMap fun p => p.2.pages.drop p.2.shared
def State.pfxHeld (s : State) : List Nat := s.gln.pfx.flatMap fun p => p.2.pages.drop p.2.shared

/-- GLN_PG_REQ, _PFX, _FREE, _RSV (R376). -/
def State.pgReq (s : State) : Nat := s.reqHeld.length
def State.pgPfx (s : State) : Nat := s.pfxHeld.length
def State.pgFree (s : State) : Nat := s.poolSize - s.pgReq - s.pgPfx
def State.pgRsv (s : State) : Nat := (s.gln.reqs.map fun p => p.2.rsv).foldl (· + ·) 0

/-- The models that the gleaner holds anything for. -/
def State.glnModels (s : State) : List Nat := (s.gln.models.map (·.1) ++ s.ownReqs.map (·.2.model)).eraseDups

/-- Models with waiting requests may run an idle boundary when pool pages are freed (R359). -/
def State.poolFreed (s : State) : State :=
  s.glnModels.foldl (fun t m => if t.liveOf m ≠ [] then t.glnDue m else t) s

/-- A handle's index is freed; its lender loses the reference it passed (R354). -/
def State.pfxFree (s : State) (h : Nat) : State :=
  let x := s.pfx h
  let s1 := (s.setPfx h { Pfx.reset with gen := (x.gen + 1) % 2 ^ 18 }).poolFreed
  match x.up with
  | some u =>
    let y := { s1.pfx u with refs := (s1.pfx u).refs - 1 }
    let s2 := s1.setPfx u y
    if y.st = 3 ∧ y.refs = 0 then (s2.setPfx u { Pfx.reset with gen := (y.gen + 1) % 2 ^ 18 }) else s2
  | none => s1

/-- Drop a reference on a handle; a RELEASED handle without references is freed (R357). -/
def State.pfxUnref (s : State) (h : Nat) : State :=
  let y := { s.pfx h with refs := (s.pfx h).refs - 1 }
  let s1 := s.setPfx h y
  if y.st = 3 ∧ y.refs = 0 then s1.pfxFree h else s1

/-- Eviction candidates (R357), but for the handle the request being admitted would borrow. -/
def State.evictable (s : State) (keep : Option Nat) : List (Nat × Pfx) :=
  s.gln.pfx.filter fun p => decide (p.2.st = 2 ∧ p.2.refs = 0 ∧ keep ≠ some p.1) && !p.2.pin

/-- Evict the candidate lent least recently; none when there is none. -/
def State.evictOne (s : State) (keep : Option Nat) : Option State :=
  match s.evictable keep with
  | [] => none
  | c :: cs => some (s.pfxFree (cs.foldl (fun a x => if x.2.lentAt < a.2.lentAt then x else a) c).1)

/-- Evict until a need is met or no candidate remains (R357); `fuel` bounds the handles. -/
def State.evictUntil (keep : Option Nat) (ok : State → Bool) : Nat → State → State
  | 0, s => s
  | f + 1, s => if ok s then s else match s.evictOne keep with
    | some t => State.evictUntil keep ok f t
    | none => s

/-- Take `k` free pages of the pool, any of them (R350). -/
def State.takePages : Nat → List Nat → State → List Nat × State
  | 0, got, s => (got, s)
  | k + 1, got, s =>
    let held := s.reqHeld ++ s.pfxHeld ++ got
    match s.pickFree s.poolSize held.contains with
    | (some p, t) => State.takePages k (got ++ [p]) t
    | (none, t) => (got, t)

/-- Draw pages so that a request's table reaches `n` positions (R352, R353): from its reservation, then from FREE - RSV with
eviction. `tent` marks them tentative. None, and the state after any eviction, when they cannot be drawn. -/
def State.drawPages (s : State) (key n : Nat) (tent : Bool) : Bool × State :=
  let r := s.req key
  let need := s.pagesFor r.model n - r.pages.length
  let own := min need r.rsv
  let rest := need - own
  let s1 := if rest = 0 then s else State.evictUntil none (fun t => decide (rest ≤ t.pgFree - t.pgRsv)) 16384 s
  if rest > s1.pgFree - s1.pgRsv then (false, s1)
  else
    let (ps, s2) := State.takePages need [] s1
    let x := s2.req key
    (true, ((s2.setReq key { x with
      pages := x.pages ++ ps, rsv := x.rsv - own
      tent := if tent then x.tent + ps.length else x.tent
      tentRsv := if tent then x.tentRsv + own else x.tentRsv }).ptWrite (key % 65536) r.pages.length ps false))

/-- Tentative pages go back to the reservation or to the pool (R353). -/
def State.undraw (s : State) (key : Nat) : State :=
  let r := s.req key
  if r.tent = 0 then s
  else (s.setReq key { r with pages := r.pages.take (r.pages.length - r.tent), rsv := r.rsv + r.tentRsv, tent := 0, tentRsv := 0 }).poolFreed

/-! ### Histograms (R370 to R372) -/

/-- The bin of a sample (R371). -/
def histBin (t0 : Nat) : Nat :=
  let t := max 1 t0
  let e := Nat.log2 t
  let m := if e = 0 then 0 else if e = 1 then 2 * (t % 2) else nbits t (e - 1) (e - 2)
  min 127 (4 * e + m)

/-- Whole microseconds of ticks (R370). -/
def usOf (ticks : Nat) : Nat := ticks * 4 / 625

def histKey (cls kind bank b : Nat) : Nat := ((cls * 3 + kind) * 2 + bank) * 128 + b

/-- Add a sample `n` times: kind 0 QWAIT, 1 TTFT, 2 TPOT. -/
def State.sample (s : State) (cls kind t n : Nat) : State :=
  let k := histKey cls kind (mget dNat s.gln.bank cls) (histBin t)
  { s with gln := { s.gln with hist := mput dNat s.gln.hist k (mget dNat s.gln.hist k + n) } }

/-- Exchange the banks of a class (R372): the other bank is cleared and counts. -/
def State.swapBank (s : State) (cls : Nat) : State :=
  let b := 1 - mget dNat s.gln.bank cls
  let mine := fun (k : Nat) => decide (k / 768 = cls ∧ k / 128 % 2 = b)
  { s with gln := { s.gln with
    bank := mput dNat s.gln.bank cls b
    swap := mput dFalse s.gln.swap cls false
    hist := s.gln.hist.filter fun p => !mine p.1 } }

/-- Whether a step of any model is planned or in flight. -/
def State.anyStep (s : State) : Bool := s.gln.models.any fun p => decide (p.2.step.stage = 1)

/-! ### Outputs and endings -/

/-- Perform one output (R347): tokens, progress word, completion, in that order. -/
def State.doOut (s : State) (o : GOut) : State :=
  let s1 := if o.toks = [] then s else s.fnPut o.fn o.addr (o.toks.flatMap (natToBytes 4))
  let s2 := if o.prog = 0 then s1 else s1.fnPut o.fn o.prog (natToBytes 8 o.progVal)
  match o.cpl with
  | some c => s2.qpFinish c.1 c.2.1 c.2.2.1 c.2.2.2
  | none => s2

/-- OUTPUT_WRITE (R347): the oldest output of a request is written. Nothing is written in the FATAL state (R509). -/
def execOutputWrite (req : Fin 65536) (s : State) : Out :=
  match s.gln.out.find? (fun o => decide (o.req = req.val)) with
  | some o => if s.isFatal then .next s else .next ({ s with gln := { s.gln with out := s.gln.out.erase o } }.doOut o)
  | none => .next s

/-- Every output of a request still waiting is written, so that its completion can follow. -/
def State.flushOut (s : State) (key : Nat) : State :=
  let mine := s.gln.out.filter fun o => decide (o.req = key)
  mine.foldl (fun t o => t.doOut o) { s with gln := { s.gln with out := s.gln.out.filter fun o => decide (o.req ≠ key) } }

/-- RESULT of a request's completion (Table 11.3); of a PREFIX_CREATE, its handle id. -/
def State.reqResult (s : State) (r : Req) (status endc : Nat) : Nat :=
  if r.prefixOnly then
    match r.build with
    | some h => if status = stOK then h + (s.pfx h).gen * 2 ^ 14 else 0
    | none => 0
  else r.missed.toNat * 2 ^ 62 + endc * 2 ^ 58 + r.pfxTok * 2 ^ 32 + r.wrote

/-- The class counter of an ending (Table 11.11). -/
def endCounter (status : Nat) : Reg :=
  if status = stOK then .GLN_CLS_ENDED_OK
  else if status = stCancelled ∨ status = stDropped then .GLN_CLS_ENDED_CANCELLED
  else if status = stAdmitReject then .GLN_CLS_REJECTED
  else if status = stQTimeout then .GLN_CLS_QTIMEOUT
  else .GLN_CLS_ENDED_FAILED

/-- A request ends (R348, R349, R354): pins, references, pages and reservation are released together; under PREFIX_CREATE
with OK its pages pass to the handle. The state, and its completion (queue pair, entry, status, RESULT). -/
def State.release (s : State) (key status endc : Nat) : State × (Nat × Nat × Nat × Nat) :=
  let r := s.req key
  let cpl := (r.q, r.ent, status, s.reqResult r status endc)
  let s1 := if r.admitted then (match r.ad with
      | some a => (s.wsUnpin r.ws).adUnpin a
      | none => s.wsUnpin r.ws)
    else s
  let built := r.prefixOnly && decide (status = stOK)
  let s2 := match r.build with
    | none => s1
    | some h =>
      if built then
        let y := { s1.pfx h with st := if (s1.pfx h).marked then 3 else 2, len := r.plen, pages := r.pages, shared := r.shared, up := r.lender }
        let t := s1.setPfx h y
        if y.st = 3 then t else t
      else s1.pfxFree h
  let s3 := match r.lender with
    | some h => if built then s2 else s2.pfxUnref h
    | none => s2
  let s4 := s3.setReq key { r with
    st := 5, pages := [], shared := 0, rsv := 0, tent := 0, tentRsv := 0, lender := none, build := none, copying := false
    due := s.mStep r.model }
  let s5 := match r.build with
    | some h => if built ∧ (s4.pfx h).st = 3 then s4.pfxFree h else s4
    | none => s4
  (((s5.inc .GLN_RQ_END 0 0 1).inc (endCounter status) r.cls 0 1).poolFreed, cpl)

/-- A request ends at a boundary: its completion follows at once (R349). -/
def State.endReq (s : State) (key status endc : Nat) : State :=
  let (s1, c) := (s.flushOut key).release key status endc
  s1.qpFinish c.1 c.2.1 c.2.2.1 c.2.2.2

/-! ### Request-class entries -/

/-- The oldest request-class entry of a queue pair with this opcode that has not reached the gleaner. -/
def State.glnEnt (s : State) (q opc : Nat) : Option QEnt :=
  if s.isFatal then none else (s.qp q).ents.find? fun e => decide (e.st = 2 ∧ e.opc = opc ∧ e.sub = 0 ∧ e.cls = 2 ∧ !e.bad)

/-- Whether a request still belongs to its queue pair's present owner (R262). -/
def State.attached (s : State) (q : Nat) (r : Req) : Bool :=
  decide (r.q = q ∧ r.fn = s.qpFunc q) && !(s.qp q).ents.any fun e => decide (e.id = r.ent) && e.det

/-- A range that a function may read (R379): silo under R268, or its host window. -/
def State.fnReadable (s : State) (fn a n : Nat) : Bool :=
  if a + n ≤ 0xA000000000 then s.siloOk (.func fn) a n false true
  else decide (0x200000000000 ≤ a ∧ a + n - 0x200000000000 ≤ s.rdF .HOP_FN_HMSIZE fn 0 47 12 * 4096)

/-- The checks of R379 that look outside the block. -/
def State.sampMem (s : State) (fn : Nat) (d : List Byte) (vocab : Nat) : Bool :=
  let p := sampOf d
  (!p.allowEn || s.fnReadable fn p.allow 32768) &&
  (!p.gramEn || (s.fnReadable fn p.gram 64 && match s.fetch (.func fn) p.gram 64 true with
    | .ok h => gramHeaderOk h vocab && s.fnReadable fn p.gram (gBytes h) && decide (p.gstart < gStates h)
    | .error _ => false))

/-- Step 2 of R345. -/
def State.descOk (s : State) (m fn : Nat) (only : Bool) (d : List Byte) : Bool :=
  let cls := le d 0 1
  let flags := le d 1 1
  let pl := le d 4 4
  let mn := le d 8 4
  let z := fun (o n : Nat) => decide (le d o n = 0)
  decide (cls < 16 ∧ s.rdF .GLN_CLS_CFG cls 0 63 63 = 1 ∧ flags < 4 ∧ 1 ≤ pl ∧ (if only then mn = 0 else 1 ≤ mn) ∧
    pl + mn ≤ s.mMaxCtx m ∧ mn ≤ le d 0x20 4 ∧ le d 0x10 8 % 4 = 0 ∧ le d 0x30 8 % 8 = 0 ∧
    s.pagesFor m (pl + mn) * 4 + 64 ≤ s.ptSize ∧ (nbit flags 0 = true → le d 0x28 4 ≤ pl)) &&
  z 2 2 && z 0x2C 4 && z 0x38 72 && (nbit flags 1 || z 0xC 4) && (nbit flags 0 || z 0x24 4) &&
  sampOk d (s.vocab m) && s.sampMem fn d (s.vocab m)

/-- The checks of R345 in order: the status of the first that fails, or the descriptor. -/
def State.submitCheck (s : State) (q : Nat) (e : QEnt) (only : Bool) : Except Nat (List Byte) :=
  let m := e.handle
  if e.arg 0 % 64 ≠ 0 then .error stReqBad
  else match s.fetch (.func e.fn) (e.arg 0) 256 true with
    | .error st => .error st
    | .ok d =>
      let h := le d 0x24 4
      let hx := s.pfx (h % 2 ^ 14)
      if !s.descOk m e.fn only d then .error stReqBad
      else if !s.mEn m ∨ s.winAdmit m = 2 ∨ s.mRole m = 2 then .error stModelClosed
      else if s.winAdmit m = 3 then .error stModelUnavail
      else if s.ownReqs.any (fun p => s.attached q p.2 && p.2.live && decide (p.2.cid = e.cid)) then .error stCidInUse
      else if nbit (le d 1 1) 1 ∧ (s.binding m (le d 0xC 4)).isNone then .error stAdapterUnknown
      else if nbit (le d 1 1) 0 ∧ hx.st ≠ 0 ∧ hx.gen = h / 2 ^ 14 ∧ (hx.fn ≠ e.fn ∨ hx.model ≠ m) then .error stProt
      else if nbit (le d 1 1) 0 ∧ hx.st ≠ 0 ∧ hx.gen = h / 2 ^ 14 ∧ hx.len ≠ le d 0x28 4 then .error stReqBad
      else .ok d

/-- A SUBMIT or PREFIX_CREATE reaches the gleaner (R345): it completes at once with the first check that fails, or takes an
entry in state QUEUED. -/
def State.submit (s : State) (q opc : Nat) (only : Bool) : State :=
  match s.glnEnt q opc with
  | none => s
  | some e =>
    match s.submitCheck q e only with
    | .error st => (if st = stProt then s.raiseProt 9 q (e.arg 0) else s).qpFinish q e.id st 0
    | .ok d =>
      let used := fun (i : Nat) => decide ((s.req i).st ≠ 0)
      match (s.countAt (e.arg 0) 256).pickFree 65536 used with
      | (none, t) => (t.inc .GLN_CLS_REJECTED (le d 0 1) 0 1).qpFinish q e.id stAdmitReject 0
      | (some i, t) =>
        let seed := if nbit (le d 0x86 1) 0 then le d 0xA0 8 else Nat.xor (s.time % 2 ^ 64) (i * 2 ^ 48)
        let r : Req := { Req.reset with
          st := 1, q := q, ent := e.id, cid := e.cid, fn := e.fn, model := e.handle, cls := le d 0 1, prefixOnly := only
          desc := d, seed := seed, acceptAt := s.time, no := s.gln.no, gst := le d 0xB8 4 }
        let t1 := (t.setReq i r).setEnt q { e with sub := 1 }
        let t2 := { t1 with gln := { t1.gln with no := t1.gln.no + 1 } }
        (t2.inc .GLN_RQ_ACCEPT 0 0 1).glnDue e.handle

/-- SUBMIT (R343 to R345). -/
def execSubmit (q : Fin 16384) (s : State) : Out := .next (s.submit q 0x30 false)

/-- PREFIX_CREATE (R345, R354). -/
def execPrefixCreate (q : Fin 16384) (s : State) : Out := .next (s.submit q 0x32 true)

/-- An entry that waits for a boundary of its model (R357, R373). A CANCEL is stamped with the step that commits next. -/
def State.glnWait (s : State) (q opc : Nat) : State :=
  match s.glnEnt q opc with
  | none => s
  | some e =>
    let m := e.handle
    let s1 := s.setEnt q { e with sub := 1 }
    let g := s1.gmodel m
    (s1.setGModel m { g with waits := g.waits ++ [⟨q, e.id, opc, s.mStep m⟩] }).glnDue m

/-- CANCEL (R373). -/
def execCancel (q : Fin 16384) (s : State) : Out := .next (s.glnWait q 0x31)
/-- PREFIX_RELEASE and PREFIX_PIN (R357). -/
def execPrefixRelease (q : Fin 16384) (s : State) : Out := .next (s.glnWait q 0x33)
def execPrefixPin (q : Fin 16384) (s : State) : Out := .next (s.glnWait q 0x34)

/-- QWAIT_EXPIRY (R359, R369): the queueing limit of a request has passed; an idle boundary ends it, or the next boundary. -/
def execQwaitExpiry (req : Fin 65536) (s : State) : Out :=
  .next (if (s.req req).st = 1 then s.glnDue (s.req req).model else s)

/-- A forced cancel of a function's requests (R260, R375) waits for the next boundary of each model. -/
def State.forceCancel (s : State) (fn : Nat) : State :=
  s.glnModels.foldl (fun t m =>
    let g := t.gmodel m
    t.setGModel m { g with forced := g.forced ++ [fn], due := true }) s

/-- PREFIX_COPY_DONE (R355, R356): the copy of a lent prefix's last block is done, or failed with the page mover's status. -/
def execPrefixCopyDone (req : Fin 65536) (fail : BitVec 16) (s : State) : Out :=
  let r := s.req req
  if !r.copying ∨ s.isFatal then .next s
  else
    let ring := s.rdF .GLN_CTL 0 0 37 32
    let ringOk := decide (s.rdF .SILO_PMQ_CFG ring 0 63 61 = 5)
    let n := s.mPPB r.model
    let from_ := match r.lender with
      | some h => ((s.pfx h).pages.drop r.shared).take n
      | none => []
    let to_ := (r.pages.drop r.shared).take n
    let bad := fun (t : State) st => (t.setReq req { r with copying := false, copyBad := st }).glnDue r.model
    if !ringOk then .next (bad s stProt)
    else if fail.toNat ≠ 0 then .next (bad s fail.toNat)
    else
      let go := (List.range n).foldl (fun (acc : Except Nat State) k =>
        match acc with
        | .error e => .error e
        | .ok t =>
          match t.fetch .gleaner (t.pageAddr (lget from_ k 0)) 65536 false with
          | .error e => .error e
          | .ok bs => t.put .gleaner (t.pageAddr (lget to_ k 0)) bs false) (.ok s)
      match go with
      | .error e => .next (bad (s.noteRefusal e 9 req (s.pageAddr (lget to_ 0 0))) e)
      | .ok t => .next ((t.setReq req { r with copying := false }).glnDue r.model)

end Sys2Proof.Machine
end

