-- ==== Sys2Proof/Machine/Serving.lean ====
section
/-!
DEFINITION. The gleaner's steps (chapter 11): boundaries (R358, R359), cancels (R373 to R375), admission (R367 to R369), plans
(R360, R361, R396 to R398), COMMIT and its commit point (R362 to R365), models of a slice (R366), the sieve's phases
(R381 to R384, R399 to R403) and its templates (R405).
-/
namespace Sys2Proof.Machine
open Sys2Proof

def stOutOfOrder : Nat := 0x0A0C
def stIncomplete : Nat := 0x0A0D
def stStepFailed : Nat := 0x0A0E
def stDeadEnd : Nat := 0x0A05
def stSieveFault : Nat := 0x0A40

/-- Key of a request of a plan: a member keeps the leader's indices apart from its own requests. -/
def State.reqKey (s : State) (m r : Nat) : Nat := if s.mRole m = 2 then 65536 * (m + 1) + r else r

/-- Insert by (first, second) key. -/
def insKey (c : Nat × Nat × Nat) : List (Nat × Nat × Nat) → List (Nat × Nat × Nat)
  | [] => [c]
  | x :: xs => if c.1 < x.1 ∨ (c.1 = x.1 ∧ c.2.1 < x.2.1) then c :: x :: xs else x :: insKey c xs

/-- Request indices by class PRIO, then by a second key (R361, R367). -/
def State.ordered (s : State) (l : List (Nat × Req)) (k : Req → Nat) : List Nat :=
  (l.foldl (fun a p => insKey (s.clsPrio p.2.cls, k p.2, p.1) a) []).map (·.2.2)

/-! ### Stage 2: releases -/

/-- Stage 2 of a boundary: requests of a step abandoned twice end (R365), and those whose copy failed (R356); ENDED entries
that are due are freed (R348); QUEUED requests past their limit end (R369). -/
def State.stage2 (s : State) (m : Nat) : State :=
  let st := (s.gmodel m).step
  let failed := if st.stage = 3 ∧ st.retry then (st.segs.map (·.req)).eraseDups else []
  let s1 := failed.foldl (fun t r => if (t.req r).admitted then t.endReq r stStepFailed 3 else t) s
  let s2 := (s1.liveOf m).foldl (fun t p => if p.2.copyBad ≠ 0 then t.endReq p.1 p.2.copyBad 3 else t) s1
  let s3 := s2.ownReqs.foldl (fun t p =>
    if p.2.model = m ∧ p.2.st = 5 ∧ p.2.due < t.mStep m then t.setReq p.1 Req.reset else t) s2
  (s3.liveOf m).foldl (fun t p =>
    let w := t.rdF .GLN_CLS_CFG p.2.cls 0 31 16
    if p.2.st = 1 ∧ w ≠ 0 ∧ w ≠ 65535 ∧ p.2.acceptAt + w * 156250 ≤ t.time then t.endReq p.1 stQTimeout 3 else t) s3

/-! ### Stage 3: cancels and prefix entries -/

/-- Resolve one CANCEL (R374); `hit` lists the requests already targeted in this stage. -/
def State.cancelOne (s : State) (m : Nat) (w : GWait) (hit : List Nat) : State × List Nat :=
  match (s.qp w.q).ents.find? (fun e => decide (e.id = w.ent)) with
  | none => (s, hit)
  | some e =>
    let cid := e.arg 0 % 65536
    let mine := s.ownReqs.filter fun p => decide (p.2.model = m ∧ p.2.cid = cid ∧ p.2.st ≠ 0) && s.attached w.q p.2
    let fin := fun (t : State) st => t.qpFinish w.q w.ent st 0
    match (mine.find? fun p => p.2.live), mine.head? with
    | some p, _ =>
      if hit.contains p.1 ∨ p.2.st = 4 then (fin s stOK, hit)
      else if p.2.st = 1 ∨ !s.clsBulk p.2.cls then (fin (s.endReq p.1 stCancelled 2) stOK, p.1 :: hit)
      else (fin (s.setReq p.1 { p.2 with st := 4 }) stOK, p.1 :: hit)
    | none, some p => if hit.contains p.1 then (fin s stOK, hit) else (fin s stAlreadyDone, hit)
    | none, none => (fin s stReqUnknown, hit)

/-- Resolve a PREFIX_RELEASE or PREFIX_PIN (R357). -/
def State.prefixOne (s : State) (w : GWait) : State :=
  match (s.qp w.q).ents.find? (fun e => decide (e.id = w.ent)) with
  | none => s
  | some e =>
    let id := e.arg 0 % 2 ^ 32
    let h := id % 2 ^ 14
    let x := s.pfx h
    let fin := fun (t : State) st => t.qpFinish w.q w.ent st 0
    if w.op = 0x34 ∧ e.fn ≠ 0 then fin (s.raiseProt 9 w.q id) stProt
    else if x.st = 0 ∨ x.gen ≠ id / 2 ^ 14 then fin s stPrefixBad
    else if w.op = 0x34 then fin (s.setPfx h { x with pin := nbit (e.arg 1) 0 }) stOK
    else if e.fn ≠ 0 ∧ e.fn ≠ x.fn then fin (s.raiseProt 9 w.q id) stProt
    else if x.st = 1 then fin (s.setPfx h { x with marked := true }) stOK
    else
      let t := s.setPfx h { x with st := 3 }
      fin (if x.refs = 0 then t.pfxFree h else t) stOK

/-- Stage 3 (R357, R374, R375). At an idle boundary every waiting CANCEL is resolved (R373). -/
def State.stage3 (s : State) (m : Nat) (idle : Bool) : State :=
  let g := s.gmodel m
  let due := g.waits.filter fun w => idle || decide (w.op ≠ 0x31 ∨ w.stamp < s.mStep m)
  let s1 := s.setGModel m { g with waits := g.waits.filter (fun w => !due.contains w), forced := [] }
  let s2 := (s1.liveOf m).foldl (fun t p => if g.forced.contains p.2.fn then t.endReq p.1 stCancelled 2 else t) s1
  (due.foldl (fun (a : State × List Nat) w =>
    if w.op = 0x31 then a.1.cancelOne m w a.2 else (a.1.prefixOne w, a.2)) (s2, [])).1

/-! ### Stage 4: the start of the step -/

/-- Stage 4: weight-set and adapter changes; QUEUED requests of a model that is closed or has no set end (Table 11.4). -/
def State.stage4 (s : State) (m : Nat) : State :=
  let s1 := s.winStepStart m
  let a := s1.winAdmit m
  if a = 2 ∨ a = 3 then
    (s1.liveOf m).foldl (fun t p => if p.2.st = 1 then t.endReq p.1 (if a = 2 then stModelClosed else stModelUnavail) 3 else t) s1
  else s1

/-! ### Stage 5: admission -/

/-- The handle a request would borrow under R355: READY, this weight set and adapter slot. -/
def State.borrows (s : State) (r : Req) (ws : Nat) (ad : Option Nat) : Option Nat :=
  if !r.usePfx then none
  else
    let id := r.f 0x24 4
    let x := s.pfx (id % 2 ^ 14)
    if x.st = 2 ∧ x.gen = id / 2 ^ 14 ∧ x.ws = ws ∧ x.ad = ad ∧ x.model = r.model ∧ x.fn = r.fn ∧ x.len = r.f 0x28 4 then
      some (id % 2 ^ 14)
    else none

/-- Full blocks' pages that a handle lends. -/
def State.lentPages (s : State) (m : Nat) (h : Option Nat) : Nat :=
  match h with
  | some k => (s.pfx k).len / s.mPT m * s.mPPB m
  | none => 0

/-- Pages a request reserves at admission (R352). -/
def State.reserve (s : State) (r : Req) (h : Option Nat) : Nat :=
  s.pagesFor r.model (if s.clsBulk r.cls then r.plen else r.plen + r.maxNew) - s.lentPages r.model h

/-- T_full of R368, in ns, for K positions. -/
def State.tFull (s : State) (m k : Nat) : Nat :=
  s.rdF .GLN_MODEL_C m 0 63 32 + s.rdF .GLN_MODEL_C m 0 31 0 * s.mBudget m + s.rdF .GLN_MODEL_D m 0 63 32 * ceilDiv k 1024

/-- The first of tests A to D that a candidate fails; 0 when it passes all (R368). -/
def State.admitTest (s : State) (x : Req) (h : Option Nat) : Nat :=
  let m := x.model
  let live := s.liveOf m
  let adm := live.filter fun p => p.2.admitted
  let k := (adm.map fun p => p.2.plen + p.2.maxNew).foldl (· + ·) (x.plen + x.maxNew)
  let d := (adm.filter fun p => decide (p.2.st = 3)).length
  let lent := match h with
    | some i => (s.pfx i).len
    | none => 0
  let q := ((adm.filter fun p => decide (p.2.st = 2 ∧ s.clsPrio p.2.cls ≤ s.clsPrio x.cls)).map fun p => p.2.plen - p.2.len).foldl
    (· + ·) (x.plen - lent)
  let t := s.tFull m k
  let tpot := fun (c : Nat) => s.rdF .GLN_CLS_TGT c 0 31 0
  let clss := x.cls :: (live.map (·.2.cls)).filter fun c => !s.clsBulk c
  let ttft := s.rdF .GLN_CLS_TGT x.cls 0 63 32
  let steps := ceilDiv q (max 16 (s.mBudget m - d))
  let cand := s.evictable h
  let spare := (cand.map fun p => p.2.pages.length - p.2.shared).foldl (· + ·) 0
  let idxOk := !x.prefixOnly || cand != [] || decide ((s.gln.pfx.filter fun p => decide (p.2.st ≠ 0)).length < 16384)
  let maxl := s.rdF .GLN_CLS_CFG x.cls 0 47 32
  let inCls := (s.ownReqs.filter fun p => p.2.admitted && decide (p.2.cls = x.cls)).length
  if clss.any fun c => decide (tpot c ≠ 0 ∧ t > 1000 * tpot c) then 1
  else if !s.clsBulk x.cls ∧ ttft ≠ 0 ∧ (steps + 1) * t > 1000 * ttft then 2
  else if s.reserve x h > s.pgFree - s.pgRsv + spare ∨ !idxOk then 3
  else if maxl ≠ 0 ∧ inCls ≥ maxl then 4
  else 0

/-- Admit a request (R333, R339, R352, R354, R355, R368, R370). -/
def State.admitReq (s : State) (key : Nat) (ws : Nat) (ad : Option Nat) (h : Option Nat) : State :=
  let x := s.req key
  let m := x.model
  let need := s.reserve x h
  let s1 := State.evictUntil h (fun t => decide (need ≤ t.pgFree - t.pgRsv)) 16384 s
  let s2 := match ad with
    | some a => (s1.wsPin ws).adPin a
    | none => s1.wsPin ws
  let (bh, s3) :=
    if !x.prefixOnly then (none, s2)
    else
      let s2' := State.evictUntil h (fun t => decide ((t.gln.pfx.filter fun p => decide (p.2.st ≠ 0)).length < 16384)) 16384 s2
      s2'.pickFree 16384 fun i => decide ((s2'.pfx i).st ≠ 0)
  let s4 := match bh with
    | some i => s3.setPfx i { Pfx.reset with st := 1, gen := (s3.pfx i).gen, model := m, fn := x.fn, ws := ws, ad := ad, lentAt := s.time }
    | none => s3
  let n := s4.lentPages m h
  let hx := match h with
    | some i => s4.pfx i
    | none => Pfx.reset
  let s5 := match h with
    | some i => s4.setPfx i { hx with refs := hx.refs + 1, lentAt := s.time }
    | none => s4
  let lent := hx.pages.take n
  let partl := decide (hx.len % s.mPT m ≠ 0)
  let y : Req := { x with
    st := 2, admitNo := s.gln.no, ws := ws, ad := ad, rsv := need, pages := lent, shared := n, lender := h, build := bh
    len := hx.len, pfxTok := hx.len, missed := x.usePfx && h.isNone }
  let s6 := (s5.setReq key y).ptWrite key 0 lent true
  let s7 := { s6 with gln := { s6.gln with no := s6.gln.no + 1 } }
  let s8 :=
    if h.isSome ∧ partl then
      let (_, t) := s7.drawPages key hx.len false
      t.setReq key { t.req key with copying := true }
    else s7
  (s8.sample x.cls 0 (usOf (s.time - x.acceptAt)) 1).inc .GLN_CLS_ADMITTED x.cls 0 1

/-- Stage 5: QUEUED requests are examined in order (R367 to R369). -/
def State.stage5 (s : State) (m : Nat) : State :=
  let queued := s.ordered ((s.liveOf m).filter fun p => decide (p.2.st = 1)) (·.no)
  (queued.foldl (fun (a : State × List Nat) key =>
    let t := a.1
    let x := t.req key
    if a.2.contains x.cls then a
    else match (t.wmodel m).cur with
      | none => a
      | some ws =>
        let ad := x.aid.bind (t.binding m)
        if x.aid.isSome ∧ ad.isNone then (t.endReq key stAdapterUnknown 3, a.2)
        else
          let h := t.borrows x ws ad
          let f := t.admitTest x h
          if f = 0 then (t.admitReq key ws ad h, a.2)
          else
            let t1 := { t with gln := { t.gln with lastFail := mput dNat t.gln.lastFail x.cls f } }
            (if t1.rdF .GLN_CLS_CFG x.cls 0 31 16 = 0 then t1.endReq key stAdmitReject 3 else t1, x.cls :: a.2)) (s, [])).1

/-! ### Stage 6: the plan -/

/-- Bytes of a segment (Table 11.5). -/
def segBytes (g : PlanSeg) (pt : Nat) : List Byte :=
  natToBytes 2 g.req ++ natToBytes 1 g.kind ++ natToBytes 1 g.spec ++ natToBytes 4 g.pos ++ natToBytes 2 g.ntok ++
    natToBytes 2 g.ws ++ natToBytes 2 g.ad ++ natToBytes 2 0 ++ natToBytes 8 pt ++ natToBytes 8 g.tokAddr

/-- Bytes of a plan (Table 11.5). -/
def State.planBytes (s : State) (m step : Nat) (retry : Bool) (segs : List PlanSeg) : List Byte :=
  natToBytes 8 step ++ natToBytes 4 segs.length ++ natToBytes 4 ((segs.map (·.ntok)).foldl (· + ·) 0) ++ natToBytes 1 m ++
    natToBytes 1 retry.toNat ++ List.replicate 46 0 ++ segs.flatMap fun g => segBytes g (s.ptSlot g.req)

/-- Most segments a plan area holds (R360). -/
def State.planCap (s : State) (m : Nat) : Nat := (2 ^ s.rdF .GLN_MODEL_D m 0 31 27 - 64) / 32

/-- A segment as the plan states it. -/
def State.planSeg (s : State) (key : Nat) (g : Seg) : PlanSeg :=
  let r := s.req key
  ⟨g.req, g.kind, g.spec, g.pos, g.ntok, r.ws, (match r.ad with | some a => a + 0x8000 | none => 0),
    if g.kind = 0 then s.ptSlot g.req + s.ptSize - 64 else r.f 0x10 8 + 4 * g.pos⟩

/-- The tree or draft length of a request's decode segment, after the clamps of R396: mode and N or k. -/
def State.specOf (s : State) (r : Req) (siva : Word) : Nat × Nat :=
  let mode := fld siva 63 62
  let room := min (r.maxNew - r.toks.length) (s.mMaxCtx r.model - 1 - r.len)
  if mode = 0 ∨ mode = 3 ∨ r.samp.specOff then (0, 0)
  else
    let n := min (if mode = 1 then r.tree.length else fld siva 59 56) room
    if n = 0 then (0, 0) else (mode, n)

/-- Whether tree node j is node i or an ancestor of it (R398). -/
def treeAnc (tree : List TreeNode) : Nat → Nat → Nat → Bool
  | 0, _, _ => false
  | f + 1, i, j => decide (i = j) || (match tree[i]? with
    | some n => if n.par = 0 then false else treeAnc tree f (n.par - 1) j
    | none => false)

/-- Write a tree into its request's slot (R398). -/
def State.writeTree (s : State) (r : Nat) (tree : List TreeNode) : State :=
  let mask := (List.range tree.length).flatMap fun i =>
    natToBytes 8 ((List.range tree.length).foldl (fun a j => if treeAnc tree 64 i j then a + 2 ^ j else a) 0)
  (s.glnPut (s.sivSlot r + 0x1000) (tree.flatMap fun n => natToBytes 4 n.tok)).glnPut (s.sivSlot r + 0x1200) mask

/-- What planning has so far: state, budget left, segments. -/
structure PlanAcc where
  s : State
  b : Nat
  segs : List Seg

/-- Plan a decode segment of a request (R361, R396 to R398). -/
def PlanAcc.decode (a : PlanAcc) (cap : Nat) (siva : Word) (key : Nat) : PlanAcc :=
  let r := a.s.req key
  let (mode, n) := a.s.specOf r siva
  let g := 1 + n
  if g > a.b ∨ a.segs.length ≥ cap then a
  else
    match a.s.drawPages key (r.len + g) true with
    | (false, t) => { a with s := t.inc .GLN_CLS_STALL_PAGES r.cls 0 1 }
    | (true, t) =>
      let t1 := if mode = 1 then t.writeTree key (r.tree.take n) else t
      ⟨t1, a.b - g, a.segs ++ [⟨key, 0, if mode = 0 then 0 else mode * 64 + (n - 1), r.len, g, [], [], 0, { SegRes.reset with gst := r.gst }⟩]⟩

/-- Plan the chunks of a request's prompt (R361); `fuel` bounds the chunks. -/
def PlanAcc.chunks (cap key : Nat) : Nat → Nat → PlanAcc → PlanAcc
  | 0, _, a => a
  | f + 1, pos, a =>
    let r := a.s.req key
    if pos ≥ r.plen ∨ a.b < 16 ∨ a.segs.length ≥ cap then a
    else
      let n0 := min 256 (r.plen - pos)
      let n := if n0 > a.b then a.b - a.b % 16 else n0
      match a.s.drawPages key (pos + n) true with
      | (false, t) => { a with s := if pos = r.len then t.inc .GLN_CLS_STALL_PAGES r.cls 0 1 else t }
      | (true, t) =>
        PlanAcc.chunks cap key f (pos + n)
          ⟨t, a.b - n, a.segs ++ [⟨key, if pos + n = r.plen then 2 else 1, 0, pos, n, [], [], 0, { SegRes.reset with gst := r.gst }⟩]⟩

/-- Hand a message of the gleaner to the fabric (R366). -/
def State.glnSend (s : State) (m : Nat) (nums : List Nat) (bytes : List Byte) : State :=
  s.setHay { s.hay with msgs := s.hay.msgs ++ [⟨2, s.rdF .GLN_MODEL_A m 0 53 48, s.rdF .GLN_MODEL_A m 0 47 44, nums, bytes⟩] }

/-- Write a plan, make its step the model's, and set CC_EVT[2] of the CORE (R359, R360, R366). -/
def State.issuePlan (s : State) (m step : Nat) (retry : Bool) (segs : List Seg) (plan : List PlanSeg) : State :=
  let bs := s.planBytes m step retry plan
  let s1 := s.store .csram (fld (s.rd .GLN_MODEL_D m 0) 24 0) bs
  let s2 := if s.mRole m = 1 then s1.glnSend m [m, step] bs else s1
  (s2.setGStep m { GStep.reset with
    stage := 1, no := step, retry := retry, segs := segs, siva := s.rd .SIV_MODEL_A m 0, sivb := s.rd .SIV_MODEL_B m 0
    allReady := decide (s.mRole m ≠ 1) }).event (s.mCore m) 4

/-- Stage 6 (R358 to R361, R365). -/
def State.stage6 (s : State) (m : Nat) : State :=
  let st := (s.gmodel m).step
  let again := st.again || (decide (st.stage = 3) && !st.retry)
  let siva := s.rd .SIV_MODEL_A m 0
  let cap := s.planCap m
  let live := (s.liveOf m).filter fun p => p.2.admitted
  let dec := s.ordered (live.filter fun p => decide (p.2.st ≠ 2) && !p.2.prompting) (·.admitNo)
  let pre := s.ordered (live.filter fun p => p.2.prompting && !p.2.copying && decide (p.2.copyBad = 0)) (·.admitNo)
  let a0 := dec.foldl (fun a k => a.decode cap siva k) ⟨s, s.mBudget m, []⟩
  let a := pre.foldl (fun a k => PlanAcc.chunks cap k ((a.s.req k).plen + 1) (a.s.req k).len a) a0
  if a.segs = [] then a.s.setGStep m { GStep.reset with again := again }
  else a.s.issuePlan m (s.mStep m) again a.segs (a.segs.map fun g => a.s.planSeg g.req g)

/-! ### Boundaries -/

/-- Stages 2 to 6 (R359). When a boundary plans no step while a CANCEL waits, an idle boundary follows (R373). A disabled
handle runs stages 2 to 4; a member neither admits nor plans (R366). -/
def State.boundary (s : State) (m : Nat) (idle : Bool) : State :=
  let s1 := ((s.stage2 m).stage3 m idle).stage4 m
  let on := s.mEn m && decide (s.mRole m ≠ 2)
  let st := (s1.gmodel m).step
  let s2 := if on then (if s1.winAdmit m = 0 then s1.stage5 m else s1).stage6 m
    else s1.setGStep m { GStep.reset with again := st.again || (decide (st.stage = 3) && !st.retry) }
  let g := s2.gmodel m
  s2.setGModel m { g with due := decide (g.step.stage = 0 ∧ g.waits ≠ []) }

/-- STEP_BOUNDARY (R359, R365): the boundary that follows a commit, or an abandoned step. -/
def execStepBoundary (model : Fin 256) (s : State) : Out :=
  .next (if (s.gmodel model).step.stage < 2 ∨ s.isFatal then s else s.boundary model false)

/-- IDLE_BOUNDARY (R359): when no step is planned or in flight, an event runs stages 2 to 6. -/
def execIdleBoundary (model : Fin 256) (s : State) : Out :=
  let g := s.gmodel model
  .next (if g.step.stage ≠ 0 ∨ !g.due ∨ s.isFatal then s else s.boundary model true)

/-! ### COMMIT -/

/-- Whether every riddle job's closing record of a step that dispatched is in (R362, R425). -/
def State.rdlClosed (s : State) (m : Nat) : Bool :=
  (s.rdl.leds.filter fun l => decide (l.core = s.mCore m ∧ l.step = (s.gmodel m).step.no)).all (·.closed)

def Seg.yields (g : Seg) : Bool := decide (g.kind = 0 ∨ g.kind = 2)

/-- Whether a step has all that its commit waits for (R362, R366, R400). -/
def State.commitReady (s : State) (m : Nat) : Bool :=
  let st := (s.gmodel m).step
  (st.segs.all fun g => !g.yields || g.res.done) && !st.compact && s.rdlClosed m && st.allReady

/-- Complete the COMMIT that waits. -/
def State.commitDone (s : State) (m status : Nat) : State :=
  match (s.gmodel m).step.commit with
  | some (c, t) => (s.setGStep m { (s.gmodel m).step with commit := none }).complete ⟨c, t⟩ 0 status none
  | none => s

/-- A step is abandoned (R353, R363, R365, R428): tentative pages return, results and riddle counts are dropped. -/
def State.abandonStep (s : State) (m status : Nat) : State :=
  let st := (s.gmodel m).step
  let s1 := st.segs.foldl (fun t g => t.undraw (s.reqKey m g.req)) s
  let s2 := s1.ridDrop (s.mCore m) st.no
  let s3 := if s.mRole m = 1 then s2.glnSend m [m, st.no, status, 1] [] else s2
  (s3.setGStep m { st with stage := 3, phase := 0, phases := [], compact := false }).commitDone m status

/-- A failed access of the sieve (R384). -/
def State.sieveFault (s : State) (m : Nat) : State :=
  let st := (s.gmodel m).step
  let s1 := s.setGStep m { st with faulted := true }
  if st.commit.isSome then s1.abandonStep m stSieveFault else s1

/-- COMMIT (R362, R363, R366): a COMMIT that is in order waits for its results; one with ABANDON abandons the step; a
member's reports its step to the leader. -/
def execCommit (core : Fin 64) (s : State) : Out :=
  match s.inHand core 11 with
  | none => .next s
  | some c =>
    if s.isFatal then .next s
    else
      let m := (c.arg 0).toNat
      let st := (s.gmodel m).step
      if m ≥ 256 ∨ s.mCore m ≠ core.val then .next (s.finish core c stProt)
      else if (c.arg 1).toNat ≠ s.mStep m ∨ st.stage ≠ 1 ∨ st.commit.isSome then .next (s.finish core c stOutOfOrder)
      else
        let s1 := (s.setCmd core { c with phase := 2 }).setGStep m { st with commit := some (core.val, c.ticket), commitAt := s.time }
        if s.mRole m = 2 then .next (s1.glnSend m [m, st.no, (decide (c.flags % 2 = 0) && !st.faulted).toNat] [])
        else if c.flags % 2 = 1 then .next (s1.abandonStep m stOK)
        else if st.faulted then .next (s1.abandonStep m stSieveFault)
        else .next s1

/-- COMMIT_WAIT_EXPIRY (R362, R366): results or reports are still missing COMMIT_WAIT after the COMMIT. -/
def execCommitWaitExpiry (model : Fin 256) (s : State) : Out :=
  let st := (s.gmodel model).step
  .next (if st.stage ≠ 1 ∨ st.commit.isNone ∨ s.commitReady model ∨ s.mRole model = 2 ∨ s.isFatal then s
    else s.abandonStep model stIncomplete)

/-- STEP_READY_REPORT (R366): the leader receives a member's report; `last` tells that every member has now reported. -/
def execStepReadyReport (model : Fin 256) (ok last : Bool) (s : State) : Out :=
  let st := (s.gmodel model).step
  .next (if st.stage ≠ 1 ∨ s.mRole model ≠ 1 ∨ s.isFatal then s
    else if !ok then s.abandonStep model stIncomplete
    else if last then s.setGStep model { st with allReady := true }
    else s)

/-! ### The commit point -/

/-- The next tree of a request (R397): the template with the ranks of a proposal record; `room` is the clamp of R396. -/
def State.buildTree (s : State) (m : Nat) (record : List Byte) (room : Nat) : List TreeNode :=
  let tmpl := (List.range 64).map fun n => s.rd .SIV_TREE m n
  ((List.range 64).foldl (fun (a : List TreeNode × List (Option Nat)) n =>
    let v := lget tmpl n 0
    let par : Option (Nat × Nat) := if bit v 22 then some (0, 0) else match lget a.2 (fld v 21 16) none with
      | some i => some (i + 1, (lget a.1 i ⟨0, 0, 0⟩).depth)
      | none => none
    match par with
    | some (p, d) =>
      let tok := le record (32 * d + 4 * fld v 14 12) 4
      if bit v 63 ∧ tok ≠ 0xFFFFFFFF ∧ d + 1 ≤ room ∧ d < 8 then (a.1 ++ [⟨tok, p, d + 1⟩], a.2 ++ [some a.1.length])
      else (a.1, a.2 ++ [none])
    | none => (a.1, a.2 ++ [none])) ([], [])).1

/-- First target row of each segment (R381). -/
def rowBases : Nat → List Seg → List Nat
  | _, [] => []
  | b, g :: gs => b :: rowBases (if !g.yields then b else if g.kind = 2 then b + 1 else b + g.ntok) gs

/-- What a commit point has so far: state, and the endings to come (key, status, END). -/
structure CommitAcc where
  s : State
  ends : List (Nat × Nat × Nat)

/-- The part of a commit point for one segment (R347, R364, R370, R388, R389, R395, R397). -/
def CommitAcc.seg (a : CommitAcc) (st : GStep) (base : Nat) (g : Seg) : CommitAcc :=
  let s := a.s
  let r0 := s.req g.req
  if !r0.admitted then a
  else
    let r := { r0 with tent := 0, tentRsv := 0 }
    if g.kind = 1 then ⟨s.setReq g.req { r with len := g.pos + g.ntok }, a.ends⟩
    else if g.kind = 2 ∧ r.prefixOnly then ⟨s.setReq g.req { r with len := g.pos + g.ntok }, a.ends ++ [(g.req, stOK, 0)]⟩
    else
      let room := r.maxNew - r.toks.length
      let toks := g.res.toks.take room
      let n := toks.length
      let fin := if g.res.toks.length > room ∨ (g.res.fin = 2 ∧ n = room) then 0 else g.res.fin
      let drain := decide (r.st = 4)
      let all := r.toks ++ toks
      let len := if g.kind = 2 then g.pos + g.ntok else r.len + n
      let chosen := base + (match g.res.path.getLast? with | some i => if g.spec / 64 = 1 then i + 1 else 0 | none => 0)
      let tree := if fld st.siva 63 62 ≠ 1 then [] else
        match s.fetch .gleaner (fld st.sivb 47 24 * 65536 + 256 * chosen) 256 false with
        | .ok bs => s.buildTree r.model bs (r.maxNew - all.length)
        | .error _ => []
      let r1 : Req := { r with
        st := if r.st = 2 then 3 else r.st, len := len, toks := all, gst := g.res.gst, tree := tree
        wrote := if drain then r.wrote else r.wrote + n, lastAt := if n = 0 then r.lastAt else s.time }
      let s1 := (s.setReq g.req r1).inc .GLN_CLS_TOKENS r.cls 0 n
      let s2 := if n = 0 ∨ drain then s1
        else if r.toks = [] then s1.sample r.cls 1 (usOf (s.time - r.acceptAt)) 1
        else s1.sample r.cls 2 (usOf (s.time - r.lastAt) / n) n
      let s3 := if n = 0 then s2 else
        let t := s2.tokenLine g.req (lget all (all.length - 1) 0)
        let hist := all.drop (all.length - min all.length r.samp.penWin)
        (if hist = [] then t else t.glnPut (t.sivSlot g.req) (hist.flatMap (natToBytes 4))).glnPut (t.sivSlot g.req + 0x1400) (natToBytes 4 g.res.gst)
      let s4 := if n = 0 ∨ drain then s3 else
        { s3 with gln := { s3.gln with out := s3.gln.out ++ [⟨g.req, r.fn, r.f 0x18 8 + 4 * r.wrote, toks, r.f 0x30 8,
          r1.wrote % 2 ^ 32 + st.no % 2 ^ 32 * 2 ^ 32, none⟩] } }
      let s5 := if g.spec = 0 then s4 else
        (s4.inc .SIV_SPEC_PROPOSED 0 0 (g.ntok - 1)).inc .SIV_SPEC_ACCEPTED 0 0 g.res.path.length
      let e : Option (Nat × Nat) :=
        if fin = 2 then some (stDeadEnd, 3) else if fin = 1 then some (stOK, 1) else if all.length ≥ r.maxNew then some (stOK, 0) else none
      ⟨s5, match e with
        | some (c, k) => a.ends ++ [if drain then (g.req, stDropped, 2) else (g.req, c, k)]
        | none => a.ends⟩

/-- The commit point of a step (R364). The model's step number advances; requests that end release all they hold; their
completions follow their output. -/
def State.commitPoint (s : State) (m : Nat) : State :=
  let st := (s.gmodel m).step
  let s0 := s.wr .GLN_MODEL_STEP m 0 (BitVec.ofNat 64 (st.no + 1))
  let bases := rowBases 0 st.segs
  let acc := (List.range st.segs.length).foldl (fun (a : CommitAcc) i =>
    match st.segs[i]? with
    | some g => a.seg st (lget bases i 0) g
    | none => a) ⟨s0, []⟩
  let recs := (st.segs.map (·.req)).eraseDups.map fun k =>
    let r := acc.s.req k
    (k, r.len, r.toks.getLast?, acc.ends.any fun e => decide (e.1 = k))
  let s1 := acc.ends.foldl (fun t e =>
    let fn := (t.req e.1).fn
    let (u, c) := t.release e.1 e.2.1 e.2.2
    { u with gln := { u.gln with out := u.gln.out ++ [⟨e.1, fn, 0, [], 0, 0, some c⟩] } }) acc.s
  let s2 := (List.range 16).foldl (fun t c => if mget dFalse t.gln.swap c then t.swapBank c else t) s1
  let s3 := s2.ridCommit (s.mCore m) st.no
  let s4 := if s.mRole m = 1 then
      s3.glnSend m [m, st.no, 0, 0] (recs.flatMap fun p => natToBytes 4 p.1 ++ natToBytes 4 p.2.1 ++ natToBytes 4 (p.2.2.1.getD 0) ++
        natToBytes 4 (p.2.2.2.toNat))
    else s3
  (s4.setGStep m { (s4.gmodel m).step with stage := 2, segs := [] }).commitDone m stOK

/-- COMMIT_POINT (R362, R364): the COMMIT of a model has all that it waited for. -/
def execCommitPoint (model : Fin 256) (s : State) : Out :=
  let st := (s.gmodel model).step
  .next (if st.stage ≠ 1 ∨ st.commit.isNone ∨ !s.commitReady model ∨ s.mRole model = 2 ∨ s.isFatal then s else s.commitPoint model)

/-! ### Members of a slice (R366) -/

/-- PLAN_RECEIVED (R366): a member draws the plan's pages under the leader's request indices, keeps the plan, and sets
CC_EVT[2] of its CORE. A request it cannot draw for is reported with its COMMIT. -/
def execPlanReceived (model : Fin 256) (step : Nat) (retry : Bool) (segs : List PlanSeg) (s : State) : Out :=
  if s.mRole model ≠ 2 ∨ !s.mEn model ∨ (s.gmodel model).step.stage = 1 ∨ s.isFatal then .next s
  else
    let m := model.val
    let (s1, bad) := segs.foldl (fun (a : State × Bool) g =>
      let key := s.reqKey m g.req
      let t := a.1.setReq key { a.1.req key with model := m, ws := g.ws }
      match t.drawPages key (g.pos + g.ntok) true with
      | (true, u) => (u, a.2)
      | (false, u) => (u, true)) (s, false)
    let own := segs.map fun g => (⟨g.req, g.kind, g.spec, g.pos, g.ntok, [], [], 0, { SegRes.reset with done := true }⟩ : Seg)
    let plan := segs.map fun g => if g.kind = 0 then { g with tokAddr := s.ptSlot g.req + s.ptSize - 64 } else g
    let s2 := (s1.wr .GLN_MODEL_STEP m 0 (BitVec.ofNat 64 step)).issuePlan m step retry own plan
    .next (s2.setGStep m { (s2.gmodel m).step with faulted := bad })

/-- COMMIT_RECORD_RECEIVED (R364, R366): a member applies the leader's record; its COMMIT completes with the leader's
status. -/
def execCommitRecordReceived (model : Fin 256) (status : BitVec 16) (recs : List MemRec) (s : State) : Out :=
  let m := model.val
  let st := (s.gmodel m).step
  if s.mRole m ≠ 2 ∨ st.stage ≠ 1 ∨ s.isFatal then .next s
  else if status.toNat ≠ 0 ∨ recs = [] then
    let t := s.abandonStep m status.toNat
    .next (t.setGStep m GStep.reset)
  else
    let s1 := recs.foldl (fun t e =>
      let key := s.reqKey m e.req
      let r := t.req key
      if e.ended then (t.setReq key Req.reset).poolFreed
      else
        let u := t.setReq key { r with tent := 0, tentRsv := 0, len := e.len }
        match e.tok with
        | some k => u.tokenLine e.req k
        | none => u) (s.wr .GLN_MODEL_STEP m 0 (BitVec.ofNat 64 (st.no + 1)))
    let s2 := (s1.ridCommit (s.mCore m) st.no).commitDone m stOK
    .next (s2.setGStep m GStep.reset)

/-! ### The sieve's rows -/

/-- The logit row at index `row` of a step (R381); none when its read fails. -/
def State.rowAt (s : State) (st : GStep) (row : Nat) : Option (List Nat) :=
  let bf := bit st.siva 60
  let v := fld st.siva 35 18 + 1
  let w := if bf then 2 else 4
  let n := roundUp (v * w) 64
  match s.fetch .gleaner (fld st.sivb 23 0 * 65536 + row * n) n false with
  | .ok bs => some ((List.range v).map fun t => logit bf (le bs (w * t) w))
  | .error _ => none

/-- The reads that a row takes: its logits as the gleaner, its request's masks as the function. -/
def GStep.rowReads (st : GStep) (r : Req) (row : Nat) : List (Who × Nat × Nat) :=
  let p := r.samp
  let n := roundUp ((fld st.siva 35 18 + 1) * (if bit st.siva 60 then 2 else 4)) 64
  [(.gleaner, fld st.sivb 23 0 * 65536 + row * n, n), (.func r.fn, p.allow, if p.allowEn then 32768 else 0),
    (.func r.fn, p.gram, if p.gramEn then 64 else 0)]

/-- The reads of a row and of the masks that its request uses pass their intakes. -/
def State.countReads (s : State) (st : GStep) (r : Req) (row : Nat) : State :=
  let p := r.samp
  let v := fld st.siva 35 18 + 1
  let n := roundUp (v * (if bit st.siva 60 then 2 else 4)) 64
  let s1 := s.countAt (fld st.sivb 23 0 * 65536 + row * n) n
  let s2 := if p.allowEn then s1.countAt p.allow 32768 else s1
  if p.gramEn then s2.countAt p.gram 64 else s2

/-- The masks of a request (R392, R393); none when a read fails (R384). -/
def State.masksOf (s : State) (r : Req) : Option Masks :=
  let p := r.samp
  let get := fun (a n : Nat) => match s.fetch (.func r.fn) a n true with
    | .ok bs => some bs
    | .error _ => none
  match (if p.allowEn then (get p.allow 32768).map some else some none) with
  | none => none
  | some al =>
    if !p.gramEn then some ⟨al, none⟩
    else match get p.gram 64 with
      | none => none
      | some h => (get p.gram (gBytes h)).map fun g => ⟨al, some g⟩

/-- The history of a row (R388): the last PEN_WIN committed tokens with the path's tokens before the row. -/
def histOf (r : Req) (path : List Nat) : List Nat :=
  let l := r.toks ++ path
  l.drop (l.length - min l.length r.samp.penWin)

/-- The distribution that a row leaves for a request, with the counters it advances. -/
def State.rowFor (s : State) (st : GStep) (r : Req) (row : Nat) (path : List Nat) (gst : Nat) : Option (RowDist × Masks) :=
  match s.rowAt st row, s.masksOf r with
  | some ls, some ks => some (rowDist r.samp ls (histOf r path) (ks.allows gst), ks)
  | _, _ => none

def State.countRow (s : State) (d : RowDist) : State :=
  ((s.inc .SIV_ROWS 0 0 1).inc .SIV_BADROWS 0 0 d.bad.toNat).inc .SIV_FALLBACKS 0 0 d.fell.toNat

/-- Draw from a row's distribution (stage 8), at a sequence position with a purpose (R390). -/
def drawRow (r : Req) (d : RowDist) (pos purpose : Nat) : Option Nat :=
  match d.cands with
  | [c] => some c.tok
  | l => drawFrom (streamU r.seed pos purpose) l

/-- Add a chosen token to a segment's result (R389, R395); none ends it. `stay` says that the walk may go on. -/
def SegRes.choose (x : SegRes) (r : Req) (mk : Masks) (tok : Option Nat) (stay : Bool) (at_ : Nat) : SegRes :=
  match tok with
  | none => { x with fin := if mk.accepts x.gst then 1 else 2, at_ := 200 }
  | some t =>
    let g := mk.next x.gst t
    let stop := (r.samp.stops.take r.samp.nstop).contains t || (r.samp.stopAcc && mk.accepts g)
    { x with toks := x.toks ++ [t], gst := g, fin := if stop then 1 else 0, at_ := if stop || !stay then 200 else at_ }

/-- One target row of a segment (R399, R402, R403). Rows off the walk choose nothing. -/
def Seg.choose (g : Seg) (r : Req) (acc1 : Bool) (k : Nat) (d : RowDist) (mk : Masks) : SegRes :=
  let x := g.res
  if x.at_ ≠ k then x
  else if g.spec / 64 = 1 then
    let depth := x.path.length
    let tok := drawRow r d (r.len + depth + 1) 0
    let tree := r.tree.take (g.ntok - 1)
    match tok.bind (fun t => (List.range tree.length).find? fun i =>
        decide ((lget tree i ⟨0, 0, 0⟩).tok = t ∧ (lget tree i ⟨0, 0, 0⟩).par = k)) with
    | some i => { x.choose r mk tok true (i + 1) with path := x.path ++ [i] }
    | none => x.choose r mk tok false 0
  else if g.spec / 64 = 2 then
    let pos := r.len + k + 1
    match g.drafts[k]? with
    | none => x.choose r mk (drawRow r d pos 0) false 0
    | some dt =>
      if acc1 ∧ d.cands ≠ [] then
        let (ok, t) := acceptDraft d.cands (lget g.qs k []) dt r.seed pos
        { x.choose r mk t ok (k + 1) with path := if ok then x.path ++ [k] else x.path }
      else
        let t := drawRow r d pos 0
        let ok := decide (t = some dt)
        { x.choose r mk t ok (k + 1) with path := if ok then x.path ++ [k] else x.path }
  else x.choose r mk (drawRow r d (if g.kind = 2 then g.pos + g.ntok else r.len + 1) 0) false 0

/-- Rows of a segment's target phase. -/
def Seg.rows (g : Seg) : Nat := if !g.yields then 0 else if g.kind = 2 then 1 else g.ntok

/-- The draft segments of a plan: their places in it. -/
def draftSegs (segs : List Seg) : List Nat := (List.range segs.length).filter fun i => match segs[i]? with
  | some g => decide (g.spec / 64 = 2)
  | none => false

/-- Whether a phase has all its rows (R382, R401). -/
def GStep.phaseDone (st : GStep) (p : Nat) : Bool :=
  if p = 0 then st.segs.all fun g => !g.yields || g.res.done
  else st.segs.all fun g => !decide (g.spec / 64 = 2 ∧ p ≤ g.ntok - 1) || decide (p ≤ g.pass)

/-- The moves of R400 that a segment needs: (from, to) positions. -/
def Seg.moves (g : Seg) : List (Nat × Nat) :=
  if g.spec / 64 ≠ 1 then []
  else ((List.range g.res.path.length).map fun d => (g.pos + 1 + lget g.res.path d 0, g.pos + d + 1)).filter fun p => decide (p.1 ≠ p.2)

/-- Finish phases that have all their rows (R382): the event bit, then the next phase that waits. -/
def State.phaseEnd (m : Nat) : Nat → State → State
  | 0, s => s
  | f + 1, s =>
    let st := (s.gmodel m).step
    if st.phase = 0 ∨ !st.phaseDone (st.phase - 1) then s
    else
      let nb := fld st.siva 51 46
      let comp := decide (st.phase = 1) && st.segs.any fun g => decide (g.moves ≠ [])
      let s1 := s.setGStep m { st with
        phase := (match st.phases with | [] => 0 | p :: _ => p + 1)
        phases := st.phases.drop 1, compact := st.compact || comp }
      let s2 := if 8 ≤ nb then s1.event (s.mCore m) (BitVec.ofNat 64 (2 ^ nb)) else s1
      State.phaseEnd m f s2

/-- SIV_KICK (R382). -/
def execSivKick (who : Agent) (model : Fin 256) (value : BitVec 64) (s : State) : Out :=
  let m := model.val
  let st := (s.gmodel m).step
  let p := fld value 59 56
  let mine := match who with
    | .core c => decide (c.val = s.mCore m)
    | _ => false
  if !mine ∨ st.stage ≠ 1 ∨ fld value 31 0 ≠ st.no % 2 ^ 32 then .next (s.raiseProt 9 m (Reg.addr .SIV_KICK m 0))
  else if 8 < p ∨ s.isFatal then .next s
  else
    let st1 := if st.phase = 0 then { st with phase := p + 1 } else { st with phases := st.phases ++ [p] }
    .next (State.phaseEnd m (st1.phases.length + 1) ((s.setGStep m st1).wr .SIV_KICK m 0 (value &&& Reg.mask .SIV_KICK [.RW])))

/-- Replace segment `i` of a model's step. -/
def State.setSeg (s : State) (m i : Nat) (g : Seg) : State :=
  let st := (s.gmodel m).step
  s.setGStep m { st with segs := st.segs.set i g }

/-- ROW_CHOICE (R381 to R384, R401): a row engine delivers the choice of a row of the running phase; `fail` tells that a
read of it failed after its repeat. -/
def execRowChoice (model : Fin 256) (row : Nat) (fail : Bool) (s : State) : Out :=
  let m := model.val
  let st := (s.gmodel m).step
  if st.stage ≠ 1 ∨ st.phase = 0 ∨ s.isFatal then .next s
  else if st.phase = 1 then
    let bases := rowBases 0 st.segs
    match (List.range st.segs.length).findSome? (fun i => match st.segs[i]? with
      | some g => if lget bases i 0 ≤ row ∧ row < lget bases i 0 + g.rows ∧ g.res.rows = row - lget bases i 0 then some (i, g) else none
      | none => none) with
    | none => .next s
    | some (i, g) =>
      let k := row - lget bases i 0
      let r := s.req g.req
      let fin := fun (t : State) (x : SegRes) =>
        let y := { x with rows := k + 1, done := decide (k + 1 = g.rows) }
        let dead := (decide (g.res.fin ≠ 2 ∧ y.fin = 2)).toNat
        State.phaseEnd m 16 ((t.setSeg m i { g with res := y }).inc .SIV_DEADENDS 0 0 dead)
      match (if fail then none else s.rowFor st r row g.res.toks g.res.gst) with
      | none => .next (((fin s g.res).noteReads 9 0 (st.rowReads r row) true).sieveFault m)
      | some (d, mk) => .next (fin ((s.countReads st r row).countRow d) (if g.kind = 2 ∧ r.prefixOnly then g.res else g.choose r (bit st.siva 61) k d mk))
  else
    let p := st.phase - 1
    let ds := draftSegs st.segs
    let j := row - s.mBudget m
    match ds[j]? with
    | none => .next s
    | some i =>
      match st.segs[i]? with
      | none => .next s
      | some g =>
        let r := s.req g.req
        if row < s.mBudget m ∨ g.pass + 1 ≠ p ∨ g.ntok - 1 < p then .next s
        else
          let gst := match s.masksOf r with
            | some mk => g.drafts.foldl (fun a t => mk.next a t) r.gst
            | none => r.gst
          match (if fail then none else s.rowFor st r row g.drafts gst) with
          | none => .next (((State.phaseEnd m 16 (s.setSeg m i { g with pass := p })).noteReads 9 0 (st.rowReads r row) true).sieveFault m)
          | some (d, _) =>
            let t := if g.drafts.length + 1 = p then drawRow r d (r.len + p) 1 else none
            let s1 := (s.countReads st r row).countRow d
            match t with
            | some k =>
              .next (State.phaseEnd m 16 ((s1.setSeg m i { g with pass := p, drafts := g.drafts ++ [k], qs := g.qs ++ [d.cands] }).glnPut
                (s.sivSlot g.req + 0x1440 + 4 * (p - 1)) (natToBytes 4 k)))
            | none => .next (State.phaseEnd m 16 (s1.setSeg m i { g with pass := p }))

/-- KV_COMPACTION_DONE (R384, R400): the copies of accepted nodes' entries are done, or one has failed after its repeat. -/
def execKvCompactionDone (model : Fin 256) (fail : Bool) (s : State) : Out :=
  let m := model.val
  let st := (s.gmodel m).step
  if st.stage ≠ 1 ∨ !st.compact ∨ s.isFatal then .next s
  else
    let ring := s.rdF .GLN_CTL 0 0 37 32
    let ok := decide (s.rdF .SILO_PMQ_CFG ring 0 63 61 = 5)
    let sz := (fld st.siva 9 0 + 1) * 64
    let pt := s.mPT m
    let ppb := s.mPPB m
    let addr := fun (t : State) (r : Req) pos j => t.pageAddr (lget r.pages (pos / pt * ppb + j) 0) + pos % pt * sz
    let copies := st.segs.flatMap fun g => g.moves.flatMap fun mv => (List.range ppb).map fun j => (g.req, mv.1, mv.2, j)
    let s1 := s.setGStep m { st with compact := false }
    if fail ∨ !ok then .next (s1.sieveFault m)
    else
      let go := copies.foldl (fun (acc : Option State) c =>
        match acc with
        | none => none
        | some t =>
          let r := t.req c.1
          match t.fetch .gleaner (addr t r c.2.1 c.2.2.2) sz false with
          | .error _ => none
          | .ok bs => match t.put .gleaner (addr t r c.2.2.1 c.2.2.2) bs false with
            | .ok u => some (u.inc .SIV_COMPACT 0 0 1)
            | .error _ => none) (some s1)
      match go with
      | some t => .next t
      | none => .next ((s1.noteReads 9 0 (copies.map fun c => (.gleaner, addr s1 (s1.req c.1) c.2.1 c.2.2.2, sz)) false).sieveFault m)

/-! ### Templates -/

/-- Depth of a template node: 1 below the root (R405); `fuel` bounds the climb. -/
def State.treeDepth (s : State) (m : Nat) : Nat → Nat → Nat
  | 0, _ => 0
  | f + 1, n => let v := s.rd .SIV_TREE m n
                if bit v 22 then 1 else State.treeDepth s m f (fld v 21 16) + 1

/-- A write to a template node (R405): the new state, or none when it is refused. -/
def State.treeWrite (s : State) (m n : Nat) (v : Word) : Option State :=
  let w := v &&& Reg.mask .SIV_TREE [.RW]
  if !bit w 63 then
    some ((List.range 64).foldl (fun t k => if n < k then t.wrF .SIV_TREE m k 63 63 0 else t) (s.wr .SIV_TREE m n w))
  else
    let d := if bit w 22 then 1 else s.treeDepth m 64 (fld w 21 16) + 1
    let dp := if n = 0 then 0 else s.treeDepth m 64 (n - 1)
    if (n ≠ 0 ∧ s.rdF .SIV_TREE m (n - 1) 63 63 = 0) ∨ (!bit w 22 ∧ n ≤ fld w 21 16) ∨ d > s.rdF .SIV_MODEL_A m 0 55 52 ∨ d < dp then none
    else some (s.wr .SIV_TREE m n w)

end Sys2Proof.Machine
end

