-- ==== Sys2Proof/Machine/Power.lean ====
section
/-!
DEFINITION. Power, cooling and caps (chapter 15): the effective cap (R477), the throttle (R479, R480), array steps (R473 to
R476), the floor and the power hold (R483 to R485), the tray manager's heartbeat (R486), sag and halt (R487, R488), the
thermal ladder (R489 to R492), deep idle (R493 to R495).
-/
namespace Sys2Proof.Machine
open Sys2Proof

/-! ### The effective cap -/

/-- The least of the sources of R477. -/
def State.leastCap (s : State) : Nat :=
  let c := s.rd .PWR_CAP 0 0
  let m := min (fld c 15 0) (s.rdF .PWR_PCAP s.pwr.pcap 0 15 0)
  let m1 := if s.pwr.orphan then min m (fld c 31 16) else m
  if s.pwr.sag then min m1 (fld c 47 32) else m1

/-- The effective cap: the greater of 700 W and the least source (R477). -/
def State.effCap (s : State) : Nat := max 700 s.leastCap

/-- Change the power hold's causes: the power-hold event follows the hold itself (R563). -/
def State.setHold (s : State) (p : PwrSt) : State :=
  let was := s.pwr.hold
  let s1 := s.setPwr p
  if p.hold = was then s1 else s1.pwrEvent 3 p.hold

/-- The start of a sample: the sources are evaluated together, and the floor is entered or left (R477, R483). -/
def State.evalCap (s : State) : State :=
  let below := decide (s.leastCap < 700)
  let s1 := s.setHold { s.pwr with cap := s.effCap, floor := below }
  if below = s.pwr.floor then s1
  else (if below then s1.raise (errRec 0x0D01 sevTransient 12 0 0) else s1).pwrEvent 2 below

/-! ### The throttle -/

/-- Lowest level the ladder and a halt allow (R490, R488). -/
def PwrSt.least (p : PwrSt) : Nat := if p.halted then 16 else if 2 ≤ p.ladder then 4 else 0

/-- Clock of a step in MHz, and the square of its nominal voltage in units of 0.5 mV (R473). -/
def stepMhz (n : Nat) : Nat := 500 + 50 * n
def stepV2 (n : Nat) : Nat := (1200 + 25 * n) * (1200 + 25 * n)
/-- f x V² of a step, the scale of dynamic power (R475). -/
def stepPow (n : Nat) : Nat := stepMhz n * stepV2 n

/-- Whether no plot holds a configuration and no ring entry is in flight (R493). -/
def State.isIdle (s : State) : Bool :=
  s.arr.tiles.all (fun t => decide (t.2.active.record = [] ∧ t.2.shadow = none ∧ t.2.incoming = [])) &&
  s.arr.plots.all (fun p => decide (p.2.runs = [] ∧ p.2.loads = [])) && s.rings.all fun r => decide (r.2.ents = [])

/-- Whether every plot is held by the power hold or has no configuration: the array clock is then gated (R484, R493). -/
def State.arrayGated (s : State) : Bool :=
  s.arr.tiles.all fun t => decide (t.2.active.record = []) ||
    (match s.plotOf t.1 with
     | some p => s.pwrHeld p t.1 && s.tileDone t.1
     | none => true)

/-- Gated cycles among `m` cycles from count `c` at a level: those whose count modulo 16 is below it (R479). -/
def gatedCycles (c m l : Nat) : Nat :=
  let upto := fun n => n / 16 * l + min (n % 16) l
  upto (c + m) - upto c

/-- The counters of Table 15.9 over one 1 µs sample of `w` W. -/
def State.countSample (s : State) (w : Nat) : State :=
  let p := s.pwr
  let m := if s.arrayGated then 0 else stepMhz p.step
  let s1 := s.inc .PWR_THROTTLE_CYC 0 0 (gatedCycles p.cyc m p.thr)
  let s2 := s1.inc .PWR_ENERGY_MJ 0 0 ((p.uj + w) / 1000)
  let s3 := if p.hold then s2.inc .PWR_HOLD_US 0 0 1 else s2
  s3.setPwr { s3.pwr with cyc := (p.cyc + m) % 16, uj := (p.uj + w) % 1000, msSum := p.msSum + w, msN := p.msN + 1 }

/-- The level after a sample of `w` W (R480); `rise` is how far it rises when the sample exceeds the cap, 1 to 4. -/
def PwrSt.adjust (p : PwrSt) (w rise : Nat) : PwrSt :=
  let low := decide (w * 100 < p.cap * 95)
  let n := if low then p.low10 + 1 else 0
  if 3900 < w then { p with thr := 16, low10 := 0 }
  else if p.cap < w then { p with thr := min 16 (p.thr + rise), low10 := 0 }
  else if n = 10 then { p with thr := max p.least (p.thr - 1), low10 := 0 }
  else { p with low10 := n }

/-- Effective value of a user calibration offset, as a signed number (R566). -/
def State.calOff (s : State) (i : Nat) : Int := sfld (s.rd .LOFT_CAL_U i 0) 31 0

/-- A power or current reading with item 4's offset, in 0.1 % (Table 18.7). -/
def State.calPower (s : State) (w : Nat) : Nat := w * (1000 + (s.calOff 4).toNat) / 1000

/-- POWER_SAMPLE (R478 to R480): one 1 µs average of the input power, factory calibration applied. It is judged against the
cap of its own sample, and the cap of the next is evaluated then (R477). `rise`: a sample above the cap raises the level
by up to 4, and the manual leaves which. -/
def execPowerSample (watts : BitVec 13) (rise : Fin 4) (s : State) : Out :=
  if s.loft.off ∨ s.pwr.tripped then .next s
  else
    let w := s.calPower watts.toNat
    let s1 := s.countSample w
    .next (s1.setPwr (s1.pwr.adjust w (rise.val + 1))).evalCap

/-! ### Array steps -/

/-- Whether core 1 runs the power service: it does from step 6 on unless halted (R475, R476). -/
def State.svcUp (s : State) : Bool :=
  decide ((s.core 1).state ≠ .halted ∧ (s.core 1).state ≠ .doubleTrap ∧ 2 ≤ s.rdF .HSP_STATUS 0 0 58 56 ∧ s.rdF .HSP_STATUS 0 0 58 56 ≤ 3)

/-- PWR_STATUS.SVC_LOST: core 1 has been started and has halted or trapped (R476). -/
def State.svcLost (s : State) : Bool :=
  decide (2 ≤ s.rdF .HSP_STATUS 0 0 58 56 ∧ s.rdF .HSP_STATUS 0 0 58 56 ≤ 3) && !s.svcUp

/-- Highest step whose prediction lies within the cap, from `n` down to `lo`; `lo` when none does (R475, Table 15.6). -/
def pickStep (cap dyn oth cur lo : Nat) : Nat → Nat
  | 0 => 0
  | n + 1 =>
    if n + 1 ≤ lo then n + 1
    else if oth * stepPow cur + dyn * stepPow (n + 1) ≤ cap * stepPow cur then n + 1
    else pickStep cap dyn oth cur lo n

/-- The ladder's ceiling after 1 ms (R490 step 1): one step down at or above T, one step up each 10 ms below it. -/
def State.ladderCeil (s : State) : PwrSt :=
  let p := s.pwr
  let t := s.rdF .PWR_THERM 0 0 7 0 * 10 + 1000
  let fmax := s.rdF .PWR_DVFS 0 0 20 16
  if t ≤ p.tj ∧ 1 ≤ p.ladder then { p with ceil := min p.ceil fmax - 1, coolMs := 0 }
  else if p.ceil < fmax then
    if p.coolMs + 1 = 10 then { p with ceil := p.ceil + 1, coolMs := 0 } else { p with coolMs := p.coolMs + 1 }
  else { p with ceil := 20, coolMs := 0 }

/-- DVFS_TICK (R475): each 1 ms the power service selects the highest step within bounds whose predicted input power lies
within the cap. `dyn` is the array's dynamic power over the last 1 ms with gated cycles taken out, `oth` the draw of every
other part. Nothing is selected while a change is under way or the service is lost (R476). -/
def execDvfsTick (dyn oth : BitVec 13) (s : State) : Out :=
  let s1 := s.setPwr { s.ladderCeil with
    pin := if s.pwr.msN = 0 then s.pwr.pin else s.pwr.msSum / s.pwr.msN, msSum := 0, msN := 0 }
  let p := s1.pwr
  let fmin := s1.rdF .PWR_DVFS 0 0 4 0
  let top := min (s1.rdF .PWR_DVFS 0 0 20 16) p.ceil
  let n := pickStep p.cap dyn.toNat oth.toNat p.step (min fmin top) top
  if !s1.svcUp ∨ p.chg ≠ none ∨ p.halted ∨ p.tripped ∨ n = p.step then .next s1
  else .next (s1.setPwr { p with chg := some ⟨n, p.step, dyn.toNat, oth.toNat⟩ })

/-- Lowest level at which the prediction for a new step lies within the cap, 16 when none (R480). -/
def releaseLevel (cap : Nat) (c : StepChg) : Nat :=
  ((List.range 17).find? fun l =>
    decide (16 * c.oth * stepPow c.from_ + c.dyn * stepPow c.to_ * (16 - l) ≤ 16 * cap * stepPow c.from_)).getD 16

/-- STEP_CHANGE_COMPLETE (R474, R476, R480): the step is reached, voltage included, whatever core 1 does; the throttle falls
at once to the lowest level whose prediction fits. -/
def execStepChangeComplete (s : State) : Out :=
  match s.pwr.chg with
  | none => .next s
  | some c =>
    let p := s.pwr
    let l := max p.least (min p.thr (releaseLevel p.cap c))
    .next (s.setPwr { p with chg := none, step := c.to_, thr := if s.svcUp then l else p.thr })

/-- PCAP_CHANGE (R482): a value of the pins has been stable for 1 µs; the next sample takes it. -/
def execPcapChange (level : Fin 8) (s : State) : Out := .next (s.setPwr { s.pwr with pcap := level })

/-! ### The tray manager's heartbeat -/

/-- A write to PWR_HB (R486). -/
def State.heartbeat (s : State) : State :=
  if s.pwr.orphan then (s.setPwr { s.pwr with orphan := false }).pwrEvent 0 false else s

/-- ORPHANED (R486): 1 s after Ready or the last heartbeat with none. -/
def execOrphaned (s : State) : Out :=
  if !s.isReady ∨ s.pwr.orphan ∨ s.loft.off ∨ s.pwr.tripped then .next s
  else .next (((s.setPwr { s.pwr with orphan := true }).raise (errRec 0x0D05 sevTransient 12 0 0)).pwrEvent 0 true)

/-! ### Input voltage -/

/-- The optics of a granary port go dark: its outstanding requests end. -/
def State.grnDark (s : State) (p : Nat) : State :=
  let x := s.gport p
  if s.gstate p = 5 then s
  else (((s.setGport p GrnPort.reset).inc .GRN_TAG_FREE p 0 (x.out.length + x.quar.length)).gcount p).setGstate p 0

/-- Optical engines go dark: every fabric port to DARK, and every granary port. -/
def State.opticsDark (s : State) (cause : Nat) : State :=
  (List.range 4).foldl (fun a p => a.grnDark p) ((List.range 24).foldl (fun a p => a.hayDark p cause) s)

/-- The orderly halt (R488). Its FATAL record is appended like any other. -/
def State.powerHalt (s : State) : State :=
  if s.pwr.halted ∨ s.pwr.tripped then s
  else
    let s1 := s.setPwr { s.pwr with halted := true, thr := 16 }
    let s2 := (List.range 16).foldl (fun a p => a.abortAll p 0x0D02) s1
    ((s2.hopEnd 0x0D02).opticsDark 1).raise (errRec 0x0D02 sevFatal 12 0 0)

/-- Sag begins or ends (R487). -/
def State.setSag (s : State) (on : Bool) : State :=
  let s1 := (s.setPwr { s.pwr with sag := on, sagGood := 0 }).pwrEvent 1 on
  if on then s1.raise (errRec 0x0D04 sevTransient 12 0 0) else s1

/-- A sensor's stored value: saturated to its range, with OOR when it lay outside (R565). -/
def sensWord (lo hi v : Int) : Word :=
  let x := max lo (min hi v)
  setFld (setFld (BitVec.ofInt 64 x &&& 0xFFFFFFFF) 62 62 (decide (v < lo ∨ hi < v)).toNat) 63 63 1

/-- INPUT_VOLTAGE_AVERAGE (R487, R488): one 10 µs average with the factory calibration alone; item 3's offset lowers it for
every test but the one above 60 V. -/
def execInputVoltageAverage (mv : BitVec 17) (s : State) : Out :=
  if s.loft.off then .next s
  else
    let raw := mv.toNat
    let cal := ((raw : Int) + s.calOff 3).toNat
    let s1 := (s.setLoft { s.loft with mv := raw }).wr .LOFT_SENS 0 0 (sensWord 0 80000 cal)
    let p := s1.pwr
    let lo := if cal < 38000 then p.lowN + 1 else 0
    let hi := if 60000 < raw then p.highN + 1 else 0
    let good := if 45000 ≤ cal then p.sagGood + 1 else 0
    let s2 := s1.setPwr { p with lowN := min lo 100, highN := min hi 100, sagGood := if p.sag then good else 0 }
    let s3 := if !p.sag ∧ cal < 44000 then s2.setSag true else if p.sag ∧ good = 1000 then s2.setSag false else s2
    .next (if lo = 100 ∨ hi = 100 then s3.powerHalt else s3)

/-! ### Cooling -/

/-- COOLANT_HOT and COOLANT_FLOW_LOW (R489): the condition has lasted 1 s. -/
def execCoolantHot (s : State) : Out :=
  .next (if s.loft.off ∨ s.pwr.tripped then s else s.raise (errRec 0x0D07 sevTransient 12 0 0))
def execCoolantFlowLow (s : State) : Out :=
  .next (if s.loft.off ∨ s.pwr.tripped then s else s.raise (errRec 0x0D06 sevTransient 12 0 0))

/-- Highest of the valid readings among sensors, in 0.1 degrees + 1,000; 0 with none. -/
def State.maxSens (s : State) (l : List Nat) : Nat :=
  l.foldl (fun m i =>
    let w := s.rd .LOFT_SENS i 0
    if bit w 63 then max m (sfld w 31 0 + 1000).toNat else m) 0

/-- Highest junction reading, and the value the ladder acts on: silo readings join it 15 degrees higher (R490, R491). -/
def State.tjMax (s : State) : Nat := s.maxSens ((List.range 72).map (128 + ·))
def State.ladderTemp (s : State) : Nat :=
  let k := s.maxSens ((List.range 8).map (200 + ·))
  max s.tjMax (if k = 0 then 0 else k + 150)

/-- The ladder step at temperature `v` with threshold `t`, both in 0.1 degrees + 1,000, from step `cur` (Table 15.3). -/
def ladderStep (cur v t : Nat) : Nat :=
  let at_ := fun (k enter leave : Nat) => decide (t + enter ≤ v) || (decide (k ≤ cur) && decide (t + leave ≤ v + 30))
  if at_ 3 100 100 then 3 else if at_ 2 50 50 then 2 else if at_ 1 0 0 then 1 else 0

/-- THERMAL_LADDER_EVAL (R490): every 100 µs, from the calibrated readings. -/
def execThermalLadderEval (s : State) : Out :=
  let p := s.pwr
  if s.loft.off ∨ p.tripped then .next s
  else
    let v := s.ladderTemp
    let n := ladderStep p.ladder v (s.rdF .PWR_THERM 0 0 7 0 * 10 + 1000)
    let s1 := s.setHold { p with ladder := n, tj := v }
    let s2 := s1.setPwr { s1.pwr with thr := max s1.pwr.least s1.pwr.thr }
    .next (if n = 3 ∧ p.ladder < 3 then s2.raise (errRec 0x0D03 sevTransient 12 0 0) else s2)

/-! ### Deep idle -/

/-- A write to PWR_IDLE (R494, R495, Table 15.9). -/
def State.idleWrite (s : State) (v : Word) : State :=
  match fld v 1 0 with
  | 0 => s.wake
  | 2 =>
    if s.pwr.idle = 0 ∧ s.isIdle then
      (((s.setPwr { s.pwr with idle := 2 }).wrF .PWR_IDLE 0 0 1 0 2).opticsDark 1).pwrEvent 4 true
    else s
  | _ => s

/-- DEEP_IDLE_READY (R495). -/
def execDeepIdleReady (s : State) : Out := .next (if s.pwr.idle = 3 then s.setPwr { s.pwr with idle := 0 } else s)

/-- PWR_STATUS (Table 15.9). -/
def State.pwrStatus (s : State) : Word :=
  let p := s.pwr
  BitVec.ofNat 64 (p.cap * 2 ^ 48 + min 65535 p.pin * 2 ^ 32 + min 255 ((s.tjMax - 1000) / 10) * 2 ^ 24 + p.thr * 2 ^ 16 +
    p.ladder * 2 ^ 12 + p.step * 2 ^ 7 + s.svcLost.toNat * 2 ^ 6 + (decide (p.ladder = 3)).toNat * 2 ^ 5 +
    p.floor.toNat * 2 ^ 4 + p.sag.toNat * 2 ^ 3 + p.orphan.toNat * 2 ^ 2 +
    (if p.idle ≠ 0 then p.idle else s.isIdle.toNat))

end Sys2Proof.Machine
end

