-- ==== Sys2Proof/Machine/Clock.lean ====
section
/-!
DEFINITION. What happens at every tick of REF: the time counter advances (R465) and the cycle counters that run with it count the
cycles of their clocks that lie in the tick (R214, chapter 07). A tick is 6.4 ns (Table 01.5).
-/
namespace Sys2Proof.Machine
open Sys2Proof

/-- Cycles of a clock of `mhz` MHz in the tick numbered `r`: each has 64 x mhz / 10,000 on average, and a cycle counts in the tick in
which it ends. -/
def cyclesIn (mhz r : Nat) : Nat := (r + 1) * 64 * mhz / 10000 - r * 64 * mhz / 10000

/-- The run cycles of the plots with a configuration (R214, Table 06.12): array cycles, gated ones too (R481). -/
def State.countRun (s : State) (n : Nat) : State :=
  (List.range 16).foldl (fun a p => if s.plotConfigured p then a.inc .SEED_PLOT_RUNCYC p 0 n else a) s

/-- Whether a core is halted, and whether it waits (Table 07.14). -/
def CoreState.off (k : CoreState) : Bool := decide (k = .halted ∨ k = .doubleTrap)
def CoreState.waits (k : CoreState) : Bool := decide (k = .wfe ∨ k = .await ∨ k = .enqueue)

/-- The HUB cycles of the cores that are not halted, and of those that wait. -/
def State.countCores (s : State) (n : Nat) : State :=
  (s.cores.map (·.1)).foldl (fun a c =>
    let k := (s.core c).state
    let a1 := if k.off then a else a.inc .BND_CYCLES c 0 n
    if k.waits then a1.inc .BND_WAITCYC c 0 n else a1) s

/-- One tick with no command. -/
def State.tick (s : State) : State :=
  (s.refTick.countRun (cyclesIn (stepMhz s.pwr.step) s.hay.ref)).countCores (cyclesIn 2000 s.hay.ref)

end Sys2Proof.Machine
end

