-- ==== Sys2Proof/Machine/Chaff.lean ====
section
/-!
DEFINITION. The chaff (chapter 16): the append point and the error ring (R510 to R514), what a FATAL record does (R509), the
self-test of threshers (R503), the fence map's persistence (R516, R517), bin scrub (R518) and the ledgers (R519, R520).
-/
namespace Sys2Proof.Machine
open Sys2Proof

def State.setChf (s : State) (c : ChfSt) : State := { s with chf := c }

/-- An error record's 64 bytes (Table 16.3). -/
def ErrRec.toBytes (e : ErrRec) : List Byte :=
  let b := natToBytes 8 e.seq ++ natToBytes 8 e.time ++ natToBytes 2 e.code ++ natToBytes 1 e.sev ++ natToBytes 1 e.src ++
    natToBytes 4 e.inst ++ natToBytes 1 e.strct ++ natToBytes 1 e.flags ++ natToBytes 1 e.ctx ++ natToBytes 1 e.cfgEpoch ++
    natToBytes 2 e.supp ++ natToBytes 2 e.fence ++ natToBytes 8 e.addr ++ natToBytes 8 e.detail0 ++ natToBytes 8 e.detail1 ++
    natToBytes 4 0
  b ++ natToBytes 4 (crc32 b).toNat

/-! ### The ring -/

/-- CHF_RING_CFG: enabled, records, address of the ring. -/
def State.ringEnabled (s : State) : Bool := bit (s.rd .CHF_RING_CFG 0 0) 63
def State.ringRecs (s : State) : Nat := 2 ^ s.rdF .CHF_RING_CFG 0 0 36 32
def State.ringAddr (s : State) : Nat := s.rdF .CHF_RING_CFG 0 0 23 0 * 65536

/-- Count a dropped record (R511). -/
def State.lose (s : State) (e : ErrRec) : State :=
  if e.sev < sevLasting then s.inc .CHF_LOST_LOW 0 0 1
  else (s.inc .CHF_LOST_HIGH 0 0 1).wrF .CHF_STATUS 0 0 60 60 1

/-- A record enters the ring (R511). Its last 64 free entries are kept for LASTING and FATAL records. -/
def State.ringPut (s : State) (e : ErrRec) : State :=
  let t := (s.rd .CHF_RING_TAIL 0 0).toNat
  let used := (s.rd .CHF_RING_TAIL 0 0 - s.rd .CHF_RING_HEAD 0 0).toNat
  let free := s.ringRecs - 1 - used
  if free = 0 ∨ (e.sev < sevLasting ∧ free ≤ 64) then s.lose e
  else (s.writeSilo (s.ringAddr + t % s.ringRecs * 64) e.toBytes).inc .CHF_RING_TAIL 0 0 1

/-- A record the append point has numbered goes to the ring or, until EN is set, to the store of 256 (R511). -/
def State.keepRec (s : State) (e : ErrRec) : State :=
  if s.ringEnabled then s.ringPut e
  else if s.chf.store.length < 256 then s.setChf { s.chf with store := s.chf.store ++ [e] }
  else s.lose e

/-- The records of the ring not yet consumed, or of the store, as bytes (R568). -/
def State.ringDump (s : State) : List (List Byte) :=
  if s.ringEnabled then
    let t := (s.rd .CHF_RING_TAIL 0 0).toNat
    let used := (s.rd .CHF_RING_TAIL 0 0 - s.rd .CHF_RING_HEAD 0 0).toNat
    let n := min used 16384
    (List.range n).map fun k => s.load .silo (s.ringAddr + (t - n + k) % s.ringRecs * 64) 64
  else s.chf.store.map ErrRec.toBytes

/-- Messages of the chaff (R514). -/
def State.chfSend (s : State) : State :=
  (s.setChf { s.chf with unsig := 0, unsigAt := 0 }).sendMsix 0 (s.rdF .CHF_CTL 0 0 58 48)

def State.chfSignal (s : State) (sev : Nat) : State :=
  if s.rdF .CHF_CTL 0 0 59 59 = 0 then s
  else if sevLasting ≤ sev then s.chfSend
  else
    let n := s.chf.unsig + 1
    let s1 := s.setChf { s.chf with unsig := n, unsigAt := if s.chf.unsig = 0 then s.time else s.chf.unsigAt }
    if 16 ≤ n then s1.chfSend else s1

/-! ### FATAL -/

/-- Ring entries in flight complete with FATAL (R509 step 3). -/
def State.ringsFatal (s : State) (k : RingKind) (n : Nat) : State :=
  (List.range n).foldl (fun a q => ((a.ring k q).ents).foldl (fun b e => b.ringDone k q e.id stFatal 0) a) s

/-- Waiting COMMITs complete with FATAL; pins, pages, references and reservations stay (R509 step 3). -/
def State.commitsFatal (s : State) : State :=
  (s.gln.models.map (·.1)).foldl (fun a m =>
    match (a.gmodel m).step.commit with
    | some (c, t) => (a.complete ⟨c, t⟩ 0 stFatal none).setGStep m { (a.gmodel m).step with commit := none }
    | none => a) s

/-- The actions of R509, steps 1 to 4. -/
def State.fatalActs (s : State) (src : Nat) : State :=
  let s1 := (List.range 16).foldl (fun a p => (a.abortAll p stFatal).discardShadows p) s
  let s2 := ((s1.hopEnd stFatal).ringsFatal .pm 64).ringsFatal .win 16
  let s3 := s2.setWin { s2.win with pages := [], loads := [] }
  let s4 := s3.rdl.jobs.foldl (fun a j => a.jobEnd j stFatal) s3
  let s5 := s4.commitsFatal
  if src = 11 then (List.range 24).foldl (fun a p => if a.hstate p = 8 then a else a.hayDown p (a.rdF .HAY_PORT_STATUS p 0 23 16)) s5 else s5

/-- The append of a FATAL record (R509): FATAL_SEEN, LAST_FATAL and PROMISE change in this step; POWER_HALT and THERMTRIP
have their own actions (R488, R492). The loft then logs the whole ring. -/
def State.fatalAppend (s : State) (e : ErrRec) : State :=
  let s1 := ((s.wrF .CHF_STATUS 0 0 63 63 1).wrF .CHF_STATUS 0 0 62 62 0).wrF .CHF_STATUS 0 0 47 32 e.code
  let s2 := if e.code = 0x0D02 ∨ e.code = 0x0D08 then s1 else s1.fatalActs e.src
  s2.logAppend s2.ringDump

/-! ### The append point -/

/-- The source queue whose turn it is: the first at or after the pointer that holds a record (R180, R512). -/
def State.errSource (s : State) : Option Nat :=
  ((List.range 16).map fun k => (s.chf.ptr + k) % 16).find? fun n => decide (mget dNil s.chf.errq n ≠ [])

/-- Count a record by severity (R522). -/
def State.countSev (s : State) (sev : Nat) : State :=
  if sev = sevTransient then s.inc .CHF_TRANSIENT 0 0 1
  else if sev = sevLasting then s.inc .CHF_LASTING 0 0 1
  else if sev = sevFatal then s.inc .CHF_FATAL 0 0 1
  else s

/-- The append point takes record `e` of source `n` (R510 to R512, R514, R568, R563). -/
def State.takeRec (s : State) (n : Nat) (e : ErrRec) (rest : List ErrRec) : State :=
  let c := s.chf
  let r := { e with seq := c.seqNo, supp := mget dNat c.supp n }
  let s1 := s.setChf { c with
    errq := mput dNil c.errq n rest, supp := mput dNat c.supp n 0, ptr := (n + 1) % 16, seqNo := (c.seqNo + 1) % 2 ^ 64 }
  let s2 := (s1.countSev r.sev).keepRec r
  let s3 := if sevLasting ≤ r.sev then
      (s2.logAppend [r.toBytes]).platEvent ⟨0, r.code, true, decide (r.sev = sevFatal), r.toBytes⟩
    else s2
  let s4 := if r.sev = sevFatal then s3.fatalAppend r else s3
  s4.chfSignal r.sev

/-- ERROR_RECORD_APPEND (R512). -/
def execErrorRecordAppend (s : State) : Out :=
  match s.errSource with
  | none => .next s
  | some n =>
    match mget dNil s.chf.errq n with
    | [] => .next s
    | e :: rest => .next (s.takeRec n e rest)

/-- ERROR_INTERRUPT_TIMER (R514): MOD_US after the oldest unsignalled record. -/
def execErrorInterruptTimer (s : State) : Out :=
  .next (if s.chf.unsig = 0 ∨ s.rdF .CHF_CTL 0 0 59 59 = 0 then s else s.chfSend)

/-- A write to CHF_RING_CFG (R511, Table 16.8): setting EN moves the store into the ring. -/
def State.ringCfgWrite (s : State) (v : Word) : State :=
  if s.ringEnabled ∨ fld v 36 32 < 10 ∨ 20 < fld v 36 32 then s
  else
    let s1 := s.wr .CHF_RING_CFG 0 0 (v &&& Reg.mask .CHF_RING_CFG [.RW])
    if bit v 63 then s.chf.store.foldl (fun a e => a.ringPut e) (s1.setChf { s1.chf with store := [] }) else s1

/-! ### Threshers -/

/-- UNIT_SELF_TEST (R503): a thresher detects a parity error and its task aborts with UNIT_FAULT; given again once the plot
has drained, the chaff starts the unit's self-test. -/
def execUnitSelfTest (unit : Fin 16896) (s : State) : Out :=
  let u := unit.val
  let inst := cuInst u
  let mark := fun (t : State) n => t.setChf { t.chf with tests := mput dNat t.chf.tests u n }
  let busy := fun (t : State) => match t.plotOf inst with
    | some p => (t.plot p).runs.any fun r => decide (r.status ≠ 0)
    | none => false
  match mget dNat s.chf.tests u with
  | 0 =>
    if (s.tile inst).fenced then .next s
    else
      let s1 := match s.plotOf inst with
        | some p => s.abortRun p (s.tile inst).epoch 0x0E01
        | none => s
      .next (mark s1 (if busy s1 then 1 else 2))
  | 1 => .next (if busy s then s else mark s 2)
  | _ => .next s

/-- SELF_TEST_END (R503): a unit that passes stays in use; one that fails is fenced and a remap becomes pending. -/
def execSelfTestEnd (unit : Fin 16896) (pass : Bool) (s : State) : Out :=
  let u := unit.val
  if mget dNat s.chf.tests u ≠ 2 then .next s
  else
    let s1 := s.setChf { s.chf with tests := mput dNat s.chf.tests u 0 }
    .next (if pass then s1.raise (errRec 0x0E01 sevTransient 0 u 2) else s1.fenceTile (cuInst u) (errRec 0x0E01 sevLasting 0 u 2))

/-! ### The fence map -/

/-- FENCE_PERSIST (R516): the oldest new or changed entry reaches the persistent store. -/
def execFencePersist (s : State) : Out :=
  match s.chf.unsaved with
  | [] => .next s
  | i :: rest =>
    let l := s.loft
    let l1 := { l with
      fstoreA := mput dWord l.fstoreA i (s.rd .CHF_FMAP_A i 0), fstoreB := mput dWord l.fstoreB i (s.rd .CHF_FMAP_B i 0)
      fstoreN := max l.fstoreN (i + 1) }
    .next ((s.setLoft l1).setChf { s.chf with unsaved := rest })

/-- Kinds whose entries can be cleared (R517). -/
def clearable (k : Nat) : Bool := [1, 2, 4, 5, 8, 9].contains k

/-- A write of PENDING_CLEAR (R517): the new state and its status. -/
def State.pendClear (s : State) (i : Nat) (v : Word) : State × Nat :=
  if !bit v 62 ∨ s.fences ≤ i then (s, stOK)
  else if clearable (s.fence i).1 then
    ((s.wrF .CHF_FMAP_A i 0 62 62 1).setChf { s.chf with unsaved := s.chf.unsaved ++ [i] }, stOK)
  else (s, stProt)

/-! ### Bin scrub -/

/-- BIN_SCRUB_READ (R107, R505, R518): patrol scrub reads a granule of a bin, only in a bank cycle for which no other class asks. A
detected error is repeated once like any read (R498). -/
def execBinScrubRead (unit : Fin 16896) (addr : Fin 262144) (ecc : Ecc) (rivals : List BankReq) (s : State) : Out :=
  let u := unit.val
  if rivals.any fun r => decide (r ≠ .scrub) then .next s
  else
  let b := addr.val / 4 * 4
  let e := fun sev => { (errRec 0x0201 sev 1 u 1).withAddr (s.binAddr u b) with
    detail0 := binDetail b (b / 4 % 16) (mget dNat (s.mu u).rowMap (bankOf b * 256 + rowOf b)) }
  match ecc with
  | .clean => .next s
  | .corrected _ => .next (s.binCorrected u b (b / 4 % 16))
  | .transient _ => .next (s.raise (e sevTransient))
  | .lasting _ => .next (s.spareRow u b (some (b / 4 % 16)) { e sevLasting with flags := (e sevLasting).flags ||| 8 })

/-- BIN_SCRUB_PASS_OVERRUN (R518). -/
def execBinScrubPassOverrun (unit : Fin 16896) (s : State) : Out := .next (s.raise (errRec 0 sevTransient 13 unit 1))

/-! ### Ledgers -/

/-- Live requests (R376). -/
def State.liveReqs (s : State) : List Req := (s.gln.reqs.map (·.2)).filter fun r => decide (1 ≤ r.st ∧ r.st ≤ 4)
/-- Requests admitted and not ended. -/
def State.heldReqs (s : State) : List Req := (s.gln.reqs.map (·.2)).filter fun r => decide (2 ≤ r.st ∧ r.st ≤ 4)

/-- A balance at its quiescent point: the two sides, equal when it holds; none when the point is not quiescent. -/
def State.creditLedger (s : State) (i : Nat) : Option (Nat × Nat) :=
  if i < 33792 then
    let t := s.tile i
    if t.flight.all (fun x => decide (x.2 = [])) && t.owed.all (fun x => decide (x.2 = 0)) && t.credBack.all (fun x => decide (x.2 = 0)) then
      let bad := (List.range 18).find? fun o => decide (s.credits i o ≠ s.rdF .LNK_CRED i o 13 8)
      some (bad.elim (0, 0) fun o => (s.credits i o, s.rdF .LNK_CRED i o 13 8))
    else none
  else if i < 33816 then
    let x := s.hport (i - 33792)
    if s.hstate (i - 33792) = 6 ∧ x.queues.all (fun q => decide (q.2 = [])) ∧ x.replay = [] ∧ x.rxq = [] ∧ x.part = [] ∧ x.open_ = [] then
      let bad := (List.range 9).find? fun q => decide (mget dNat x.cr (q + 1) ≠ mget dNat x.adv (q + 1))
      some (bad.elim (0, 0) fun q => (mget dNat x.cr (q + 1), mget dNat x.adv (q + 1)))
    else none
  else if i < 33820 then
    let p := i - 33816
    let x := s.gport p
    if s.gstate p = 3 ∧ x.out = [] ∧ x.again = [] ∧ x.replay = [] ∧ x.rx = [] ∧ x.quar = [] then
      if x.msgCr ≠ x.advMsg then some (x.msgCr, x.advMsg)
      else if x.dataCr ≠ x.advData then some (x.dataCr, x.advData)
      else some ((s.rd .GRN_TAG_ALLOC p 0).toNat, (s.rd .GRN_TAG_FREE p 0).toNat)
    else none
  else none

/-- Pins and adapter references against live requests (R341): the first set or slot that differs. -/
def State.pinLedger (s : State) : Nat × Nat :=
  let ws := (List.range 512).map fun w => (s.rdF .WIN_WS_A w 0 31 0, (s.heldReqs.filter fun r => decide (r.ws = w)).length)
  let ad := (List.range 4096).map fun a => (s.rdF .WIN_AD_A a 0 31 0, (s.heldReqs.filter fun r => decide (r.ad = some a)).length)
  ((ws ++ ad).find? fun x => decide (x.1 ≠ x.2)).getD (0, 0)

def State.ledger (s : State) (led i : Nat) : Option (Nat × Nat) :=
  match led with
  | 0 => s.creditLedger i
  | 1 =>
    if i < 16896 then
      some ((s.rd .MU_SLOT_FILLS i 0).toNat,
        (s.rd .MU_SLOT_DRAINS i 0).toNat + (s.rd .MU_SLOT_CLEARS i 0).toNat + ((s.mu i).tags.filter (·.2)).length)
    else none
  | 2 =>
    if s.gln.reqs.any fun r => r.2.copying then none
    else if s.pgReq + s.pgPfx + s.pgFree ≠ s.poolSize then some (s.pgReq + s.pgPfx + s.pgFree, s.poolSize)
    else if s.pgFree < s.pgRsv then some (s.pgFree, s.pgRsv)
    else some s.pinLedger
  | 3 =>
    if i < 16384 then
      if (s.qp i).ents.any fun e => decide (2 ≤ e.st) then none
      else some ((s.rd .HOP_QP_FETCHED i 0).toNat, (s.rd .HOP_QP_CPL_WRITTEN i 0).toNat + (s.rd .HOP_QP_CPL_DISCARD i 0).toNat)
    else if s.gln.reqs.any fun r => r.2.copying then none
    else some ((s.rd .GLN_RQ_ACCEPT 0 0).toNat, (s.rd .GLN_RQ_END 0 0).toNat + s.liveReqs.length)
  | 4 =>
    let r := fun (x : Reg) => (s.rd x i 0).toNat
    if 16 ≤ i then none
    else if r .RDL_LED_DISP + r .RDL_LED_OVF ≠ r .RDL_LED_ASSIGN then some (r .RDL_LED_DISP + r .RDL_LED_OVF, r .RDL_LED_ASSIGN)
    else some (r .RDL_LED_RET, r .RDL_LED_DISP)
  | _ =>
    let r := fun (x : Reg) => (s.rd x i 0).toNat
    if i < 16896 then
      if (List.range 4).any fun g => decide ((s.gen i g).reqs ≠ []) then none
      else some (r .MU_FETCH_REQ_BYTES, r .MU_FETCH_LAND_BYTES + r .MU_DISCARD_BYTES + r .MU_FETCH_FAIL_BYTES)
    else if s.win.pages ≠ [] then none
    else
      let w := fun (x : Reg) => (s.rd x 0 0).toNat
      if w .WIN_IN_PAGES ≠ w .WIN_IN_OK + w .WIN_IN_FAIL then some (w .WIN_IN_PAGES, w .WIN_IN_OK + w .WIN_IN_FAIL)
      else some (w .WIN_OUT_PAGES, w .WIN_OUT_OK + w .WIN_OUT_FAIL)

/-- LEDGER_CHECK (R519, R520): the balance of one instance, evaluated when it is at its quiescent point. Instances of ledger
0 are tiles, then fabric ports, then granary ports; of 3, queue pairs, then the gleaner; of 5, bins, then the winnower. -/
def execLedgerCheck (led : Fin 6) (i : Fin 65536) (s : State) : Out :=
  match s.ledger led i with
  | none => .next s
  | some (a, b) =>
    let s1 := s.inc .CHF_LED_CHECKS led 0 1
    .next (if a = b then s1
      else (s1.inc .CHF_LED_FAILS led 0 1).raise { errRec 0x0E02 sevFatal 13 i 0 with
        detail0 := led.val, detail1 := a % 2 ^ 32 * 2 ^ 32 + b % 2 ^ 32 })

end Sys2Proof.Machine
end

