-- ==== Sys2Proof/Machine/Hasp.lean ====
section
/-!
DEFINITION. The hasp (chapter 17): the protection tables and the change rule (R527 to R532), key commands (R543 to R547),
debug unlock (R548, R549), attestation (R538 to R542).
-/
namespace Sys2Proof.Machine
open Sys2Proof

def State.setHasp (s : State) (h : HaspSt) : State := { s with hasp := h }

/-- Status of the last failed boot check or key command (Table 17.7). -/
def State.setLast (s : State) (status : Nat) : State := s.wrF .HSP_STATUS 0 0 15 0 status

/-! ### Protection tables -/

/-- Work of a slice context in flight (R446): riddle jobs, packets of its SLICE_ID queued here, remote requests of plots
that carry it. -/
def State.ctxBusy (s : State) (x : Nat) : Bool :=
  let sl := s.rdF .HAY_CTX x 0 15 0
  let mine := fun (k : Pkt) => decide (k.slice = sl)
  decide (s.ctxJobs x ≠ []) || s.hay.orig.any mine || s.hay.inbox.any mine || s.hay.msgs.any (fun m => decide (m.ctx = x)) ||
    s.hay.ports.any (fun p => p.2.queues.any fun q => q.2.any mine) ||
    s.hay.ctags.any (fun t => mine t.pkt) ||
    s.hay.tags.any (fun t => match s.plotOf (muInst t.unit) with
      | some p => decide (s.rdF .HSP_PLOT_A p 0 63 63 = 1 ∧ s.rdF .HSP_PLOT_A p 0 59 56 = x)
      | none => false)

/-- The cases of R452 in which enabling transit grant `g` as `v` is refused. -/
def State.grantBad (s : State) (g : Nat) (v : Word) : Bool :=
  let a := fld v 20 16
  let b := fld v 28 24
  let sl := fld v 47 32
  let others := (List.range 16).filter fun k => decide (k ≠ g) && bit (s.rd .HAY_TG k 0) 63
  let uses := fun k p => decide (s.rdF .HAY_TG k 0 20 16 = p ∨ s.rdF .HAY_TG k 0 28 24 = p)
  let sum := fun p => (others.filter (uses · p)).foldl (fun n k => n + s.rdF .HAY_TG k 0 53 48) (fld v 53 48)
  decide (a = b ∨ 23 < a ∨ 23 < b ∨ fld v 53 48 = 0 ∨ 32 < sum a ∨ 32 < sum b) ||
    (s.ctxOfSlice sl).isSome ||
    others.any fun k => decide (s.rdF .HAY_TG k 0 47 32 = sl) && (uses k a || uses k b)

/-- Empty a key slot: TYPE, USE, KEY_ID and the key (R543, R545, R547). -/
def State.emptySlot (s : State) (k : Nat) : State :=
  (s.setHasp { s.hasp with keys := mput dNil s.hasp.keys k [] }).wr .HSP_KSLOT_A k 0
    (s.rd .HSP_KSLOT_A k 0 &&& Reg.mask .HSP_KSLOT_A [.RW])

/-- Empty every slot that holds a key. -/
def State.emptySlots (s : State) : State := s.hasp.keys.foldl (fun a k => a.emptySlot k.1) s

/-- The staged word of a register, if there is one (R529). -/
def State.stagedAt (s : State) (r : Reg) (i j : Nat) : Option Word := mget dNone s.hasp.staged (r.key i j)
def State.setStaged (s : State) (r : Reg) (i j : Nat) (v : Option Word) : State :=
  s.setHasp { s.hasp with staged := mput dNone s.hasp.staged (r.key i j) v }

/-- Apply the staged B register with an A write that was accepted (R529); a refused A write discards it. -/
def State.applyB (s : State) (r : Reg) (i st : Nat) : State :=
  match s.stagedAt r i 0 with
  | none => s
  | some b => if st = stOK then (s.wr r i 0 b).setStaged r i 0 none else s.setStaged r i 0 none

/-- Every checker applies one protection-table write (R527): the new state and the write's status. `v` is the whole new
value of the register. -/
def State.protApply (s : State) (r : Reg) (i j : Nat) (v : Word) : State × Nat :=
  let v1 := v &&& Reg.mask r [.RW]
  match r with
  | .HOP_QP_OWNER => (s.qpOwner i v, stOK)
  | .SEED_PLOT_BOUNDS => if s.boundsBad i v then (s, stProt) else (s.boundsWrite i v, stOK)
  | .BND_CTX =>
    let second := bit v 15 && (List.range 64).any fun c =>
      decide (c ≠ i ∧ s.rdF .BND_CTX c 0 15 15 = 1 ∧ s.rdF .BND_CTX c 0 11 8 = fld v 11 8)
    if i < 4 ∨ second then (s, stProt) else (s.wr r i j v1, stOK)
  | .SILO_RGN_B => (s.setStaged r i j (some v1), stOK)
  | .SILO_RGN_A =>
    let st := if 10485759 < fld v 23 0 + fld v 47 24 then stProt else stOK
    ((if st = stOK then s.wr r i j v1 else s).applyB .SILO_RGN_B i st, st)
  | .GRN_EXTB => (s.setStaged r i j (some v1), stOK)
  | .GRN_EXTA =>
    let x := s.extentCfg i v
    (x.1.applyB .GRN_EXTB i x.2, x.2)
  | .SILO_PMQ_CFG => s.ringCfg .pm i v
  | .WIN_Q_CFG => s.ringCfg .win i v
  | .HAY_Q_CFG => s.ringCfg .hay i v
  | .HAY_PORT_EXPECT => (s.hayExpect i v, stOK)
  | .HAY_CTX =>
    let twice := bit v 63 && (List.range 16).any fun x => decide (x ≠ i) && decide (s.sliceOf x = some (fld v 15 0))
    if twice ∨ (v1 ≠ s.rd r i j ∧ s.ctxBusy i) then (s, stProt) else (s.wr r i j v1, stOK)
  | .HAY_TG => if bit v 63 ∧ s.grantBad i v then (s, stProt) else (s.wr r i j v1, stOK)
  | .HAY_MCG =>
    let up := fld v 57 53
    if (bit v 63 ∧ s.ctxOfSlice (fld v 47 32) = none) ∨ (up ≠ 31 ∧ !nbit (fld v 23 0) up) then (s, stOK)
    else (s.wr r i j v1, stOK)
  | .HAY_RT =>
    if (List.range 4).any fun k => decide (fld v (16 * k + 13) (16 * k + 12) = 3 ∨ 23 < fld v (16 * k + 4) (16 * k)) then (s, stOK)
    else
      match s.stagedAt r i j with
      | none => (s.setStaged r i j (some v1), stOK)
      | some _ => ((s.wr r i j v1).setStaged r i j none, stOK)
  | .HSP_PLOT_A => if s.sliceOf (fld v 59 56) = none then (s, stOK) else (s.wr r i j v1, stOK)
  | .HSP_KSLOT_A =>
    let old := s.rd r i j
    let w := v1 ||| (old &&& ~~~(Reg.mask r [.RW]))
    if fld v 55 39 ≠ fld old 55 39 then ((s.wr r i j w).emptySlot i, stOK) else (s.wr r i j w, stOK)
  | _ => (s.wr r i j v1, stOK)

/-- A protection-table write reaches the hasp (R530). -/
def State.protQueue (s : State) (r : Reg) (i j : Nat) (v m : Word) (by_ : Nat) : State :=
  s.setHasp { s.hasp with wrq := s.hasp.wrq ++ [⟨r.idx, i, j, v, m, by_⟩] }

/-- The value that a write of part of a register merges with: the one staged, or the one in force. -/
def State.protOld (s : State) (r : Reg) (i j : Nat) : Word := (s.stagedAt r i j).getD (s.rd r i j)

/-- The oldest write is applied by every checker (R527, R528, R530); its status goes to its requester. One that takes a
configured tile from a plot aborts the plot's task first and stays incomplete until the abort has drained (R202). -/
def State.protOne (s : State) : State :=
  match s.hasp.wrq with
  | [] => s
  | w :: rest =>
    let s1 := s.setHasp { s.hasp with wrq := rest }
    match Reg.all[w.reg]? with
    | none => s1
    | some r =>
      let v := (s1.protOld r w.i w.j &&& ~~~w.m) ||| (w.v &&& w.m)
      let p := s.abortAll w.i stProt
      if r = .SEED_PLOT_BOUNDS ∧ !s.boundsBad w.i v ∧ s.boundsHeld w.i v ∧ (p.plot w.i).runs ≠ [] then p
      else
        let x := s1.protApply r w.i w.j v
        { x.1 with rstat := x.2 }

def protAll : Nat → State → State
  | 0, s => s
  | n + 1, s => protAll n s.protOne

/-- A write carried to its completion: it and every earlier one is applied (R528, R530). -/
def State.protWrite (s : State) (r : Reg) (i j : Nat) (v m : Word) (by_ : Nat) : State :=
  let s1 := s.protQueue r i j v m by_
  protAll s1.hasp.wrq.length s1

/-- PROTECTION_WRITE_COMPLETE (R528). -/
def execProtectionWriteComplete (s : State) : Out := .next s.protOne

/-! ### Key commands -/

/-- Who issued a key command and where its block lies: a function, in its host window, or a core, in control SRAM (R544). -/
inductive KeyFrom where
  | func (f a : Nat)
  | core (c a : Nat)
deriving DecidableEq, Repr

/-- The block of a key command, or the status of the read that failed. -/
def State.keyBlock (s : State) (k : KeyFrom) : Except Nat (List Byte) :=
  match k with
  | .func f a => if inHost a then s.fetch (.func f) a 256 true else .error stProt
  | .core _ a => .ok (s.load .csram (a / 256 * 256) 256)

/-- STATUS of the block (Table 17.6). -/
def State.keyStatus (s : State) (k : KeyFrom) (status : Nat) : State :=
  match k with
  | .func f a =>
    match s.put (.func f) (a + 0xFE) (natToBytes 2 status) true with
    | .ok t => t
    | .error st => s.noteRefusal st 5 f (a + 0xFE)
  | .core _ a => s.store .csram (a / 256 * 256 + 0xFE) (natToBytes 2 status)

/-- Whether an issuer holds PL1 or above. -/
def State.keyPl1 (s : State) (k : KeyFrom) : Bool :=
  match k with
  | .func f _ => decide (f = 0)
  | .core c _ => decide (s.pl (.core (Fin.ofNat 64 c)) ≤ 1)

/-- Whether an issuer may name a slot (R543, R544). -/
def State.keyMine (s : State) (k : KeyFrom) (slot : Nat) : Bool :=
  let r := s.rd .HSP_KSLOT_A slot 0
  let own := match fld r 55 54, k with
    | 0, .core c _ => decide (c = fld r 53 47)
    | 2, .func f _ => decide (f = fld r 53 47)
    | 3, x => s.keyPl1 x
    | _, _ => false
  let ten := match k with
    | .func f _ => bit r 39 && decide (f = fld r 46 40)
    | .core _ _ => false
  own || ten

/-- A key command completes with a status; a failure is kept in LAST. -/
def State.keyDone (s : State) (k : KeyFrom) (status : Nat) : State :=
  (if status = stOK then s else s.setLast status).keyStatus k status

/-- The Unwrap private key (R538). -/
def State.unwrapKey (s : State) : Nat :=
  keyOfSeed (hkdf (List.replicate 32 0) s.hasp.cdi1 ("Unwrap".toUTF8.toList.map fun b => BitVec.ofNat 8 b.toNat) 48)

/-- The data key of an UNWRAP block, when EPUB is a valid point and the integrity check holds (R545). -/
def State.unwrapped (s : State) (b : List Byte) : Option (List Byte) :=
  match ecdh s.unwrapKey ((b.drop 0x08).take 64) with
  | none => none
  | some z =>
    let info := [0x46, 0x4C, 0x4B, 0x57] ++ natToBytes 8 Config.serial.toNat ++ (b.drop 2).take 2 ++ (b.drop 4).take 4
    kwUnwrap (hkdf (List.replicate 32 0) z info 32) ((b.drop 0x48).take 40)

/-- Fill a slot: TYPE, USE, KEY_ID and the key. -/
def State.fillSlot (s : State) (slot typ use id : Nat) (key : List Byte) : State :=
  let r := s.rd .HSP_KSLOT_A slot 0
  (s.setHasp { s.hasp with keys := mput dNil s.hasp.keys slot key }).wr .HSP_KSLOT_A slot 0
    (setFld (setFld (setFld r 63 62 typ) 61 59 use) 31 0 id)

/-- SVN and counter of a firmware header (Table 17.4). -/
def hdrSvn (h : List Byte) : Nat := le h 8 1
def hdrRbc (h : List Byte) : Nat := le h 9 1

/-- RB_COMMIT (R537): counter `c` rises to the SVN of a running image that names it. -/
def State.rbCommit (s : State) (k : KeyFrom) (c : Nat) : State :=
  if !s.keyPl1 k then s.keyDone k stProt
  else
    match s.pickFrom (((s.hasp.run.map (·.2)).filter fun h => decide (h ≠ [] ∧ hdrRbc h = c)).map hdrSvn) with
    | (none, _) => (s.freeStatus.2).keyDone k s.freeStatus.1
    | (some n, s1) =>
      (s1.setHasp { s1.hasp with rbc := mput dNat s1.hasp.rbc c (max (mget dNat s1.hasp.rbc c) (min n 64)) }).keyDone k stOK

/-- Run the key command in a block (Table 17.6); an operation the table does not list has no effect. -/
def State.keyRun (s : State) (k : KeyFrom) (b : List Byte) : State :=
  let op := le b 0 1
  let slot := le b 2 2 % 4096
  let id := le b 4 4
  let use := Nat.land (le b 1 1 % 8) (s.rdF .HSP_KSLOT_A slot 0 58 56)
  if op = 4 then s.rbCommit k (slot % 64)
  else if op = 0 ∨ 4 < op then s
  else if !s.keyMine k slot then s.keyDone k 0x0F03
  else if op = 1 then
    if s.hasp.nounwrap then s.keyDone k 0x0F05
    else
      match s.unwrapped b with
      | none => s.keyDone k 0x0F04
      | some key => (s.fillSlot slot 1 use id key).keyDone k stOK
  else if op = 2 then (s.fillSlot slot 2 (Nat.land use 4) id ((b.drop 8).take 64)).keyDone k stOK
  else (s.emptySlot slot).keyDone k stOK

/-- A key command that has reached the hasp. A block that cannot be read is refused under R23 and nothing is written. -/
def State.keyCmd (s : State) (k : KeyFrom) (op : Option Nat) : State :=
  match s.keyBlock k with
  | .error st => match k with
    | .func f a => s.noteRefusal st 5 f a
    | .core c a => s.noteRefusal st 4 c a
  | .ok b => if op.isSome ∧ op ≠ some (le b 0 1) then s else s.keyRun k b

/-- Whether the hasp firmware runs (HSP_STATUS.STAGE 1 to 3). -/
def State.haspUp (s : State) : Bool :=
  decide (1 ≤ s.rdF .HSP_STATUS 0 0 58 56 ∧ s.rdF .HSP_STATUS 0 0 58 56 ≤ 3)

/-- The oldest SEND to firmware of a queue pair. -/
def State.fwSend (s : State) (q : Nat) : Option QEnt :=
  match s.entOf q 0x20 with
  | some e => if e.arg 0 % 256 = 0x80 then some e else none
  | none => none

/-- The rows of R544 and R545: the command, with this operation, that the oldest SEND to firmware of a queue pair names, or
that a core has written to HSP_KCMD. The SEND completes when firmware takes it. -/
def State.keyRow (s : State) (src : KeySrc) (op : Nat) : State :=
  if !s.haspUp then s
  else
    match src with
    | .core c off => s.keyCmd (.core c off.toNat) (some op)
    | .queue q =>
      match s.fwSend q with
      | none => s
      | some e =>
        let k := KeyFrom.func e.fn (e.arg 1)
        match s.keyBlock k with
        | .ok b => if le b 0 1 = op then (s.keyRun k b).qpFinish q e.id stOK 0 else s
        | .error st => (s.noteRefusal st 5 e.fn (e.arg 1)).qpFinish q e.id stOK 0

/-- UNWRAP (R545). -/
def execUnwrap (src : KeySrc) (s : State) : Out := .next (s.keyRow src 1)
/-- LOAD_PUB (R545). -/
def execLoadPub (src : KeySrc) (s : State) : Out := .next (s.keyRow src 2)
/-- CLEAR (R545). -/
def execClear (src : KeySrc) (s : State) : Out := .next (s.keyRow src 3)
/-- RB_COMMIT (R537). -/
def execRbCommit (src : KeySrc) (s : State) : Out := .next (s.keyRow src 4)

/-! ### Debug unlock -/

/-- A read of HSP_DBG_CHAL0 draws a fresh nonce (R548). -/
def State.challenge (s : State) : State :=
  let n := (List.range 32).map (Config.freeByte s.free)
  let s1 := ({ s with free := s.free + 1 }).setHasp { s.hasp with nonce := n }
  (List.range 4).foldl (fun a k => a.wr .HSP_DBG_CHAL k 0 (BitVec.ofNat 64 (le n (8 * k) 8))) s1

/-- Whether a signature opens a debug level (R548). -/
def State.unlockOk (s : State) (level : Nat) (sig : List Byte) : Bool :=
  decide ((level = 1 ∨ level = 2) ∧ s.hasp.nonce ≠ [] ∧ s.rdF .HSP_STATUS 0 0 45 44 < 3 ∧ sha256 Config.dbgPub = Config.dbgKeyHash) &&
    ecdsaVerify Config.dbgPub (sha256 (s.hasp.nonce ++ natToBytes 8 Config.serial.toNat ++ natToBytes 1 level)) sig

/-- The response exchange (R548, R549): the new state and its status. -/
def State.unlock (s : State) (level : Nat) (sig : List Byte) : State × Nat :=
  if s.unlockOk level sig then
    let s1 := s.emptySlots
    ((s1.setHasp { s1.hasp with nounwrap := true }).wrF .HSP_STATUS 0 0 51 50 level, stOK)
  else (s.wrF .HSP_STATUS 0 0 45 44 (min 3 (s.rdF .HSP_STATUS 0 0 45 44 + 1)), 0x0F05)

/-- The level and the signature held by HSP_DBG_RESP0 to 8. -/
def State.unlockRegs (s : State) : State × Nat :=
  s.unlock (fld (mget dWord s.hasp.resp 0) 1 0) ((List.range 8).flatMap fun k => natToBytes 8 (mget dWord s.hasp.resp (k + 1)).toNat)

/-! ### Identity and attestation -/

def ascii (t : String) : List Byte := t.toUTF8.toList.map fun b => BitVec.ofNat 8 b.toNat

/-- The registers of Table 17.2 in order, each entry as it reads (measurement 9). -/
def State.tablesBytes (s : State) : List Byte :=
  let each := fun (r : Reg) => (List.range (r.info.n1)).flatMap fun i => (List.range r.info.n2).flatMap fun j => natToBytes 8 (s.rd r i j).toNat
  let pair := fun (a b : Reg) => (List.range (a.info.n1)).flatMap fun i => natToBytes 8 (s.rd a i 0).toNat ++ natToBytes 8 (s.rd b i 0).toNat
  each .HOP_QP_OWNER ++ each .HOP_FN_HMBASE ++ each .HOP_FN_HMSIZE ++ each .HOP_FN_ARB ++ each .SEED_PLOT_BOUNDS ++
    each .BND_CTX ++ each .BND_SRAMWIN ++ pair .SILO_RGN_A .SILO_RGN_B ++ pair .GRN_EXTA .GRN_EXTB ++ each .SILO_PMQ_CFG ++
    each .WIN_MODEL_FN0 ++ each .WIN_MODEL_FN1 ++ each .WIN_Q_CFG ++ each .HAY_CTX ++ each .HAY_RT ++ each .HAY_TG ++
    each .HAY_MCG ++ each .HAY_PORT_EXPECT ++ each .HAY_Q_CFG ++ each .HSP_PLOT_A ++ each .HSP_KSLOT_A

/-- Measurement `i` (R541, Table 17.5): 1 to 7 fixed at boot, 8 to 10 computed now. -/
def State.measurement (s : State) (i : Nat) : List Byte :=
  if i = 8 then
    sha256 (Config.measBytes 8 [s.rdF .HSP_STATUS 0 0 51 50, s.rdF .HSP_STATUS 0 0 48 48, s.rdF .HSP_STATUS 0 0 49 49, s.rdF .CHF_STATUS 0 0 62 62])
  else if i = 9 then sha256 s.tablesBytes
  else if i = 10 then
    sha256 (Config.measBytes 10 ((List.range 256).flatMap fun m =>
      match (s.wmodel m).cur with
      | some w =>
        let x := mget (fun _ => ((0, []) : Nat × List Byte)) s.win.info w
        [m, x.1, s.rdF .WIN_WS_A w 0 63 32, beNat x.2]
      | none => []))
  else mget dNil s.hasp.meas i

/-- A measurement block: index, DMTF specification, size, type, value (DSP0274 and the DMTF measurement specification;
PRESUMED). -/
def State.measBlock (s : State) (i : Nat) : List Byte :=
  [BitVec.ofNat 8 i, 1, 35, 0, Config.measType i, 32, 0] ++ s.measurement i

/-- Sign a digest with Alias1's key, under a nonce that is free. -/
def State.aliasSign (s : State) (digest : List Byte) : List Byte :=
  let d := keyOfSeed (hkdf (List.replicate 32 0) s.hasp.cdi1 (ascii "Alias1") 48)
  let k := beNat ((List.range 40).map (Config.freeByte (s.free + 1))) % (p256n - 1) + 1
  match ptMul 256 k (some p256g) with
  | some (x, _) =>
    let r := x % p256n
    beBytes 32 r ++ beBytes 32 (invMod p256n k * (beNat digest + r * d) % p256n)
  | none => List.replicate 64 0

/-- What an SPDM 1.2 signature covers: the version prefix, the context, the digest of the transcript (PRESUMED). -/
def spdmDigest (context : String) (m : List Byte) : List Byte :=
  let pre := ((List.range 4).flatMap fun _ => ascii "dmtf-spdm-v1.2.*")
  let c := ascii context
  sha256 (pre ++ List.replicate (36 - c.length) 0 ++ c ++ sha256 m)

def dConn (_ : Nat) : SpdmConn := ⟨0, [], [], []⟩
def State.conn (s : State) (doe : Bool) : SpdmConn := mget dConn s.hasp.conn doe.toNat
def State.setConn (s : State) (doe : Bool) (c : SpdmConn) : State :=
  s.setHasp { s.hasp with conn := mput dConn s.hasp.conn doe.toNat c }

/-- Answer on a management path. -/
def State.answer (s : State) (path status : Nat) (ws : List Word) (bs : List Byte) : State :=
  s.setLoft { s.loft with reply := ⟨path, status, ws, bs⟩ }

/-- Answer an SPDM request on its transport. -/
def State.spdmSend (s : State) (doe : Bool) (bs : List Byte) : State := s.answer (if doe then 2 else 1) 0 [] bs

/-- An SPDM ERROR message. -/
def spdmErr (code data : Nat) : List Byte := [0x12, 0x7F, BitVec.ofNat 8 code, BitVec.ofNat 8 data]

/-- An SPDM request of one kind: its form, the version it carries and the point the connection has reached are checked;
`f` gives the answer, the connection after it, and the free values used. A transport never waits for the other (R540). -/
def State.spdm (s : State) (doe : Bool) (req : List Byte) (code need len : Nat)
    (f : SpdmConn → Except Nat (List Byte × SpdmConn)) : Out :=
  if !s.haspUp ∨ le req 1 1 ≠ code then .next s
  else if req.length < len then .next (s.spdmSend doe (spdmErr 1 0))
  else if code ≠ 0x84 ∧ le req 0 1 ≠ 0x12 then .next (s.spdmSend doe (spdmErr 0x41 0))
  else if (s.conn doe).stage < need then .next (s.spdmSend doe (spdmErr 4 0))
  else
    match f (s.conn doe) with
    | .error e => .next (s.spdmSend doe (spdmErr e 0))
    | .ok (bs, c) => .next ((({ s with free := s.free + 2 }).setConn doe c).spdmSend doe bs)

/-- GET_VERSION (R540). -/
def execGetVersion (doe : Bool) (req : List Byte) (s : State) : Out :=
  s.spdm doe req 0x84 0 4 fun _ =>
    let r := [0x10, 0x04, 0, 0, 0, 1, 0, 0x12]
    .ok (r, ⟨1, req ++ r, [], []⟩)

/-- GET_CAPABILITIES (R540): certificates, challenge, signed measurements; CT exponent 20. The transfer sizes are free. -/
def execGetCapabilities (doe : Bool) (req : List Byte) (s : State) : Out :=
  s.spdm doe req 0xE1 1 20 fun c =>
    let r := [0x12, 0x61, 0, 0, 0, 20, 0, 0, 0x16, 0, 0, 0] ++ natToBytes 8 (Config.freeWord s.free).toNat
    .ok (r, { c with stage := max 2 c.stage, vca := c.vca ++ req ++ r })

/-- NEGOTIATE_ALGORITHMS (R540): P-256 and SHA-256 where the requester offers them. -/
def execNegotiateAlgorithms (doe : Bool) (req : List Byte) (s : State) : Out :=
  s.spdm doe req 0xE3 2 32 fun c =>
    let asym := if nbit (le req 8 4) 4 then 0x10 else 0
    let hash := if nbit (le req 12 4) 0 then 1 else 0
    let r := [0x12, 0x63, 0, 0, 36, 0, 1, 0, 2, 0, 0, 0] ++ natToBytes 4 asym ++ natToBytes 4 hash ++ List.replicate 16 0
    if asym = 0 ∨ hash = 0 then .error 1 else .ok (r, { c with stage := 3, vca := c.vca ++ req ++ r })

/-- The chain of slot 0 (R539). -/
def State.chain (s : State) : List Byte := Config.certChain s.hasp.cdi0 s.hasp.cdi1

/-- GET_DIGESTS (R540): slot 0 only. -/
def execGetDigests (doe : Bool) (req : List Byte) (s : State) : Out :=
  s.spdm doe req 0x81 3 4 fun c =>
    let r := [0x12, 0x01, 0, 1] ++ sha256 s.chain
    .ok (r, { c with certs := c.certs ++ req ++ r, meas := [] })

/-- GET_CERTIFICATE (R540): slot 0 only. -/
def execGetCertificate (doe : Bool) (req : List Byte) (s : State) : Out :=
  s.spdm doe req 0x82 3 8 fun c =>
    let off := le req 4 2
    let p := (s.chain.drop off).take (le req 6 2)
    let r := [0x12, 0x02, 0, 0] ++ natToBytes 2 p.length ++ natToBytes 2 (s.chain.length - off - p.length) ++ p
    if le req 2 1 ≠ 0 ∨ s.chain.length ≤ off then .error 1
    else .ok (r, { c with certs := c.certs ++ req ++ r, meas := [] })

/-- CHALLENGE (R540): the answer is signed by Alias1. -/
def execChallenge (doe : Bool) (req : List Byte) (s : State) : Out :=
  s.spdm doe req 0x83 3 36 fun c =>
    let want := le req 3 1
    let idx := if want = 0 then [] else if want = 1 then [1] else (List.range 10).map (· + 1)
    let sum := if want = 0 then [] else sha256 (idx.flatMap s.measBlock)
    let r := [0x12, 0x03, 0, 1] ++ sha256 s.chain ++ (List.range 32).map (Config.freeByte s.free) ++ sum ++ [0, 0]
    let sig := s.aliasSign (spdmDigest "responder-challenge_auth signing" (c.vca ++ c.certs ++ req ++ r))
    if le req 2 1 ≠ 0 then .error 1 else .ok (r ++ sig, { c with certs := [], meas := [] })

/-- GET_MEASUREMENTS (R541): their number, one, or all; signed by Alias1 when asked. -/
def execGetMeasurements (doe : Bool) (req : List Byte) (s : State) : Out :=
  s.spdm doe req 0xE0 3 4 fun c =>
    let signed := nbit (le req 2 1) 0
    let op := le req 3 1
    let idx := if op = 0 then [] else if op = 0xFF then (List.range 10).map (· + 1) else [op]
    let rec_ := idx.flatMap s.measBlock
    let r := [0x12, 0x60, if op = 0 then 10 else 0, 0, BitVec.ofNat 8 idx.length] ++ natToBytes 3 rec_.length ++ rec_ ++
      (List.range 32).map (Config.freeByte s.free) ++ [0, 0]
    let l := c.meas ++ req ++ r
    let sig := s.aliasSign (spdmDigest "responder-measurements signing" (c.vca ++ l))
    if (10 < op ∧ op ≠ 0xFF) ∨ (signed ∧ (req.length < 37 ∨ le req 36 1 ≠ 0)) then .error 1
    else .ok (if signed then r ++ sig else r, { c with meas := if signed then [] else l })

/-- Requests that the Gathal does not implement (R540). -/
def execSpdmUnsupportedRequest (doe : Bool) (req : List Byte) (s : State) : Out :=
  .next (if !s.haspUp ∨ [0x84, 0xE1, 0xE3, 0x81, 0x82, 0x83, 0xE0].contains (le req 1 1) then s
    else s.spdmSend doe (spdmErr 7 (le req 1 1)))

end Sys2Proof.Machine
end

