-- ==== Sys2Proof/Machine/Resets.lean ====
section
/-!
DEFINITION. Resets (R550 to R553), what the ledgers keep across a warm one (R591), the power-on sequence to Ready (R554 to
R558) with the boot chain (R533 to R538), THERMTRIP (R492), and the resets of PCIe functions (R260, R261).
-/
namespace Sys2Proof.Machine
open Sys2Proof

/-! ### PCIe functions -/

/-- R260 for one function: its queue pairs, and its requests at the gleaner. -/
def State.fnReset (s : State) (f : Nat) : State := (s.hopReset f).forceCancel f

/-- R261: every function. -/
def State.allFnReset (s : State) : State := (List.range 128).foldl (fun a f => a.fnReset f) s

/-- FUNCTION_LEVEL_RESET and D3HOT_ENTRY (R260). -/
def execFunctionLevelReset (fn : Fin 128) (s : State) : Out := .next (s.fnReset fn)
def execD3hotEntry (fn : Fin 128) (s : State) : Out := .next (s.fnReset fn)

/-- HOT_RESET (R261). -/
def execHotReset (s : State) : Out := .next s.allFnReset

/-- PCIE_LINK_DOWN (R261). -/
def execPcieLinkDown (s : State) : Out := .next (s.allFnReset.wr .HOP_LINK 0 0 0)

/-! ### The fence map after a reset -/

/-- A fence-map entry takes its resource out of use again (R515, R516). -/
def State.applyFence (s : State) (e : Nat × Nat) : State :=
  let l := e.2
  match e.1 with
  | 1 => (s.setTile (cuInst l) { s.tile (cuInst l) with fenced := true }).wrF .CU_STATUS l 0 5 4 3
  | 2 => s.setTile (muInst l) { s.tile (muInst l) with fenced := true }
  | 3 =>
    let u := nbits l 31 0
    let bank := nbits l 35 32
    let m := s.mu u
    s.setMu u { m with
      spares := mput dNat m.spares bank (max (mget dNat m.spares bank) (nbits l 47 44 + 1))
      rowMap := mput dNat m.rowMap (bank * 256 + nbits l 43 36) (nbits l 47 44 + 1) }
  | 6 =>
    let r := nbits l 24 11 * 2 ^ 16 + nbits l 6 3 * 2 ^ 12 + nbits l 10 8 * 2 ^ 9 + nbits l 2 0 * 2 ^ 6 + nbits l 7 7 * 2 ^ 5 + nbits l 33 29
    { s with tier := { s.tier with
        spares := mput dNat s.tier.spares (rowBank r) (max (mget dNat s.tier.spares (rowBank r)) (nbits l 28 25 + 1))
        rowMap := mput dNat s.tier.rowMap r (nbits l 28 25 + 1) } }
  | 7 => ({ s with mem := { s.mem with retired := s.mem.retired ++ [l] } }).wrF .SILO_STATUS (l % 8) 0 44 32 (s.rdF .SILO_STATUS (l % 8) 0 44 32 + 1)
  | 8 => if 24 ≤ l then s.setGstate (l - 24) 5 else s.setCause l 12
  | _ => s

def State.applyFences (s : State) : State := s.fenceList.foldl (fun a e => a.applyFence e) s

/-- Load the persistent store into the map (R516), without the entries whose removal is pending (R517), and rebuild
SEED_REMAP. -/
def State.loadFences (s : State) : State :=
  let keep := (List.range s.loft.fstoreN).filter fun i => let a := mget dWord s.loft.fstoreA i; bit a 63 && !bit a 62
  let ws := keep.map fun i => (mget dWord s.loft.fstoreA i, mget dWord s.loft.fstoreB i)
  let put := fun (m : NMap Word) (f : Word × Word → Word) => ws.zipIdx.foldl (fun a w => mput dWord a w.2 (f w.1)) m
  let s1 := ws.zipIdx.foldl (fun a w => (a.wr .CHF_FMAP_A w.2 0 w.1.1).wr .CHF_FMAP_B w.2 0 w.1.2) s
  let s2 := (s1.wrF .CHF_STATUS 0 0 16 0 ws.length).setLoft { s.loft with
    fstoreA := put [] (·.1), fstoreB := put [] (·.2), fstoreN := ws.length }
  (s2.wr .SEED_REMAP 0 0 s2.remapTarget).applyFences

/-! ### Cold reset -/

/-- What is left when power or a cold reset has taken everything else: what lies outside the chip, the fuses, the flash and
the persistent store, and what the loft holds of its pins. -/
def State.blank (s : State) : State :=
  { State.reset with
    pending := s.pending
    free := s.free
    rdata := s.rdata
    rstat := s.rstat
    mem := { MemSt.reset with gran := s.mem.gran, host := s.mem.host }
    hasp := { HaspSt.reset with rbc := s.hasp.rbc, rev0 := s.hasp.rev0, rev1 := s.hasp.rev1, flash := s.hasp.flash }
    loft := { LoftSt.reset with
      log := s.loft.log, logNo := s.loft.logNo, fstoreA := s.loft.fstoreA, fstoreB := s.loft.fstoreB, fstoreN := s.loft.fstoreN
      calSaved := s.loft.calSaved, revFlag := s.loft.revFlag, slot := s.loft.slot, mreset := s.loft.mreset
      perst := s.loft.perst, off := s.loft.off, mv := s.loft.mv }
    pwr := { PwrSt.reset with pcap := s.pwr.pcap } }

/-- A cold reset (R550): LAST_RESET takes its cause, and the sequence stands at step 2 (R552). -/
def State.coldReset (s : State) (cause : Nat) : State :=
  let s1 := s.blank
  ((s1.setLoft { s1.loft with done := [1] }).wrF .LOFT_STATUS 0 0 62 60 cause).wrF .LOFT_STATUS 0 0 55 48 1

/-! ### Warm reset -/

/-- Bits of a register that a warm reset keeps (R550): counters that clear only on cold reset, RWS fields, the fence map
and SEED_REMAP, the debug level and the denials. -/
def Reg.warmMask (r : Reg) : Word :=
  if r.lasting then BitVec.allOnes 64
  else
    match r with
    | .CHF_FMAP_A => BitVec.allOnes 64
    | .CHF_FMAP_B => BitVec.allOnes 64
    | .SEED_REMAP => BitVec.allOnes 64
    | .CHF_STATUS => 0x1FFFF
    | .HSP_STATUS => 0x000C300000000000
    | _ => r.mask [.RWS]

/-- One word of the register file across a warm reset. -/
def warmWord (k : Nat) (v : Word) : Word :=
  match Reg.all[k / 2 ^ 32]? with
  | none => regDefault k
  | some r => (regDefault k &&& ~~~r.warmMask) ||| (v &&& r.warmMask)

/-- The register file across a warm reset. -/
def warmCsr (m : NMap Word) : NMap Word :=
  (m.map fun e => (e.1, warmWord e.1 e.2)).filter fun e => decide (e.2 ≠ regDefault e.1)

/-- The work that a warm reset discards, counted before anything is lost (R591). -/
def State.countLost (s : State) : State :=
  let s1 := s.hop.qps.foldl (fun a x => a.inc .HOP_QP_CPL_DISCARD x.1 0 ((x.2.ents.filter fun e => decide (2 ≤ e.st)).length)) s
  let s2 := s1.inc .GLN_RQ_END 0 0 s.liveReqs.length
  let s3 := s.arr.mus.foldl (fun a x =>
    (a.inc .MU_SLOT_CLEARS x.1 0 ((x.2.tags.filter (·.2)).length)).inc .MU_FETCH_FAIL_BYTES x.1 0
      (((x.2.gens.flatMap (·.2.reqs)).filter fun r => decide (r.data = [])).foldl (fun n r => n + r.len) 0)) s2
  let s4 := (s3.inc .WIN_IN_FAIL 0 0 ((s.win.pages.filter (!·.out)).length)).inc .WIN_OUT_FAIL 0 0 ((s.win.pages.filter (·.out)).length)
  s.tier.ports.foldl (fun a x => a.inc .GRN_TAG_FREE x.1 0 (x.2.out.length + x.2.quar.length)) s4

/-- Images whose activation awaited this reset become bootable (R564). -/
def HaspSt.activate (h : HaspSt) (l : List Nat) : NMap (Option FwImage) :=
  l.foldl (fun m k => mput dNone m k ((mget dNone m k).map fun x => { x with invalid := false })) h.flash

/-- The counts of the last interference window outlive a warm reset with the counters they are compared with (R215, R216). -/
def State.keepIntf (s : State) : NMap Plot :=
  (List.range 16).foldl (fun m p => mput dPlot m p { Plot.reset with intf := (s.plot p).intf }) []

/-- A warm reset (R550): the sequence stands at step 3, with the same anchor rule counted from its release (R554). -/
def State.warmReset (s : State) (cause : Nat) : State :=
  let s1 := s.countLost
  let wait := s.loft.perst && decide (s.rdF .LOFT_CTL 0 0 16 16 = 0)
  let s2 : State := { State.reset with
    pending := s.pending
    time := s.time
    free := s.free
    rdata := s.rdata
    rstat := s.rstat
    csr := warmCsr s1.csr
    arr := { ArrSt.reset with plots := s.keepIntf }
    mem := { MemSt.reset with silo := s.mem.silo, gran := s.mem.gran, host := s.mem.host, pSilo := s.mem.pSilo, dirty := s.mem.dirty }
    chf := { s.chf with unsig := 0, unsigAt := 0, tests := [], spill := [] }
    gln := { GlnSt.reset with hist := s.gln.hist, bank := s.gln.bank }
    tier := { TierSt.reset with ce := s.tier.ce }
    hasp := { HaspSt.reset with
      rbc := s.hasp.rbc, rev0 := s.hasp.rev0, rev1 := s.hasp.rev1, nounwrap := s.hasp.nounwrap, flash := s.hasp.activate s.loft.activate }
    hay := { HaySt.reset with ref := s.hay.ref }
    pwr := { PwrSt.reset with pcap := s.pwr.pcap, uj := s.pwr.uj }
    loft := { s.loft with
      baud := 115200, done := [1, 2], anchor := if wait then 0 else s.time + 1, upd := none, checked := [], activate := []
      reply := .none, ended := false, printed := [] } }
  ((s2.applyFences).wrF .LOFT_STATUS 0 0 62 60 cause).wrF .LOFT_STATUS 0 0 55 48 2

/-! ### Triggers -/

/-- Whether the last input average, calibrated, lies below a level in mV. -/
def State.inputBelow (s : State) (mv : Int) : Bool := decide ((s.loft.mv : Int) + s.calOff 3 < mv)

/-- Whether any temperature sensor reads 90 °C or more. -/
def State.tooHot (s : State) : Bool := decide (1900 ≤ s.maxSens (((List.range 80).map (128 + ·)) ++ [208, 209]))

/-- A refused trigger is recorded in the persistent log (R552). -/
def State.resetRefused (s : State) : State :=
  s.logAppend [({ errRec 0x1003 sevTransient 15 0 0 with time := s.time }).toBytes]

/-- A cold trigger. After THERMTRIP it is accepted only once every sensor has read below 90 °C (R492). -/
def State.coldTrigger (s : State) (cause : Nat) : State :=
  if s.loft.off ∨ (s.pwr.tripped ∧ s.tooHot) then s
  else s.coldReset (if s.pwr.tripped then 3 else cause)

/-- A warm trigger (R552): ignored before power-good; refused while the input lies below 44 V, or after THERMTRIP, which
only a cold reset leaves. -/
def State.warmTrigger (s : State) (cause : Nat) : State :=
  if s.loft.off ∨ s.loft.mreset then s
  else if s.inputBelow 44000 ∨ s.pwr.tripped then s.resetRefused
  else if 2 ∈ s.loft.done then s.warmReset cause
  else s

/-- COLD_RESET (R550): a cold reset by one of its triggers, 0 power, 1 MRESET#, 2 LOFT_RESET, 3 leaving THERMTRIP. -/
def execColdReset (cause : Fin 4) (s : State) : Out := .next (if cause = 3 ∧ !s.pwr.tripped then s else s.coldTrigger cause)

/-- WARM_RESET (R550): a warm reset by one of its triggers, as LAST_RESET codes them from 4; 7 leaves FATAL or
POWER_HALT. -/
def execWarmReset (cause : Fin 4) (s : State) : Out :=
  .next (if cause = 3 ∧ !s.isFatal ∧ !s.pwr.halted then s else s.warmTrigger (4 + cause))

/-- A LOFT_RESET write (R552, Table 18.12): the confirm code; COLD wins over WARM. -/
def State.loftReset (s : State) (v : Word) : State :=
  if fld v 63 48 ≠ 0xB007 then s
  else if bit v 1 then
    if s.loft.off then s
    else if s.inputBelow 44000 ∨ (s.pwr.tripped ∧ s.tooHot) then s.resetRefused
    else s.coldTrigger 2
  else if bit v 0 then s.warmTrigger 5
  else s

/-- INPUT_RISE (R472, Table 18.2): the input rises above 35 V; SLOT_ID is sampled (R580), and the reversal flag is copied and
cleared (R584). -/
def execInputRise (slot : Fin 4) (s : State) : Out :=
  if !s.loft.off ∧ (s.loft.done ≠ [] ∨ s.rdF .LOFT_STATUS 0 0 55 48 ≠ 0) then .next s
  else
    let s1 := ({ s with loft := { s.loft with off := false } }).coldReset 0
    let s2 := s1.setLoft { s1.loft with done := [], slot := slot, revFlag := false }
    .next (if s.loft.revFlag then s2.modEvent 0 0 else s2)

/-- Power is lost: the input lies below 35 V (R472). -/
def State.powerLost (s : State) : State :=
  let s1 := s.blank
  s1.setLoft { s1.loft with off := true }

/-- INPUT_LOSS (R472). -/
def execInputLoss (s : State) : Out := .next s.powerLost

/-- INPUT_OVERCURRENT (R582): the electronic fuse opens; the return of the input is a cold reset. -/
def execInputOvercurrent (s : State) : Out := .next s.powerLost

/-- REVERSED_INPUT (R584): the reversal is stored; conversion and VDD_MGMT are off. -/
def execReversedInput (s : State) : Out :=
  .next (s.powerLost.setLoft { s.powerLost.loft with revFlag := true })

/-- MRESET_ASSERT (R551): held low for 100 µs; the chip stays in cold reset while it is held. -/
def execMresetAssert (s : State) : Out :=
  let s1 := s.setLoft { s.loft with mreset := true }
  .next (s1.coldTrigger 1)

/-- MRESET_RELEASE (R551): step 2 can begin. -/
def execMresetRelease (s : State) : Out := .next (s.setLoft { s.loft with mreset := false })

/-- PERST_ASSERT (R553): a warm trigger, or with PERST_MODE 1 a Hot Reset. -/
def execPerstAssert (s : State) : Out :=
  let s1 := s.setLoft { s.loft with perst := true }
  .next (if s.rdF .LOFT_CTL 0 0 16 16 = 1 then s1.allFnReset else s1.warmTrigger 4)

/-- PERST_RELEASE (R554): with PERST_MODE 0 its edge is the anchor, once power is good. -/
def execPerstRelease (s : State) : Out :=
  let l := s.loft
  .next (s.setLoft { l with
    perst := false
    anchor := if l.anchor = 0 ∧ 2 ∈ l.done then s.time + 1 else l.anchor })

/-- LOFT_RESET_COLD and LOFT_RESET_WARM (R552): the write with the confirm code that PL1 or the tray manager makes. -/
def State.loftResetBy (s : State) (who : Agent) (v : Word) : State :=
  if s.pl who ≤ 1 then s.loftReset v
  else s.raiseProt (match who with | .core _ => 4 | .func _ => 5 | _ => 15) (match who with | .core c => c | .func f => f | _ => 0)
    (Reg.addr .LOFT_RESET 0 0)
def execLoftResetCold (who : Agent) (s : State) : Out := .next (s.loftResetBy who 0xB007000000000002)
def execLoftResetWarm (who : Agent) (s : State) : Out := .next (s.loftResetBy who 0xB007000000000001)

/-! ### THERMTRIP -/

/-- Whether a sensor reads at the trip: 115 °C at a junction, 100 °C at a silo base die (R490, R491). -/
def State.atTrip (s : State) : Bool :=
  decide (2150 ≤ s.tjMax ∨ 2000 ≤ s.maxSens ((List.range 8).map (200 + ·)))

/-- THERMTRIP (R492): every rail but VDD_MGMT goes off. The loft logs the error ring, then records the FATAL error. -/
def execThermtrip (s : State) : Out :=
  if !s.atTrip ∨ s.pwr.tripped ∨ s.loft.off then .next s
  else
    let r := ({ errRec 0x0D08 sevFatal 15 0 0 with time := s.time, seq := s.chf.seqNo }).toBytes
    let s1 := s.logAppend (s.ringDump ++ [r])
    let b := s1.blank
    let mgmt := s.csr.filter fun e => decide ((Reg.all[e.1 / 2 ^ 32]?.map fun x => x.info.sub) = some 12 ∨ (Reg.all[e.1 / 2 ^ 32]?.map fun x => x.info.sub) = some 15)
    let s2 : State := { b with csr := mgmt, time := s.time, pwr := { s.pwr with tripped := true }, loft := { s1.loft with ended := true } }
    .next (s2.platEvent ⟨0, 0x0D08, true, true, r⟩)

/-! ### The boot chain -/

/-- A copy of an image in the boot flash (R533). -/
def State.flashImg (s : State) (typ copy : Nat) : Option FwImage :=
  match mget dNone s.hasp.flash (typ * 2 + copy) with
  | some x => some x
  | none => (Config.flash (typ * 2 + copy)).map fun p => ⟨p.1, p.2, false⟩

/-- Check 1 of R535: the header fields are well formed (Table 17.4). -/
def hdrOk (h : List Byte) (typ bodyLen : Nat) : Bool :=
  decide (h.length = 256 ∧ le h 0 4 = 0x50534148 ∧ le h 4 2 = 0x0100 ∧ le h 6 1 = typ ∧ le h 7 1 ≤ 1 ∧ hdrSvn h ≤ 64 ∧
    hdrRbc h ≤ 15 ∧ le h 10 2 < 4 ∧ le h 12 4 = 0 ∧ le h 0x10 8 = bodyLen ∧ bodyLen ≤ 0x400000 ∧
    (h.drop 0x80).take 64 = List.replicate 64 0)

/-- Check 2 of R535: the key's hash is that of a slot not revoked (R534). -/
def State.keyTrusted (s : State) (h : List Byte) : Bool :=
  let d := sha256 ((h.drop 0x40).take 64)
  if le h 7 1 = 0 then decide (d = Config.k0Hash) && !s.hasp.rev0 else decide (d = Config.k1Hash) && !s.hasp.rev1

/-- Checks 1, 2, 3 and 5 of R535, without the counter. -/
def State.imageSound (s : State) (typ : Nat) (h body : List Byte) : Bool :=
  hdrOk h typ body.length && s.keyTrusted h &&
    ecdsaVerify ((h.drop 0x40).take 64) (sha256 (h.take 0xC0)) ((h.drop 0xC0).take 64) && decide (sha256 body = (h.drop 0x20).take 32)

/-- Whether an image's SVN lies below its counter (check 4). -/
def State.rolledBack (s : State) (h : List Byte) : Bool := decide (hdrSvn h < mget dNat s.hasp.rbc (hdrRbc h))

/-- R535: 0, IMAGE_BAD or ROLLBACK_REFUSED, the first check that fails deciding. -/
def State.imageStatus (s : State) (typ : Nat) (x : Option FwImage) : Nat :=
  match x with
  | none => 0x0F01
  | some i =>
    if i.invalid then 0x0F01
    else if !(hdrOk i.hdr typ i.body.length && s.keyTrusted i.hdr &&
        ecdsaVerify ((i.hdr.drop 0x40).take 64) (sha256 (i.hdr.take 0xC0)) ((i.hdr.drop 0xC0).take 64)) then 0x0F01
    else if s.rolledBack i.hdr then 0x0F02
    else if sha256 i.body = (i.hdr.drop 0x20).take 32 then 0
    else 0x0F01

/-- A copy that fails is recorded (R533, Table 17.7). -/
def State.imageFailed (s : State) (status : Nat) : State := (s.setLast status).raise (errRec status sevTransient 14 0 0)

/-- Boot one image type: copy A, else copy B (R533); its measurement is kept (Table 17.5). None when both fail. -/
def State.bootImage (s : State) (typ : Nat) : State × Option FwImage :=
  let take := fun (a : State) (x : Option FwImage) (copy : Nat) => match x with
    | none => (a, none)
    | some i => ((a.setHasp { a.hasp with
        run := mput dNil a.hasp.run typ i.hdr, meas := mput dNil a.hasp.meas (typ + 1) (sha256 (i.hdr ++ i.body)) }).wrF .HSP_STATUS 0 0
          (51 + typ) (51 + typ) copy, some i)
  let st := s.imageStatus typ (s.flashImg typ 0)
  if st = 0 then take s (s.flashImg typ 0) 0
  else
    let s1 := s.imageFailed st
    let st2 := s1.imageStatus typ (s1.flashImg typ 1)
    if st2 = 0 then take s1 (s1.flashImg typ 1) 1 else (s1.imageFailed st2, none)

/-- While BOOTLOG is 1 the wicket prints a line for a boot step (R569): its number, the milliseconds from A, 0 before it, and the
status (log entry 164). -/
def State.bootLine (s : State) (n status : Nat) : State :=
  if s.rdF .LOFT_CTL 0 0 0 0 = 1 then
    let ms := if s.loft.anchor = 0 then 0 else (s.time + 1 - s.loft.anchor) / 156250
    s.setLoft { s.loft with printed := s.loft.printed ++ [(n, ms, status)] }
  else s

/-- Both copies failed: recovery; never Ready (R533, Table 18.3). -/
def State.recovery (s : State) (step : Nat) : State :=
  let s1 := (((s.wrF .HSP_STATUS 0 0 58 56 7).wrF .LOFT_STATUS 0 0 47 32 (s.rdF .HSP_STATUS 0 0 15 0))).wrF .LOFT_STATUS 0 0 55 48 step
  (s1.setLoft { s1.loft with ended := true }).bootLine step (s.rdF .HSP_STATUS 0 0 15 0)

/-- The fuses and the debug state that measurements 6 and 7 digest (Table 17.5). -/
def State.measFuses (s : State) : List Byte :=
  sha256 (Config.measBytes 6 ([beNat Config.k0Hash, beNat Config.k1Hash, s.hasp.rev0.toNat, s.hasp.rev1.toNat] ++
    (List.range 16).map fun c => mget dNat s.hasp.rbc c))
def State.measDebug (s : State) : List Byte :=
  sha256 (Config.measBytes 7 [s.rdF .HSP_STATUS 0 0 51 50, beNat Config.dbgKeyHash])

/-- Start a service core at its reset pc in monitor mode (R221). -/
def State.startCore (s : State) (c : Nat) : State := s.setCore c { s.core c with state := .running, pc := 0, monitor := true }

/-- Step 5: the ROM accepts the hasp firmware and derives CDI0 (R535, R538). -/
def State.step5 (s : State) : State :=
  match s.bootImage 1 with
  | (s1, none) => s1.recovery 5
  | (s1, some _) =>
    let m := mput dNil (mput dNil (mput dNil s1.hasp.meas 1 Config.romDigest) 6 s1.measFuses) 7 s1.measDebug
    let g := fun i => mget dNil m i
    (s1.setHasp { s1.hasp with meas := m, cdi0 := hmac Config.uds (g 2 ++ g 6 ++ g 7) }).wrF .HSP_STATUS 0 0 58 56 1

/-- The RELEASE words of the running images, by type. -/
def State.releases (s : State) : List Nat := (List.range 4).map fun k => le (mget dNil s.hasp.run (k + 1)) 0x18 8

/-- Whether the running images form a combination of the supported set, which the hasp image carries (R535). -/
def State.supported (s : State) : Bool :=
  match s.flashImg 1 (s.rdF .HSP_STATUS 0 0 52 52) with
  | some i => Config.supported i.body s.releases
  | none => false

/-- Images of types 2 to 4, in order; the sequence ends at the first that has no good copy. -/
def bootRest : Nat → Nat → State → Option State × State
  | 0, _, s => (some s, s)
  | n + 1, typ, s =>
    match s.bootImage typ with
    | (s1, none) => (none, s1)
    | (s1, some _) => bootRest n (typ + 1) s1

/-- Step 6: service images, cores 1 to 3, CDI1, the supported set (R535, R538). -/
def State.step6 (s : State) : State :=
  match bootRest 3 2 s with
  | (none, s1) => s1.recovery 6
  | (some s1, _) =>
    let g := fun i => mget dNil s1.hasp.meas i
    let s2 := [1, 2, 3].foldl (fun a c => a.startCore c) (s1.setHasp { s1.hasp with cdi1 := hmac s1.hasp.cdi0 (g 3 ++ g 4 ++ g 5) })
    let s3 := if s2.supported then s2
      else ((s2.wrF .HSP_STATUS 0 0 49 49 1).wrF .CHF_STATUS 0 0 61 61 1).wrF .CHF_STATUS 0 0 62 62 0
    s3.wrF .HSP_STATUS 0 0 58 56 2

/-! ### The power-on sequence -/

/-- Effective value of item 6 in HAY_TIME_CTL.ASYM (R567). -/
def State.asymApply (s : State) : State := s.wrF .HAY_TIME_CTL 0 0 47 32 (fld (s.rd .LOFT_CAL_U 6 0) 15 0)

/-- Step 3: core 0 runs the boot ROM, the fuses are read, the saved calibration table is applied (R533, R567). -/
def State.step3 (s : State) : State :=
  let s1 := ((s.startCore 0).wrF .HSP_STATUS 0 0 46 46 s.hasp.rev0.toNat).wrF .HSP_STATUS 0 0 47 47 s.hasp.rev1.toNat
  (s.loft.calSaved.foldl (fun a e => a.wr .LOFT_CAL_U e.1 0 e.2) s1).asymApply

/-- Ports of laser input `f`: two fabric ports of its engine, or a granary port on engines 6 and 7 (R431, R578). -/
def State.laserDark (s : State) (f : Nat) : State :=
  if f < 12 then (s.hayDark (2 * f) 2).hayDark (2 * f + 1) 2 else s.grnDark (f - 12)

/-- What step 7 finds broken (R205, R503, R505, R506, R508). -/
def State.bootFence (s : State) (b : BootBad) : State :=
  match b with
  | .thresher u => if (s.tile (cuInst u)).fenced then s else s.fenceTile (cuInst u) (errRec 0x0E01 sevLasting 0 u 2)
  | .bin u => if (s.tile (muInst u)).fenced then s else s.fenceTile (muInst u) (errRec 0x0201 sevLasting 1 u 1)
  | .row u a => s.spareRow u a none ((errRec 0x0201 sevLasting 1 u 1).withAddr (s.binAddr u a))
  | .core c =>
    if c.val < 4 then s.raise (errRec 0x0E05 sevFatal 4 c 7)
    else s.fenceWith 9 c (errRec 0 sevLasting 4 c 7)
  | .steer i => s.withdrawBand (posOfInst i).d ((posOfInst i).col / 16)
  | .line sp l => s.spareLine sp l none (errRec 0 sevLasting 4 (if sp.val < 64 then sp.val else 0) 7)
  | _ => s

/-- A step's own effect, with what it finds broken (Tables 18.2, 18.3). -/
def State.bootStep (s : State) (n : Nat) (bad : List BootBad) : State :=
  match n with
  | 3 => s.step3
  | 5 => s.step5
  | 6 => s.step6
  | 7 => bad.foldl (fun a b => a.bootFence b) (if s.fences = 0 then s.loadFences else s)
  | 8 =>
    match bad.findSome? (fun b => match b with | .stack k => some k.val | _ => none) with
    | none => s
    | some k =>
      let s1 := ((s.raise (errRec 0x1004 sevFatal 15 k 6)).wrF .LOFT_STATUS 0 0 47 32 0x1004).wrF .LOFT_STATUS 0 0 55 48 8
      (s1.setLoft { s1.loft with ended := true }).bootLine 8 0x1004
  | 9 => bad.foldl (fun a b => match b with | .laser f => (a.modEvent 6 f).laserDark f | _ => a) s
  | _ => s

/-- Whether a step can be the one that completes now (Table 18.2). -/
def LoftSt.canStep (l : LoftSt) (n : Nat) : Bool :=
  let d := fun k => l.done.contains k
  !l.off && !l.mreset && !l.ended && !d n &&
    (match n with
     | 1 => true
     | 3 => d 2 && decide (l.anchor ≠ 0)
     | 4 => d 3
     | 5 => d 3
     | 6 => d 5
     | 7 => d 6
     | 8 => d 6
     | 9 => d 7 && d 8
     | _ => false)

/-- A step is done: BOOT_STEP shows the last completed, and its line is printed. -/
def State.stepDone (s : State) (n : Nat) : State :=
  ((s.setLoft { s.loft with done := s.loft.done ++ [n] }).bootLine n 0).wrF .LOFT_STATUS 0 0 55 48 (max n (s.rdF .LOFT_STATUS 0 0 55 48))

/-- BOOT_STEP_COMPLETE (R554, R556). -/
def execBootStepComplete (step : Fin 10) (bad : List BootBad) (s : State) : Out :=
  if !s.loft.canStep step ∨ s.pwr.tripped then .next s
  else
    let s1 := s.bootStep step bad
    .next (if s1.loft.ended then s1 else s1.stepDone step)

/-- POWER_GOOD (R554, R557): step 2 ends; A is set unless PERST# is held low in mode 0. -/
def execPowerGood (s : State) : Out :=
  let l := s.loft
  if l.off ∨ l.mreset ∨ l.ended ∨ 1 ∉ l.done ∨ 2 ∈ l.done ∨ s.inputBelow 40000 ∨ s.pwr.tripped then .next s
  else
    let wait := l.perst && decide (s.rdF .LOFT_CTL 0 0 16 16 = 0)
    .next ((s.setLoft { l with anchor := if wait then 0 else s.time + 1 }).stepDone 2)

/-- INPUT_LOW_TIMEOUT (R557): the loft stays in step 1. -/
def execInputLowTimeout (s : State) : Out :=
  let l := s.loft
  if l.off ∨ l.ended ∨ 2 ∈ l.done ∨ !s.inputBelow 40000 then .next s
  else .next ((s.setLoft { l with ended := true }).wrF .LOFT_STATUS 0 0 47 32 0x1005)

/-- BOOT_DEADLINE (R556): step 10 not reached by A + 25 s. -/
def execBootDeadline (s : State) : Out :=
  let l := s.loft
  if s.isReady ∨ l.ended ∨ l.anchor = 0 ∨ l.off then .next s
  else .next (((s.raise (errRec 0x1004 sevFatal 15 0 0)).setLoft { l with ended := true }).wrF .LOFT_STATUS 0 0 47 32 0x1004)

/-- The revocations that the running hasp image asks for (R536). -/
def State.revoke (s : State) : State :=
  let h := mget dNil s.hasp.run 1
  let own := le h 7 1
  let refuse := fun (a : State) => a.raise (errRec 0x0F06 sevTransient 14 0 0)
  let burn := fun (a : State) (n : Nat) =>
    if n = own then refuse a
    else if n = 0 then ((a.setHasp { a.hasp with rev0 := true }).wrF .HSP_STATUS 0 0 46 46 1)
    else ((a.setHasp { a.hasp with rev1 := true }).wrF .HSP_STATUS 0 0 47 47 1)
  let s1 := if nbit (le h 10 2) 0 then burn s 0 else s
  if nbit (le h 10 2) 1 then burn s1 1 else s1

/-- READY (R558, Table 18.2). -/
def execReady (s : State) : Out :=
  if s.isReady ∨ s.loft.ended ∨ 9 ∉ s.loft.done then .next s
  else
    let ms := (s.time + 1 - s.loft.anchor) / 156250
    let s1 := (((s.wrF .LOFT_STATUS 0 0 63 63 1).wrF .LOFT_STATUS 0 0 31 0 ms).wrF .HSP_STATUS 0 0 58 56 3).stepDone 10
    let s2 := s1.revoke.platEvent ⟨1, 0, true, false, []⟩
    .next (if s2.rdF .CHF_CTL 0 0 59 59 = 1 then s2.sendMsix 0 (s2.rdF .CHF_CTL 0 0 58 48) else s2)

end Sys2Proof.Machine
end

