-- ==== Sys2Proof/Machine/Views.lean ====
section
/-!
DEFINITION. What a register reads as (R7): the stored value, or for a register whose chapter computes it from other state,
the view of that state.
-/
namespace Sys2Proof.Machine
open Sys2Proof

/-! ### The array -/

/-- MU_AGn_STATUS (Table 04.14). -/
def State.agStatus (s : State) (u g : Nat) : Word :=
  let k := s.gen u g
  let st := match k.active with
    | some _ => if k.st = 0 then 1 else k.st
    | none => if (s.tile (muInst u)).aborting ∧ k.reqs ≠ [] then 6 else if k.reuse then 5 else 0
  setFld (setFld (setFld (setFld 0 55 48 k.epoch.toNat) 42 32 k.reqs.length) 4 4 k.queued.isSome.toNat) 2 0 st

/-- MU_AGn_DESC: word `w` of the active descriptor of Table 04.3, zero without one (R110). -/
def State.agDesc (s : State) (u g w : Nat) : Word :=
  match (s.gen u g).active with
  | some x => x.desc.extractLsb' (64 * w) 64
  | none => 0

/-- LNK_STATUS (Table 05.10). -/
def State.lnkStatus (s : State) (i : Nat) : Word :=
  let t := s.tile i
  let n := fun k => (t.queue k).length
  setFld (setFld (setFld (setFld (setFld (setFld 0 39 36 (n 32)) 35 32 (n 33)) 31 28 (n 30)) 27 24 (n 31)) 9 9 t.ep.toNat) 8 8
    t.fenced.toNat

/-- Whether a power hold holds a plot that has a configuration (R484). -/
def State.plotHeld (s : State) (p : Nat) : Bool :=
  let ts := (s.plotTiles p).filter fun i => decide ((s.tile i).active.record ≠ [])
  decide (ts ≠ []) && ts.all fun i => s.pwrHeld p i && s.tileDone i

/-- STATE of a plot (Table 06.11). -/
def State.plotState (s : State) (p : Nat) : Nat :=
  let x := s.plot p
  if s.rd .SEED_PLOT_BOUNDS p 0 = 0 then 0
  else if x.preStat ≠ 0 then x.preStat
  else if x.runs.any fun r => decide (r.status ≠ 0) then 3
  else if s.plotHeld p then 4
  else if s.plotIdle p then 1
  else 2

/-- Newest and oldest epoch active in any unit of a plot; the two are at most one apart (Table 06.11). -/
def State.plotEpochs (s : State) (p : Nat) : Nat × Nat :=
  let es := (s.plotTiles p).map fun i => (s.tile i).epoch
  match es with
  | [] => (0, 0)
  | e :: _ => if es.contains (e + 1) then ((e + 1).toNat, e.toNat) else if es.contains (e - 1) then (e.toNat, (e - 1).toNat) else (e.toNat, e.toNat)

/-- SEED_PLOT_STATUS (Table 06.11). -/
def State.plotStatus (s : State) (p : Nat) : Word :=
  let x := s.plot p
  let e := s.plotEpochs p
  let v := setFld (setFld (setFld (0 : Word) 63 48 x.pstatus) 47 40 e.1) 39 32 e.2
  let w := setFld (setFld v 7 7 (x.loads.any (·.armed)).toNat) 6 6 (x.loads.any fun l => !l.valid).toNat
  setFld (setFld (setFld w 5 5 (decide (x.pre = 1)).toNat) 4 4 x.remapPending.toNat) 2 0 (s.plotState p)

/-- BND_STATUS (Table 07.13). -/
def State.bndStatus (s : State) (c : Nat) : Word :=
  let k := s.core c
  setFld (setFld (setFld (setFld (setFld 0 63 48 k.nextTicket) 39 32 (k.cmds.length + k.arriving.length)) 8 8 k.cqHalt.toNat) 3 3 k.monitor.toNat) 2 0
    k.state.code

/-! ### The gleaner -/

/-- Requests of a class, or of a model, in a set of states. -/
def State.reqsIn (s : State) (mine : Req → Bool) (sts : List Nat) : Nat :=
  (s.ownReqs.filter fun p => mine p.2 && sts.contains p.2.st).length

/-- GLN_CLS_STATUS (Table 11.9). -/
def State.clsStatus (s : State) (c : Nat) : Word :=
  let n := s.reqsIn fun r => decide (r.cls = c)
  setFld (setFld (setFld 0 55 52 (mget dNat s.gln.lastFail c)) 48 32 (n [2, 3, 4])) 16 0 (n [1])

/-- GLN_CLS_HCTL (Table 11.10). -/
def State.clsHctl (s : State) (c : Nat) : Word :=
  setFld (setFld 0 8 8 (mget dNat s.gln.bank c)) 0 0 (mget dFalse s.gln.swap c).toNat

/-- A histogram bin of the frozen bank (R372). -/
def State.histRead (s : State) (c kind b : Nat) : Word :=
  BitVec.ofNat 64 (mget dNat s.gln.hist (histKey c kind (1 - mget dNat s.gln.bank c) b))

/-- GLN_MODEL_CNTm (Table 11.13). -/
def State.modelCnt (s : State) (m : Nat) : Word :=
  let n := s.reqsIn fun r => decide (r.model = m)
  setFld (setFld (setFld 0 50 34 (n [1])) 33 17 (n [2])) 16 0 (n [3, 4])

/-- Whether a CANCEL that names a request waits for a boundary (R373). -/
def State.cancelWaits (s : State) (r : Req) : Bool :=
  (s.gmodel r.model).waits.any fun w => decide (w.op = 0x31) && s.attached w.q r &&
    ((s.qp w.q).ents.any fun e => decide (e.id = w.ent ∧ e.arg 0 % 65536 = r.cid))

/-- GLN_REQ_Ar (Table 11.13). -/
def State.reqA (s : State) (i : Nat) : Word :=
  let r := s.req i
  let v := setFld (setFld (setFld (0 : Word) 63 61 r.st) 60 60 (r.live && s.cancelWaits r).toNat) 59 56 r.cls
  setFld (setFld (setFld (setFld v 55 48 r.model) 47 41 r.fn) 40 27 r.q) 26 11 r.cid

/-- GLN_REQ_Br (Table 11.13). -/
def State.reqB (s : State) (i : Nat) : Word := setFld (setFld 0 63 32 (s.req i).len) 31 0 (s.req i).toks.length

/-- GLN_PFX_Ah and GLN_PFX_Bh (Table 11.13). -/
def State.pfxA (s : State) (h : Nat) : Word :=
  let x := s.pfx h
  let v := setFld (setFld (setFld (0 : Word) 63 62 x.st) 61 61 x.pin.toNat) 60 43 x.gen
  setFld (setFld (setFld (setFld v 42 35 x.model) 34 28 x.fn) 27 16 (x.ad.getD 0)) 15 15 x.ad.isSome.toNat
def State.pfxB (s : State) (h : Nat) : Word :=
  let x := s.pfx h
  setFld (setFld (setFld 0 63 32 x.len) 28 20 x.ws) 16 0 x.refs

/-! ### The riddle, the loft and the rest -/

/-- RDL_CTX_STATUS (chapter 13). -/
def State.ctxStatus (s : State) (x : Nat) : Word :=
  let js := s.ctxJobs x
  let layer := match js with
    | j :: _ => j.layer
    | [] => 0
  setFld (setFld (setFld (setFld 0 63 48 (s.rdF .RDL_CTX_STATUS x 0 63 48)) 34 32 js.length) 31 16 layer) 6 0
    (mget dNil s.rdl.early x).length

/-- PWR_COOL (Table 15.9): sensors 211, 209 and 208. -/
def State.coolRead (s : State) : Word :=
  let f := fun i => fld (s.rd .LOFT_SENS i 0) 31 0
  setFld (setFld (setFld 0 47 32 (f 211)) 31 16 (f 209)) 15 0 (f 208)

/-- LOFT_MGMT_PINS (Table 19.8). The levels of WK_RX and RACKTICK are whatever drives them now: free values. -/
def State.mgmtPins (s : State) : Word :=
  let l := s.loft
  let v := setFld (setFld (setFld (0 : Word) 10 9 (Config.freeNat s.free)) 8 8 (!l.mreset).toNat) 7 6 l.slot
  setFld (setFld (setFld v 5 5 (!s.pwr.tripped).toNat) 4 4 (decide (l.evq = [])).toNat) 2 0 s.pwr.pcap

/-- A slot-ledger total: the bins' counters added (R521). -/
def State.muSum (s : State) (r : Reg) : Word :=
  BitVec.ofNat 64 ((List.range 16896).foldl (fun n u => n + (s.rd r u 0).toNat) 0)

/-- The value of a register, whole (R7); write-only fields read zero. -/
def State.regRead (s : State) (r : Reg) (i j : Nat) : Word :=
  match r with
  | .CU_FLAGS => if bit (s.rd .CU_NUMCTL i 0) 7 then s.rd r i j else 0
  | .CU_KFILE => (mget dW32 (s.cu i).kAct j).setWidth 64
  | .MU_AG_STATUS => s.agStatus i j
  | .MU_AG_DESC => s.agDesc i (j / 8) (j % 8)
  | .LNK_STATUS => s.lnkStatus i
  | .SEED_PLOT_STATUS => s.plotStatus i
  | .BND_STATUS => s.bndStatus i
  | .GRN_CAP => BitVec.ofNat 64 (s.granLimit % 2 ^ 15)
  | .GLN_CLS_STATUS => s.clsStatus i
  | .GLN_CLS_HCTL => s.clsHctl i
  | .GLN_CLS_H_TTFT => s.histRead i 1 j
  | .GLN_CLS_H_TPOT => s.histRead i 2 j
  | .GLN_CLS_H_QWAIT => s.histRead i 0 j
  | .GLN_PG_FREE => BitVec.ofNat 64 s.pgFree
  | .GLN_PG_REQ => BitVec.ofNat 64 s.pgReq
  | .GLN_PG_PFX => BitVec.ofNat 64 s.pgPfx
  | .GLN_PG_RSV => BitVec.ofNat 64 s.pgRsv
  | .GLN_MODEL_CNT => s.modelCnt i
  | .GLN_REQ_A => s.reqA i
  | .GLN_REQ_B => s.reqB i
  | .GLN_PFX_A => s.pfxA i
  | .GLN_PFX_B => s.pfxB i
  | .SIV_KICK => setFld (s.rd r i j) 63 63 (decide ((s.gmodel i).step.phase ≠ 0)).toNat
  | .RDL_CTX_STATUS => s.ctxStatus i
  | .HAY_TIME => BitVec.ofNat 64 s.time
  | .HAY_TIME_FRAME => BitVec.ofNat 64 (s.hay.frame % 2 ^ 48)
  | .PWR_STATUS => s.pwrStatus
  | .PWR_COOL => s.coolRead
  | .PWR_VIN => BitVec.ofNat 64 (fld (s.rd .LOFT_SENS 0 0) 15 0)
  | .CHF_SLOT_FILLS => s.muSum .MU_SLOT_FILLS
  | .CHF_SLOT_DRAINS => s.muSum .MU_SLOT_DRAINS
  | .CHF_SLOT_CLEARS => s.muSum .MU_SLOT_CLEARS
  | .HSP_RBC => BitVec.ofNat 64 (mget dNat s.hasp.rbc i)
  | .LOFT_SERIAL => Config.serial
  | .LOFT_MGMT_PINS => s.mgmtPins
  | .LOFT_CAL_F => (Config.calFactory i).setWidth 64
  | _ => s.rd r i j &&& ~~~(r.mask [.WO])

end Sys2Proof.Machine
end

