-- ==== Sys2Proof/Machine/Csr.lean ====
section
/-!
DEFINITION. Control and status register accesses: who may make them (R523 to R525, R555, R561), their width (R29), the access
codes (R7, R8), the lock (R9, R526), values a register refuses, and the registers whose writes do more than store; with the
rows of the command table that are writes or reads of one register.
-/
namespace Sys2Proof.Machine
open Sys2Proof

/-! ### Who may reach a register -/

/-- The core whose write this is, + 1; 0 for another agent (R226). -/
def writerOf (w : Agent) : Nat :=
  match w with
  | .core c => c.val + 1
  | _ => 0

/-- Source and instance of the record of a refused access (R508, log entry 77). -/
def recSrc (w : Agent) : Nat × Nat :=
  match w with
  | .core c => (4, c.val)
  | .func f => (5, f.val)
  | .firmware => (4, 0)
  | _ => (15, 0)

/-- The function a PL2 agent acts for (R524). -/
def State.funcOf (s : State) (w : Agent) : Option Nat :=
  match w with
  | .func f => some f.val
  | .core c => some (s.rdF .BND_CTX c 0 54 48)
  | _ => none

/-- Tile of a unit's block: CU, MU or LNK (Table 01.8). -/
def unitInst (r : Reg) (i : Nat) : Nat :=
  match r.info.sub with
  | 0 => cuInst i
  | 1 => muInst i
  | _ => i

/-- What a PL2 access reaches (R524). -/
def State.reach2 (s : State) (w : Agent) (r : Reg) (i : Nat) : Bool :=
  match r.info.sub with
  | 5 =>
    match s.funcOf w with
    | none => false
    | some f =>
      if r ∈ [Reg.HOP_FN_HMBASE, .HOP_FN_HMSIZE, .HOP_FN_BAR4, .HOP_FN_ARB] then decide (i = f)
      else decide (1 < r.info.n1) && decide (s.rdF .HOP_QP_OWNER i 0 63 63 = 1 ∧ s.qpFunc i = f)
  | 0 | 1 | 2 =>
    match w with
    | .core c => decide (1 < r.info.n1) &&
        (match s.plotOf (unitInst r i) with
         | some p => nbit (s.plotMask c) p
         | none => false)
    | _ => false
  | _ => false

/-- The ring kind of a doorbell register. -/
def ringOf (r : Reg) : Option RingKind :=
  match r with
  | .SILO_PMQ_DB => some .pm
  | .WIN_Q_DB => some .win
  | .HAY_Q_DB => some .hay
  | _ => none

/-- Whether a register's own access rule names the agent: a ring's owner, a queue pair's bound core, a model's serving core, a
core that may issue key commands (log entry 78). -/
def State.named (s : State) (w : Agent) (r : Reg) (i : Nat) : Bool :=
  match r.info.pl, w with
  | .ring, w => match ringOf r with
    | some k => s.ringMine k i w
    | none => false
  | .core, .core c => decide (c.val = s.rdF .HOP_QP_OWNER i 0 37 32)
  | .mcore, .core c => decide (c.val = s.mCore i)
  | .core2, .core c => decide (s.pl (.core c) ≤ 2)
  | _, _ => false

/-- The registers the tray manager may write (Table 18.5). -/
def trayRegs : List Reg :=
  [.PWR_CAP, .PWR_PCAP, .PWR_HB, .PWR_IDLE, .HAY_TIME_FRAME, .LOFT_RESET, .LOFT_CAL_U, .LOFT_CAL_CTL, .LOFT_CTL]

/-- Whether an agent may write instance `i` of a register (R523 to R525, R561). -/
def State.mayWrite (s : State) (w : Agent) (r : Reg) (i : Nat) : Bool :=
  if w = .tray then decide (r ∈ trayRegs)
  else
    match s.pl w with
    | 0 => if r ∈ [Reg.HOP_QP_STAGEHEAD, .HOP_QP_CPOST0, .HOP_QP_CPOST1] then s.named w r i
        else decide (r ≠ .BND_RUN ∨ 4 ≤ i ∨ w = .firmware ∨ w = .core 0)
    | 1 => (match r.info.pl with
        | .pl0 => false
        | .core | .mcore | .core2 => s.named w r i
        | _ => true)
    | 2 => (match r.info.pl with
        | .ring | .mcore | .core2 => s.named w r i
        | .core => s.named w r i && s.reach2 w r i
        | _ => decide (r.info.kind ≠ .prot) && s.reach2 w r i)
    | _ => false

/-- Whether an agent may read instance `i` of a register (R524). -/
def State.mayRead (s : State) (w : Agent) (r : Reg) (i : Nat) : Bool :=
  decide (s.pl w ≤ 1) || (decide (s.pl w = 2) && (s.reach2 w r i || s.named w r i))

/-- Whether BAR0 is closed to a function's access (R555): before Ready only the LOFT and HSP regions work. -/
def State.barClosed (s : State) (w : Agent) (a : Nat) : Bool :=
  match w with
  | .func _ => !s.isReady && decide ((a - 0xF00000000000) / 0x10000000 < 14)
  | _ => false

/-- Whether an address and width make a CSR access (R29): in CSR space, 4 or 8 bytes, naturally aligned. -/
def csrShape (a bytes : Nat) : Bool :=
  decide ((bytes = 4 ∨ bytes = 8) ∧ a % bytes = 0 ∧ 0xF00000000000 ≤ a ∧ a < 0xF00100000000)

/-- A CSR access that is none (R29): one outside CSR space is recorded (R23). -/
def State.csrBad (s : State) (w : Agent) (a : Nat) : State :=
  let t := if 0xF00000000000 ≤ a ∧ a < 0xF00100000000 then s else s.raiseProt (recSrc w).1 (recSrc w).2 a
  { t with rstat := stProt }

/-! ### The local-memory window (R218) -/

/-- The core and byte that an address of the window names. -/
def lmWindow (a : Nat) : Option (Nat × Nat) :=
  if 0xF0004F800000 ≤ a ∧ a < 0xF00050000000 then some ((a - 0xF0004F800000) / 0x20000, (a - 0xF0004F800000) % 0x20000) else none

/-- Whether the window is open: PL0, and the core halted (BND_STATUS.STATE 0 or 7). -/
def State.lmOpen (s : State) (w : Agent) (c : Nat) : Bool :=
  decide (s.pl w = 0) && decide ((s.core c).state = .halted ∨ (s.core c).state = .doubleTrap)

/-- Bytes written to a core's local memory; a 64-bit word written whole loses its poison (R506). -/
def State.lmStore (s : State) (c o : Nat) (bs : List Byte) : State :=
  let s1 := s.store .lmem (c * 0x20000 + o) bs
  if o % 8 = 0 ∧ bs.length = 8 then { s1 with mem := { s1.mem with pLm := mput dFalse s1.mem.pLm (c * 16384 + o / 8) false } } else s1

/-! ### The BARs of a function (R243, Table 08.2) -/

/-- The CSR address that an access of a function reaches: a virtual function's BAR0 holds the HOP blocks of the queue pairs and its
own function block (log entry 147); other agents name CSR space itself. -/
def barAddr (w : Agent) (a : Nat) : Nat :=
  match w with
  | .func f =>
    let o := a - 0xF00000000000
    if f.val = 0 ∨ a < 0xF00000000000 ∨ 0x8000000 ≤ o then a
    else if 0x4000000 ≤ o ∧ o < 0x4001000 then 0xF0005F010000 + 0x1000 * f.val + (o - 0x4000000)
    else 0xF00050000000 + o
  | _ => a

/-- The identity words of a function's configuration space (R241, Table 08.1), at the offsets of PCIe's header (log entry 147):
vendor and device, class and revision, subsystem vendor and subsystem. No row of the table reads configuration space. -/
def configWord (f : Fin 128) (offset : Nat) : Option (BitVec 32) :=
  if offset = 0x00 then some (if f.val = 0 then 0x06401D5A else 0x06411D5A)
  else if offset = 0x08 then some 0x12000021
  else if offset = 0x2C then some 0x640C1D5A
  else none

/-- The MSI-X table or PBA that an access names: function, whether it is the PBA, and the byte. -/
def vecWindow (w : Agent) (a : Nat) : Option (Nat × Bool × Nat) :=
  let f := match w with
    | .func f => f.val
    | _ => 0
  let t := if f = 0 then 0xF0005F100000 else 0xF00004010000
  let p := if f = 0 then 0xF0005F180000 else 0xF00004020000
  if t ≤ a ∧ a < t + 16 * vectorsOf f then some (f, false, a - t)
  else if p ≤ a ∧ a < p + (vectorsOf f + 63) / 64 * 8 then some (f, true, a - p)
  else none

/-- Whether an agent may use an MSI-X table: the function's own, or the physical function's at PL1 or above. -/
def State.vecOpen (s : State) (w : Agent) (f : Nat) : Bool := decide (f ≠ 0 ∨ s.pl w ≤ 1)

/-- Bytes read of an MSI-X table or PBA. -/
def State.vecRead (s : State) (f : Nat) (pba : Bool) (o bytes : Nat) : Word :=
  let w := fun k => (if pba then s.pbaWord f k else s.vecWord f k).setWidth 64
  w (o / 4) ||| (if bytes = 8 then w (o / 4 + 1) <<< 32 else 0)

/-- Bytes written to an MSI-X table; the PBA is read-only. -/
def State.vecWrite (s : State) (f : Nat) (pba : Bool) (o bytes : Nat) (v : Word) : State :=
  if pba then s
  else
    let s1 := s.setVec f (o / 4) (v.setWidth 32)
    if bytes = 8 then s1.setVec f (o / 4 + 1) ((v >>> 32).setWidth 32) else s1

/-! ### Reading -/

/-- The value a CSR access of `bytes` bytes at `a` reads (R7, R29, R30). -/
def State.csrValue (s : State) (a bytes : Nat) : Word :=
  match Reg.ofAddr a with
  | none => 0
  | some (r, i, j, o) =>
    if r.info.width = 4 then
      s.regRead r i j ||| (if bytes = 8 then s.regRead r i (j + 1) <<< 32 else 0)
    else if bytes = 8 then s.regRead r i j
    else (s.regRead r i j >>> (8 * o)) &&& 0xFFFFFFFF

/-- A CSR read: the value goes to `rdata` and its status to `rstat`. A read of HSP_DBG_CHAL0 draws a fresh nonce first
(R548); the free levels of LOFT_MGMT_PINS are drawn anew each time. -/
def State.csrRead (s : State) (w : Agent) (a bytes : Nat) : State :=
  if !csrShape a bytes then { s.csrBad w a with rdata := 0 }
  else if let some (c, o) := lmWindow a then
    if s.lmOpen w c ∧ !s.barClosed w a then { s with rdata := BitVec.ofNat 64 (s.loadNat .lmem (c * 0x20000 + o) bytes), rstat := stOK }
    else { s.raiseProt (recSrc w).1 (recSrc w).2 a with rdata := 0, rstat := stProt }
  else if let some (f, p, o) := vecWindow w a then
    { s with rdata := if s.vecOpen w f ∧ !s.barClosed w (barAddr w a) then s.vecRead f p o bytes else 0, rstat := stOK }
  else
    let a := barAddr w a
    let open_ := match Reg.ofAddr a with
      | none => true
      | some (r, i, _, _) => s.mayRead w r i
    if s.barClosed w a ∨ !open_ then { s with rdata := 0, rstat := stOK }
    else
      match Reg.ofAddr a with
      | some (.HSP_DBG_CHAL, 0, _, 0) =>
        let t := s.challenge
        { t with rdata := t.csrValue a bytes, rstat := stOK }
      | some (.LOFT_MGMT_PINS, _, _, _) => { s with rdata := s.csrValue a bytes, rstat := stOK, free := s.free + 1 }
      | _ => { s with rdata := s.csrValue a bytes, rstat := stOK }

/-! ### Values that a register refuses -/

/-- Field [hi:lo] of `old` kept in `new` when `bad`. -/
def keepIf (bad : Prop) [Decidable bad] (old new : Word) (hi lo : Nat) : Word :=
  if bad then setFld new hi lo (fld old hi lo) else new

/-- What a plain register takes of a new value: fields outside their range keep their value, some values leave the whole
register as it is, and some are refused with PROTECTION_FAULT (the register maps of the chapters; log entry 79). -/
def State.plainRule (s : State) (r : Reg) (i : Nat) (old new : Word) : Except Nat Word :=
  match r with
  | .LNK_CWY_CTL => .ok (keepIf (fld new 4 0 < 12 ∨ 30 < fld new 4 0) old new 4 0)
  | .SEED_CTL =>
    let a := keepIf (fld new 47 32 = 0) old new 47 32
    let b := keepIf (fld new 23 16 = 0 ∨ 64 < fld new 23 16) old a 23 16
    .ok (keepIf (10 < fld new 3 0) old b 3 0)
  | .BND_CTL => .ok (keepIf (fld new 4 0 < 14 ∨ 30 < fld new 4 0) old new 4 0)
  | .HOP_QP_CFG | .HOP_QP_SQBASE | .HOP_QP_CQBASE => .ok (if s.qpState i = 0 then new else old)
  | .SILO_SCRUB => .ok (keepIf (fld new 7 0 = 0) old new 7 0)
  | .SILO_CACHE => if bit old 63 ∧ new ≠ old then .error stProt else .ok new
  | .GRN_CTL =>
    let a := keepIf (fld new 25 16 < 50 ∨ 800 < fld new 25 16) old new 25 16
    .ok (keepIf (fld new 5 0 = 0) old a 5 0)
  | .WIN_CTL =>
    let a := keepIf (fld new 13 8 = 0 ∨ 32 < fld new 13 8) old new 13 8
    .ok (keepIf (fld new 5 0 = 0) old a 5 0)
  | .WIN_RING => .ok (if (List.range 32).any fun k => decide (fld new (2 * k + 1) (2 * k) = 3) then old else new)
  | .WIN_MODEL_A =>
    let x := s.wmodel i
    .ok (if !bit new 63 ∧ (x.cur.isSome ∨ x.pend.isSome ∨ x.rets ≠ []) then old else new)
  | .GLN_CTL => .ok (keepIf (fld new 31 16 = 0) old new 31 16)
  | .GLN_POOL | .GLN_PTAB | .SIV_AREA => if s.reqHeld ≠ [] ∨ s.pfxHeld ≠ [] then .error stProt else .ok new
  | .GLN_MODEL_A =>
    let pt := s.rdF .GLN_MODEL_B i 0 63 48
    let pl := s.rdF .GLN_MODEL_D i 0 31 27
    let bad := fld new 59 54 < 4 ∨ pt ∉ [16, 32, 64, 128, 256, 512, 1024, 2048, 4096] ∨ s.mPPB i = 0 ∨ pl < 12 ∨ 18 < pl
    let b := fld new 31 16
    if fld new 62 61 = 3 ∨ (bit new 63 ∧ bad) then .ok old
    else .ok (keepIf (b ≠ 0 ∧ (b < 256 ∨ b % 16 ≠ 0)) old new 31 16)
  | .SIV_MODEL_A =>
    let k := fld new 59 56
    let big := 65536 < s.rdF .GLN_MODEL_B i 0 63 48 * ((fld new 9 0 + 1) * 64)
    .ok (if fld new 63 62 = 3 ∨ (fld new 63 62 = 2 ∧ (k = 0 ∨ 8 < k)) ∨ big then old else new)
  | .RDL_CTX_CFG =>
    if s.ctxJobs i ≠ [] then .error stProt
    else .ok (if fld new 62 57 < 4 ∨ fld new 50 39 < fld new 38 27 then old else new)
  | .RDL_CTL => .ok (keepIf (fld new 15 0 < 100 ∨ 50000 < fld new 15 0) old new 15 0)
  | .HAY_PORT_BUF0 | .HAY_PORT_BUF1 =>
    let sum := fun (v : Word) n => (List.range n).foldl (fun a k => a + fld v (12 * k + 11) (12 * k)) 0
    let total := if r = .HAY_PORT_BUF0 then sum new 5 + sum (s.rd .HAY_PORT_BUF1 i 0) 4 else sum (s.rd .HAY_PORT_BUF0 i 0) 5 + sum new 4
    .ok (if s.hstate i = 6 ∨ 2048 < total then old else new)
  | .HAY_PORT_RING => .ok (keepIf (fld new 53 48 = 0 ∨ 16 < fld new 53 48) old new 53 48)
  | .HAY_CTL =>
    let a := keepIf (fld new 47 32 = 0) old new 47 32
    .ok (keepIf (fld new 15 0 = 0) old a 15 0)
  | .HAY_TIME_CTL =>
    let a := keepIf (sfld new 47 32 < -5000 ∨ 5000 < sfld new 47 32) old new 47 32
    .ok (keepIf (1 < fld new 1 0) old a 1 0)
  | .PWR_CAP =>
    let a := keepIf (3600 < fld new 47 32) old new 47 32
    let b := keepIf (3600 < fld new 31 16) old a 31 16
    .ok (keepIf (3600 < fld new 15 0) old b 15 0)
  | .PWR_DVFS => .ok (if 20 < fld new 20 16 ∨ fld new 20 16 < fld new 4 0 then old else new)
  | .PWR_PCAP => .ok (keepIf (3600 < fld new 15 0) old new 15 0)
  | .PWR_THERM => .ok (keepIf (fld new 7 0 < 85 ∨ 100 < fld new 7 0) old new 7 0)
  | .CHF_CTL =>
    let a := keepIf (1032 ≤ fld new 58 48) old new 58 48
    let b := keepIf (fld new 31 16 = 0) old a 31 16
    .ok (keepIf (fld new 9 0 = 0) old b 9 0)
  | .CHF_RING_HEAD => .ok (if (s.rd .CHF_RING_TAIL 0 0).toNat < new.toNat then old else new)
  | _ => .ok new

/-! ### Writing -/

/-- The value the access codes give (R7, R8): `v` is the value in place, `m` the bits the access covers, `set` the bits that
hardware sets in the same cycle. -/
def codeValue (r : Reg) (old v m set : Word) : Word :=
  let rw := r.mask [.RW, .RWL, .RWS, .WO] &&& m
  let c := r.mask [.W1C] &&& m &&& v
  let one := r.mask [.W1S] &&& m &&& v
  ((old &&& ~~~rw ||| v &&& rw) &&& ~~~c) ||| (c &&& set) ||| one

/-- A write to a plain register. -/
def State.plainWrite (s : State) (r : Reg) (i j : Nat) (v m set : Word) : State :=
  let old := s.rd r i j
  match s.plainRule r i old (codeValue r old v m set) with
  | .ok w => { s.wr r i j w with rstat := stOK }
  | .error st => { s with rstat := st }

/-- BND_RUN (Table 07.12): a write of 1 to GO starts a halted core that is not fenced in monitor mode at PC; a write of 0 halts a
running core. `go`: whether the access covers GO. -/
def State.runWrite (s : State) (c : Nat) (v : Word) (go : Bool) : State :=
  let s1 := s.wr .BND_RUN c 0 (setFld (v &&& Reg.mask .BND_RUN [.RW]) 1 0 0)
  let k := s1.core c
  let idle := decide (k.state = .halted ∨ k.state = .doubleTrap)
  if !go then s1
  else if bit v 63 then
    if idle ∧ !s.isFenced 9 c then s1.setCore c { k with state := .running, monitor := true, pc := fld v 16 0 / 4 * 4 } else s1
  else if idle then s1
  else s1.setCore c { k with state := .halted }

/-- Bounds of a user calibration offset (Table 18.7); an index with no item holds 0. -/
def calBounds (i : Nat) : Int × Int :=
  match i with
  | 0 => (0, 50)
  | 1 => (0, 20)
  | 2 => (-100, 0)
  | 3 => (-500, 0)
  | 4 => (0, 30)
  | 5 => (-500, 500)
  | 6 => (-5000, 5000)
  | i => if 16 ≤ i ∧ i ≤ 271 then (-8, 8) else if 272 ≤ i ∧ i ≤ 527 then (-16, 16) else (0, 0)

/-- LOFT_CAL_Ui (R566, R567): clamped, with CLAMPED; item 6 goes to HAY_TIME_CTL.ASYM. -/
def State.calWrite (s : State) (i : Nat) (v : Word) : State :=
  let x := sfld v 31 0
  let b := calBounds i
  let y := max b.1 (min b.2 x)
  let s1 := s.wr .LOFT_CAL_U i 0 (setFld (BitVec.ofInt 64 y &&& 0xFFFFFFFF) 63 63 (decide (x ≠ y)).toNat)
  if i = 6 then s1.asymApply else s1

/-- LOFT_CAL_CTL.SAVE and REVERT (R567). A write of both saves the table and then reverts it (log entry 80). -/
def State.calSave (s : State) : State :=
  s.setLoft { s.loft with calSaved := (List.range 528).foldl (fun m i => mput dWord m i (s.rd .LOFT_CAL_U i 0)) [] }
def State.calRevert (s : State) : State := ((List.range 528).foldl (fun a i => a.wr .LOFT_CAL_U i 0 0) s).asymApply

/-- GLN_CLS_HCTL.SWAP (R372): the swap waits while a step of any model is planned or in flight. -/
def State.swapWrite (s : State) (c : Nat) : State :=
  if s.anyStep then { s with gln := { s.gln with swap := mput dFalse s.gln.swap c true } } else s.swapBank c

/-- HAY_PORT_CTL (Table 14.8): EN, then ACCEPT and RETRAIN. -/
def State.portWrite (s : State) (p : Nat) (v m : Word) : State :=
  let old := s.rd .HAY_PORT_CTL p 0
  let s1 := if bit m 63 then (s.wrF .HAY_PORT_CTL p 0 63 63 (fld v 63 63)) else s
  let s2 := if bit m 63 ∧ (bit v 63 ≠ bit old 63 ∨ bit v 63) then s1.hayEnable p (bit v 63) else s1
  let s3 := if bit (v &&& m) 8 then s2.hayAccept p else s2
  if bit (v &&& m) 0 then s3.hayRetrain p else s3

/-- Outcome of an operation, as the state with its status. -/
def withStat (x : State × Nat) : State := { x.1 with rstat := x.2 }

/-- A write to a register that does more than store. `v` is the value merged with the register's own where the access covers
only part of it, `m` the bits the access covers, `set` those that hardware sets in the same cycle, which win over a clear (R8). -/
def State.rowWrite (s : State) (w : Agent) (r : Reg) (i j : Nat) (v m set : Word) : State :=
  let one := v &&& m
  match r with
  | .CU_SR_SEED => s.crossPut 0 (.seed i (v.setWidth 32) (writerOf w))
  | .MU_SLOTFAULT => if bit set 63 then s.wrF r i j 63 63 1 else if bit one 63 then s.wr r i j 0 else s
  | .SEED_LOAD_FAULT => if bit set 63 then s.wrF r i j 63 63 1 else if bit one 63 then s.wr r i j 0 else s
  | .MU_WIN => s.writeWin i j v (writerOf w)
  | .SEED_PLOT_PREEMPT => s.preemptWrite i v
  | .BND_RUN => s.runWrite i v (bit m 63)
  | .HOP_QP_CFG | .HOP_QP_MOD => (s.plainWrite r i j v m set).moderate i
  | .HOP_QP_CTL => if bit one 0 = bit one 1 then s else if bit one 0 then s.qpEnable i else s.qpDisable i
  | .HOP_QP_STAGEHEAD => s.stageHead i v
  | .HOP_QP_CPOST1 => s.cpost i one
  | .SILO_PMQ_DB => s.ringBell .pm i one
  | .WIN_Q_DB => s.ringBell .win i one
  | .HAY_Q_DB => s.ringBell .hay i one
  | .GRN_PORT_CTL => if bit one 0 then s.gretrain i else s
  | .GLN_CLS_HCTL => if bit one 0 then s.swapWrite i else s
  | .SIV_KICK => match execSivKick w (Fin.ofNat 256 i) v s with
    | .next t => t
    | _ => s
  | .SIV_TREE => match s.treeWrite i j v with
    | some t => t
    | none => { s.raiseProt 9 i (Reg.addr .SIV_TREE i j) with rstat := stProt }
  | .HAY_PORT_CTL => s.portWrite i v m
  | .HAY_TIME_FRAME => s.writeFrame v
  | .PWR_HB => s.heartbeat
  | .PWR_IDLE => s.idleWrite v
  | .CHF_RING_CFG => s.ringCfgWrite v
  | .CHF_FMAP_A => withStat (s.pendClear i one)
  | .HSP_LOCK => if bit one 0 then (s.wr .HSP_LOCK 0 0 1).wrF .HSP_STATUS 0 0 48 48 1 else s
  | .HSP_KCMD => match w with
    | .core c => if s.haspUp then s.keyCmd (.core c (fld one 24 0)) none else s
    | .firmware => if s.haspUp then s.keyCmd (.core 0 (fld one 24 0)) none else s
    | _ => s
  | .HSP_DBG_RESP =>
    let s1 := s.setHasp { s.hasp with resp := mput dWord s.hasp.resp i v }
    if i = 8 ∧ bit m 63 then withStat s1.unlockRegs else s1
  | .LOFT_RESET => s.loftReset one
  | .LOFT_CAL_CTL =>
    let s1 := if bit one 0 then s.calSave else s
    if bit one 1 then s1.calRevert else s1
  | .LOFT_CAL_U => s.calWrite i v
  | _ => s

/-- The stored word that a write of part of a register merges with. -/
def State.mergeOld (s : State) (r : Reg) (i j : Nat) : Word :=
  match r with
  | .HSP_DBG_RESP => mget dWord s.hasp.resp i
  | .HAY_TIME_FRAME => BitVec.ofNat 64 s.hay.frame
  | r => s.rd r i j

/-- A write that passed its checks. `now`: a protection-table write is carried to its completion (R528); otherwise it waits
in the hasp for PROTECTION_WRITE_COMPLETE. -/
def State.regWrite (s : State) (w : Agent) (r : Reg) (i j : Nat) (v m set : Word) (now : Bool) : State :=
  match r.info.kind with
  | .plain => s.plainWrite r i j v m set
  | .prot => if now then s.protWrite r i j v m (writerOf w) else s.protQueue r i j v m (writerOf w)
  | .row => s.rowWrite w r i j ((s.mergeOld r i j &&& ~~~m) ||| (v &&& m)) m set
  | .view => if r = .BND_STATUS ∧ bit (v &&& m) 8 ∧ !bit set 8 then s.cqResume i else s

/-- Whether the lock refuses a write (R9, R526). -/
def State.lockedOut (s : State) (r : Reg) : Bool :=
  decide (s.rdF .HSP_STATUS 0 0 48 48 = 1) && r.info.fields.any fun f => decide (f.acc = .RWL)

/-- A write of the bits `m` of word `j` of instance `i` of a register, reached at local address `a`: the checks, then the write.
Its status goes to `rstat`. -/
def State.checkedWrite (s : State) (w : Agent) (a : Nat) (r : Reg) (i j : Nat) (v m set : Word) (now : Bool) : State :=
  if s.barClosed w a then { s with rstat := stOK }
  else if !s.mayWrite w r i || s.lockedOut r then { s.raiseProt (recSrc w).1 (recSrc w).2 a with rstat := stProt }
  else ({ s with rstat := stOK }).regWrite w r i j v m set now

/-- A CSR write of `bytes` bytes at local address `a`. -/
def State.csrWrite (s : State) (w : Agent) (a bytes : Nat) (v set : Word) (now : Bool) : State :=
  if !csrShape a bytes then s.csrBad w a
  else if let some (c, o) := lmWindow a then
    if s.lmOpen w c ∧ !s.barClosed w a then { s.lmStore c o (natToBytes bytes v.toNat) with rstat := stOK }
    else { s.raiseProt (recSrc w).1 (recSrc w).2 a with rstat := stProt }
  else if let some (f, p, o) := vecWindow w a then
    if s.barClosed w (barAddr w a) then { s with rstat := stOK }
    else if s.vecOpen w f then { s.vecWrite f p o bytes v with rstat := stOK }
    else { s.raiseProt (recSrc w).1 (recSrc w).2 a with rstat := stProt }
  else
    let a := barAddr w a
    match Reg.ofAddr a with
    | none => { s with rstat := stOK }
    | some (r, i, j, o) =>
      let sh := if bytes = 8 then 0 else 8 * o
      let m : Word := if bytes = 8 then BitVec.allOnes 64 else 0xFFFFFFFF <<< sh
      s.checkedWrite w a r i j (v <<< sh) m (set <<< sh) now

/-- An 8-byte write of one register by a row that names it. -/
def State.write8 (s : State) (w : Agent) (r : Reg) (i j : Nat) (v : Word) : State :=
  s.checkedWrite w (r.addr i j) r i j v (BitVec.allOnes 64) 0 true

/-! ### The rows -/

/-- RC_READ (R7, R8): a read of a register; no register of the map has an RC field, so nothing is cleared, and `set`, what
hardware sets in the cycle of the read, reads as 1 afterwards in the W1C fields. -/
def execRcRead (who : Agent) (addr : BitVec 48) (bytes : Nat) (set : BitVec 64) (s : State) : Out :=
  let t := s.csrRead who addr.toNat bytes
  .next (match Reg.ofAddr (barAddr who addr.toNat) with
    | some (r, i, j, 0) => if set &&& r.mask [.RC] = 0 then t else t.wr r i j ((t.rd r i j &&& ~~~(r.mask [.RC])) ||| (set &&& r.mask [.RC]))
    | _ => t)

/-- REGISTER_WRITE (R7). -/
def execRegisterWrite (who : Agent) (addr : BitVec 48) (bytes : Nat) (value set : BitVec 64) (s : State) : Out :=
  .next (s.csrWrite who addr.toNat bytes value set false)

/-- PROTECTION_TABLE_WRITE (R527): the write waits for every checker. -/
def execProtectionTableWrite (who : Agent) (addr : BitVec 48) (bytes : Nat) (value : BitVec 64) (s : State) : Out :=
  .next (s.csrWrite who addr.toNat bytes value 0 false)

/-- LOCAL_MEMORY_WINDOW_ACCESS (R218). -/
def execLocalMemoryWindowAccess (who : Agent) (core : Fin 64) (off : BitVec 17) (acc : WinAcc) (s : State) : Out :=
  let a := 0xF0004F800000 + 0x20000 * core.val + off.toNat
  .next (match acc with
    | .read n => s.csrRead who a n
    | .write bs => s.csrWrite who a bs.length (BitVec.ofNat 64 (bytesToNat bs)) 0 true)

/-- MU_SLOTFAULT_CLEAR (Table 04.11). -/
def execMuSlotfaultClear (who : Agent) (unit : Fin 16896) (s : State) : Out :=
  .next (s.write8 who .MU_SLOTFAULT unit 0 0x8000000000000000)

/-- WINDOW_CLOSE (R146): OPEN is written 0; the other fields keep their values. -/
def execWindowClose (who : Agent) (unit : Fin 16896) (win : Fin 8) (s : State) : Out :=
  .next (s.write8 who .MU_WIN unit win (setFld (s.rd .MU_WIN unit win) 63 63 0))

/-- SEED_PLOT_BOUNDS_WRITE (R200 to R202). -/
def execSeedPlotBoundsWrite (who : Agent) (plot : Fin 16) (value : BitVec 64) (s : State) : Out :=
  .next (s.write8 who .SEED_PLOT_BOUNDS plot 0 value)

/-- PREEMPT_SAVE (R209 to R211): GO with OP 1; `value` gives the deadline. -/
def execPreemptSave (who : Agent) (plot : Fin 16) (value : BitVec 64) (s : State) : Out :=
  .next (s.write8 who .SEED_PLOT_PREEMPT plot 0 (setFld (setFld value 63 63 1) 59 58 1))
/-- PREEMPT_RESTORE (R212): GO with OP 2. -/
def execPreemptRestore (who : Agent) (plot : Fin 16) (value : BitVec 64) (s : State) : Out :=
  .next (s.write8 who .SEED_PLOT_PREEMPT plot 0 (setFld (setFld value 63 63 1) 59 58 2))
/-- PREEMPT_WITHDRAW (R211): GO with OP 3. -/
def execPreemptWithdraw (who : Agent) (plot : Fin 16) (value : BitVec 64) (s : State) : Out :=
  .next (s.write8 who .SEED_PLOT_PREEMPT plot 0 (setFld (setFld value 63 63 1) 59 58 3))

/-- SEED_LOAD_FAULT_CLEAR (Table 06.16). -/
def execSeedLoadFaultClear (who : Agent) (s : State) : Out := .next (s.write8 who .SEED_LOAD_FAULT 0 0 0x8000000000000000)

/-- BND_RUN_START (Table 07.12). -/
def execBndRunStart (who : Agent) (core : Fin 64) (pc : BitVec 17) (s : State) : Out :=
  .next (s.write8 who .BND_RUN core 0 (setFld (pc.setWidth 64) 63 63 1))
/-- BND_RUN_HALT (Table 07.12): GO 0, PC kept. -/
def execBndRunHalt (who : Agent) (core : Fin 64) (s : State) : Out :=
  .next (s.write8 who .BND_RUN core 0 (setFld (s.rd .BND_RUN core 0) 63 63 0))

/-- QP_ENABLE, QP_DISABLE (R249, Table 08.4). -/
def execQpEnable (who : Agent) (q : Fin 16384) (s : State) : Out := .next (s.write8 who .HOP_QP_CTL q 0 1)
def execQpDisable (who : Agent) (q : Fin 16384) (s : State) : Out := .next (s.write8 who .HOP_QP_CTL q 0 2)

/-- QP_OWNER_WRITE (R262). -/
def execQpOwnerWrite (who : Agent) (q : Fin 16384) (value : BitVec 64) (s : State) : Out :=
  .next (s.write8 who .HOP_QP_OWNER q 0 value)

/-- CPOST (R252): the write of HOP_QP_CPOST1. -/
def execCpost (who : Agent) (q : Fin 16384) (value : BitVec 64) (s : State) : Out :=
  .next (s.write8 who .HOP_QP_CPOST1 q 0 value)

/-- STAGEHEAD_WRITE (R252). -/
def execStageheadWrite (who : Agent) (q : Fin 16384) (value : BitVec 64) (s : State) : Out :=
  .next (s.write8 who .HOP_QP_STAGEHEAD q 0 value)

/-- PMQ_TAIL_DOORBELL and PMQ_HEAD_DOORBELL (R277). -/
def execPmqTailDoorbell (who : Agent) (ring : Fin 64) (index : BitVec 16) (s : State) : Out :=
  .next (s.write8 who .SILO_PMQ_DB ring 0 (index.setWidth 64))
def execPmqHeadDoorbell (who : Agent) (ring : Fin 64) (index : BitVec 16) (s : State) : Out :=
  .next (s.write8 who .SILO_PMQ_DB ring 0 (setFld (index.setWidth 64) 32 32 1))

/-- PMQ_ENABLE and PMQ_DISABLE (R589): SILO_PMQ_CFG with EN 1 and with EN 0. -/
def execPmqEnable (who : Agent) (ring : Fin 64) (value : BitVec 64) (s : State) : Out :=
  .next (s.write8 who .SILO_PMQ_CFG ring 0 (setFld value 63 63 1))
def execPmqDisable (who : Agent) (ring : Fin 64) (value : BitVec 64) (s : State) : Out :=
  .next (s.write8 who .SILO_PMQ_CFG ring 0 (setFld value 63 63 0))

/-- GRANARY_RETRAIN (Table 09.17). -/
def execGranaryRetrain (who : Agent) (port : Fin 4) (s : State) : Out := .next (s.write8 who .GRN_PORT_CTL port 0 1)

/-- WIN_RING_DOORBELL (R589). -/
def execWinRingDoorbell (who : Agent) (ring : Fin 16) (value : BitVec 64) (s : State) : Out :=
  .next (s.write8 who .WIN_Q_DB ring 0 value)
/-- HAY_RING_DOORBELL (R589). -/
def execHayRingDoorbell (who : Agent) (ring : Fin 16) (value : BitVec 64) (s : State) : Out :=
  .next (s.write8 who .HAY_Q_DB ring 0 value)

/-- HISTOGRAM_SWAP (R372). -/
def execHistogramSwap (who : Agent) (cls : Fin 16) (value : BitVec 64) (s : State) : Out :=
  .next (s.write8 who .GLN_CLS_HCTL cls 0 value)

/-- SIV_TREE_WRITE (R405). -/
def execSivTreeWrite (who : Agent) (model : Fin 256) (node : Fin 64) (value : BitVec 64) (s : State) : Out :=
  .next (s.write8 who .SIV_TREE model node value)

/-- PORT_ENABLE (Table 14.8): EN written, with ACCEPT and RETRAIN 0. -/
def execPortEnable (who : Agent) (port : Fin 24) (on : Bool) (s : State) : Out :=
  .next (s.write8 who .HAY_PORT_CTL port 0 (setFld 0 63 63 on.toNat))
/-- ACCEPT (R443): EN keeps its value. -/
def execAccept (who : Agent) (port : Fin 24) (s : State) : Out :=
  .next (s.write8 who .HAY_PORT_CTL port 0 (setFld (s.rd .HAY_PORT_CTL port 0) 8 8 1))
/-- RETRAIN (Table 14.8): EN keeps its value. -/
def execRetrain (who : Agent) (port : Fin 24) (s : State) : Out :=
  .next (s.write8 who .HAY_PORT_CTL port 0 (setFld (s.rd .HAY_PORT_CTL port 0) 0 0 1))
/-- EXPECT_WRITE (R442). -/
def execExpectWrite (who : Agent) (port : Fin 24) (value : BitVec 64) (s : State) : Out :=
  .next (s.write8 who .HAY_PORT_EXPECT port 0 value)
/-- HAY_TIME_FRAME_WRITE (R466). -/
def execHayTimeFrameWrite (who : Agent) (value : BitVec 64) (s : State) : Out := .next (s.write8 who .HAY_TIME_FRAME 0 0 value)

/-- HEARTBEAT (R486): any write of PWR_HB. -/
def execHeartbeat (who : Agent) (s : State) : Out := .next (s.write8 who .PWR_HB 0 0 0)
/-- DEEP_IDLE_REQUEST and DEEP_IDLE_EXIT (R494, R495). -/
def execDeepIdleRequest (who : Agent) (s : State) : Out := .next (s.write8 who .PWR_IDLE 0 0 2)
def execDeepIdleExit (who : Agent) (s : State) : Out := .next (s.write8 who .PWR_IDLE 0 0 0)

/-- FENCE_PENDING_CLEAR (R517). -/
def execFencePendingClear (who : Agent) (i : Fin 65536) (s : State) : Out :=
  .next (s.write8 who .CHF_FMAP_A i 0 0x4000000000000000)
/-- RING_ENABLE (R511): CHF_RING_CFG with EN 1. -/
def execRingEnable (who : Agent) (value : BitVec 64) (s : State) : Out :=
  .next (s.write8 who .CHF_RING_CFG 0 0 (setFld value 63 63 1))

/-- HSP_LOCK (R526). -/
def execHspLock (who : Agent) (value : BitVec 64) (s : State) : Out := .next (s.write8 who .HSP_LOCK 0 0 value)
/-- DEBUG_CHALLENGE (R548): a read of HSP_DBG_CHAL0. -/
def execDebugChallenge (who : Agent) (s : State) : Out := .next (s.csrRead who (Reg.addr .HSP_DBG_CHAL 0 0) 8)
/-- DEBUG_UNLOCK (R548): the write of HSP_DBG_RESP8. -/
def execDebugUnlock (who : Agent) (value : BitVec 64) (s : State) : Out := .next (s.write8 who .HSP_DBG_RESP 8 0 value)

/-- SENSOR-side rows of the loft: CAL_SAVE and CAL_REVERT (R567). -/
def execCalSave (who : Agent) (s : State) : Out := .next (s.write8 who .LOFT_CAL_CTL 0 0 1)
def execCalRevert (who : Agent) (s : State) : Out := .next (s.write8 who .LOFT_CAL_CTL 0 0 2)
/-- CALIBRATION_WRITE (R566). -/
def execCalibrationWrite (who : Agent) (item : Fin 528) (value : BitVec 32) (s : State) : Out :=
  .next (s.write8 who .LOFT_CAL_U item 0 (value.setWidth 64))

end Sys2Proof.Machine
end

