-- ==== Sys2Proof/Machine/Cartway.lean ====
section
/-!
DEFINITION. The cartway (R171 to R182): the way of a packet from node to node, arbitration at node outputs and ejections, what a
packet does where it arrives, and requests whose response does not come.
-/
namespace Sys2Proof.Machine
open Sys2Proof

/-! ### Ways -/

def nodeX (n : Nat) : Nat := n / 256
def nodeY (n : Nat) : Nat := n % 256

/-- The output by which a packet leaves node `n` for node `d` (R173): requests go first in Y, responses first in X; 0 at the
destination, 2 north, 3 east, 4 south, 5 west (Table 05.8). -/
def cwOut (resp : Bool) (n d : Nat) : Nat :=
  let v := if nodeY d < nodeY n then 2 else if nodeY n < nodeY d then 4 else 0
  let h := if nodeX n < nodeX d then 3 else if nodeX d < nodeX n then 5 else 0
  if resp then (if h ≠ 0 then h else v) else (if v ≠ 0 then v else h)

/-- The node an output leads to. -/
def cwNext (n out : Nat) : Nat :=
  match out with
  | 2 => n - 1
  | 3 => n + 256
  | 4 => n + 1
  | 5 => n - 256
  | _ => n

/-- The input of the next node at which a packet arrives that left by an output: from the north when it went south. -/
def cwSide (out : Nat) : Nat := if out = 0 then 0 else (out - 2 + 2) % 4 + 2

/-- Memory unit `b` of the two bins that a stop serves: the lower row first (R171). -/
def stopUnit (n b : Nat) : Nat :=
  let d := (nodeY n - 1) / 33 * 2 + (nodeX n - 1) / 64
  d * 4224 + (2 * ((nodeY n - 1) % 33) + b % 2) * 64 + (nodeX n - 1) % 64

/-- Local address that a packet carries (R26). -/
def hdrLocal (h : BitVec 256) : Nat := hdrAddr h % 2 ^ 48

/-- The bin that a packet's address names, as (which of its stop's two, offset). -/
def State.hdrBin (s : State) (h : BitVec 256) : Option (Nat × Nat) :=
  match s.locate .firmware (hdrLocal h) 1 with
  | .ok (.bin u o) => some (u / 64 % 2, o)
  | _ => none

/-- The local input by which a packet enters the cartway at its source (Table 05.8): a bin's request by its requester (log entry
141), a bin's response by the bin that its address names, else input 0. -/
def State.cwLocal (s : State) (h : BitVec 256) : Nat :=
  if nodeKind (hdrSrc h) ≠ .stop then 0
  else if isResponse h then ((s.hdrBin h).map (·.1)).getD 0 else hdrSreq h / 4 % 2

/-- The nodes between a packet's source and its destination, each with the input at which it arrives (R173). -/
def cwWay (resp : Bool) (d : Nat) : Nat → Nat → Nat → List (Nat × Nat)
  | 0, _, _ => []
  | f + 1, n, inp => (n, inp) :: (if cwOut resp n d = 0 then [] else cwWay resp d f (cwNext n (cwOut resp n d)) (cwSide (cwOut resp n d)))

/-- The input of a node at which a packet stands on its way; none of a node that is not on it. -/
def State.cwInput (s : State) (h : BitVec 256) (node : Nat) : Option Nat :=
  ((cwWay (isResponse h) (hdrDst h) 512 (hdrSrc h) (s.cwLocal h)).find? fun p => decide (p.1 = node)).map (·.2)

/-- Whether a packet is bound for the node that serves what it names (R172): the edge node of a silo address, the stop of a bin, the
hub; an array register's node is any stop, and a response goes back to its requester. -/
def State.cwBound (s : State) (h : BitVec 256) : Bool :=
  match nodeKind (hdrDst h) with
  | .silo k => !isResponse h && decide (hdrLocal h < 0xA000000000 ∧ siloStack (hdrLocal h) = k ∧ siloNode k (hdrLocal h) = hdrDst h)
  | .stop =>
    isResponse h || decide (7 ≤ hdrType h) ||
      (match s.hdrBin h with
        | some (b, _) => decide (unitOfLbin (s.rd .SEED_REMAP 0 0) ((hdrLocal h - 0x010000000000) / 0x40000) = some (stopUnit (hdrDst h) b))
        | none => false)
  | .hub => true
  | .none => false

/-- The plot a packet is charged to (R213, Table 05.7). -/
def State.cwPlot (s : State) (h : BitVec 256) : Option Nat :=
  if nbit (hdrCtx h) 4 then s.slicePlot (hdrCtx h % 16) else some (hdrCtx h % 16)

/-- The sender a packet names (R532, Table 05.7). -/
def hdrSender (h : BitVec 256) : Sender :=
  let n := plotFin (hdrCtx h)
  if nbit (hdrCtx h) 4 then .slice n else .plot n

/-! ### Requests of bins -/

/-- The bin's request that a packet belongs to: memory unit, generator and request, by requester, tag and epoch (Table 05.7). -/
def State.cwReq (s : State) (node : Nat) (h : BitVec 256) : Option (Nat × Nat × BinReq) :=
  if nodeKind node ≠ .stop then none
  else
    let u := stopUnit node (hdrSreq h / 4)
    ((s.gen u (hdrSreq h % 4)).reqs.find? fun r => decide (r.id % 1024 = hdrTag h ∧ r.epoch = hdrEpoch h)).map
      fun r => (u, hdrSreq h % 4, r)

/-- A bin's request has met a detected error (R130): it is repeated once, and fails for good the second time. A stale one is
dropped (R124). -/
def State.reqError (s : State) (u g : Nat) (r : BinReq) : State :=
  if r.epoch ≠ (s.gen u g).epoch then
    let t := s.dropReq u g r.id
    if r.data = [] then t.inc .MU_FETCH_FAIL_BYTES u 0 r.len else t
  else if r.repeated then s.reqFailed u g r 0x0201 sevLasting
  else s.repeatReq u g r

/-- The state after a command's effect. -/
def nextOr (s : State) : Out → State
  | .next t => t
  | _ => s

/-- A response that reaches its requester (R124, R130, R179): one to a request that is no longer outstanding is discarded. -/
def State.cwResponse (s : State) (node : Nat) (k : CwPkt) : State :=
  match s.cwReq node k.hdr with
  | none => s
  | some (u, g, r) =>
    if u < 16896 ∧ g < 4 then
      let uf : Fin 16896 := Fin.ofNat 16896 u
      let gf : Fin 4 := Fin.ofNat 4 g
      let res : Resp :=
        if hdrType k.hdr = 4 then
          (if hdrStatus k.hdr = stProt ∨ hdrStatus k.hdr = 0x0204 then .refused (BitVec.ofNat 16 (hdrStatus k.hdr)) else .error)
        else if hdrType k.hdr = 1 then .data k.bytes else .ok
      if r.data = [] then nextOr s (execFetchResponse uf gf r.id r.epoch res [] s) else nextOr s (execFlushAck uf gf r.id r.epoch res s)
    else s

/-! ### Checks of a packet -/

/-- An undefined TYPE, a nonzero reserved field, or a count of payload flits above 8 (R174, R175; log entry 141). -/
def hdrBad (h : BitVec 256) : Bool := decide (10 < hdrType h ∨ 8 < hdrFlits h ∨ fld h 245 240 ≠ 0 ∨ fld h 77 0 ≠ 0)

/-- A record of a cartway flit (Table 16.1, structure 0x05). -/
def cwRec (code sev node : Nat) : ErrRec := errRec code sev 2 node 5

/-- Uncorrectable flits that a node counts on a link plane (R507): at 16 within 1 ms, 156,250 ticks, the fault is FATAL. -/
def State.cwUncorrectable (s : State) (node plane n : Nat) : State :=
  if n = 0 then s
  else
    let key := node * 8 + plane
    let ts := ((mget dNil s.arr.cwyErr key).filter fun t => decide (s.time < t + 156250)) ++ List.replicate n s.time
    let s1 := { s with arr := { s.arr with cwyErr := mput dNil s.arr.cwyErr key (if ts.length ≥ 16 then [] else ts) } }
    if ts.length ≥ 16 then s1.raise (cwRec 0x0E04 sevFatal node) else s1

/-- A packet with a detected error (R175): a response is discarded, so that its request times out; a bin's request is repeated under
R130. -/
def State.cwDrop (s : State) (h : BitVec 256) : State :=
  if isResponse h then s
  else
    match s.cwReq (hdrSrc h) h with
    | some (u, g, r) => s.reqError u g r
    | none => s

/-! ### Arbitration -/

/-- The winner among asking indices, each with its class (R180): the most urgent class first, then the rotating pointer. -/
def classGrant (n ptr : Nat) (asks : List (Nat × Nat)) : Option Nat :=
  let top := asks.foldl (fun m a => min m a.2) 4
  rotGrant n ptr fun i => asks.any fun a => decide (a.1 = i ∧ a.2 = top)

/-- The packets at the heads of a node's six inputs on one plane and network, by input. -/
def State.cwHeads (s : State) (node plane net : Nat) : List (Nat × CwPkt) :=
  (List.range 6).filterMap fun i => ((s.cwQueue (node * 128 + i * 16 + plane * 2 + net)).head?).map fun k => (i, k)

/-- Key of a packet at an output or ejection pointer. -/
def outKey (node out plane net : Nat) : Nat := node * 128 + out * 16 + plane * 2 + net
def ejectKey (node b : Nat) : Nat := 2 ^ 24 + node * 2 + b

def State.setCwyPtr (s : State) (key v : Nat) : State := { s with arr := { s.arr with cwyPtr := mput dNat s.arr.cwyPtr key v } }

/-- Take the head packet of an input. -/
def State.cwPop (s : State) (key : Nat) : State := s.setCwQueue key (s.cwQueue key).tail

/-- A packet at the head of input `inp` of a node goes on to the next node (R176, R180): the next input must have room for all of it,
and it must win its output among the heads of the other inputs that could leave by it. A loser waits there, charged to its plot
when another plot's packet won (R213). -/
def State.cwForward (s : State) (node inp : Nat) (k : CwPkt) : State :=
  let resp := isResponse k.hdr
  let plane := hdrPlane k.hdr
  let out := cwOut resp node (hdrDst k.hdr)
  let dst := cwKey k.hdr (cwNext node out) (cwSide out)
  let heads := (s.cwHeads node plane resp.toNat).filter fun p => decide (cwOut resp node (hdrDst p.2.hdr) = out) && s.cwRoom dst p.2
  let ptr := outKey node out plane resp.toNat
  if !s.cwRoom dst k then s
  else
    match classGrant 6 (mget dNat s.arr.cwyPtr ptr) (heads.map fun p => (p.1, hdrClass p.2.hdr)) with
    | none => s
    | some w =>
      if w = inp then ((s.cwPop (cwKey k.hdr node inp)).cwPush dst k).setCwyPtr ptr ((inp + 1) % 6)
      else s.waitFor .SEED_PLOT_STALL_CWY (s.cwPlot k.hdr) ((heads.find? fun p => decide (p.1 = w)).bind fun p => s.cwPlot p.2.hdr)

/-! ### Delivery -/

/-- Answer a request where it has been taken: the reply enters the cartway at this node. -/
def State.cwReply (s : State) (h : BitVec 256) (typ status : Nat) (bs : List Byte) : State :=
  let k := replyTo h typ status bs
  s.cwPush (cwKey k.hdr (hdrDst h) (s.cwLocal k.hdr)) k

/-- Whether the reply of `n` bytes to a request has room where it enters. -/
def State.cwReplyRoom (s : State) (h : BitVec 256) (n : Nat) : Bool :=
  let k := replyTo h 1 0 (List.replicate n 0)
  s.cwRoom (cwKey k.hdr (hdrDst h) (s.cwLocal k.hdr)) k

/-- A read or a write at the silo (R266, R271): the bytes, or the status of the failure, go back. -/
def State.cwSilo (s : State) (k : CwPkt) : State :=
  let h := k.hdr
  let a := hdrLocal h
  let n := hdrBytes h
  let st := s.media a (.silo a) n (decide (hdrType h = 2))
  if st ≠ 0 then s.cwReply h 4 st []
  else if hdrType h = 2 then (s.writeSilo a k.bytes).cwReply h 3 0 []
  else (s.countSilo .SILO_RD_BYTES a n).cwReply h 1 0 (s.load .silo a n)

/-- A packet at its silo node (R267): its requester must win the intake of the stack among the heads at the stack's 16 edge nodes;
an access to a row under repair waits (R275). -/
def State.cwAtSilo (s : State) (st key : Nat) (k : CwPkt) : State :=
  let h := k.hdr
  let a := hdrLocal h
  let n := hdrBytes h
  let headAt := fun j =>
    let node := siloNode st (j / 8 * 2 ^ 11)
    (s.cwQueue (node * 128 + (if nodeX node = 0 then 3 else 5) * 16 + j % 8 * 2)).head?
  let j := intakeOf a
  if 2 < hdrType h ∨ hdrType h = 1 then s.cwPop key
  else if a + n > 0xA000000000 ∨ s.rowBusy a n ∨ !s.cwReplyRoom h n then s
  else
    match s.intakeGrant st fun i => (headAt i).isSome with
    | none => s
    | some w =>
      if w = j then ((s.cwPop key).intakeWon st j).cwSilo k
      else s.waitFor .SEED_PLOT_STALL_SILO (s.cwPlot h) ((headAt w).bind fun p => s.cwPlot p.hdr)

/-- A window access that a packet brings to bin `u` (R144, R145): accepted writes wait to land and are acknowledged, a read's bytes
go back, a refusal is counted and NACKed. -/
def State.cwWindow (s : State) (u off : Nat) (k : CwPkt) : State :=
  let h := k.hdr
  let n := hdrBytes h
  let wr := decide (hdrType h = 2)
  let st := s.windowCheck u (hdrSender h) (hdrWin h) (hdrGen h) off n wr
  if st ≠ 0 then (s.windowRefuse u off st).cwReply h 4 st []
  else if wr then (s.setMu u { s.mu u with wins := (s.mu u).wins ++ [⟨hdrWin h, off, k.bytes⟩] }).cwReply h 3 0 []
  else (s.banksWon u off n 5).cwReply h 1 0 (s.load .bin (u * 0x40000 + off) n)

/-- A CFG packet brings 256 bytes of a memory tile's record (R192): part `off / 256` of it (log entry 141); when the last part is
there, the configuration lands. -/
def State.cwConfig (s : State) (u off : Nat) : State :=
  let i := muInst u
  let t := s.tile i
  let left := t.cfgLeft.filter fun c => decide (c ≠ off / 256)
  match s.plotOf i with
  | none => s
  | some p =>
    if t.cfgLeft = [] then s
    else if left = [] then s.landShadow i p .clean
    else s.setTile i { t with cfgLeft := left }

/-- A packet at the stop it is bound for wins its bin's ejection (Table 05.8: 0 the response network, 1 the request network) and is
delivered. One whose reply, or whose token, has no room yet waits. -/
def State.cwAtStop (s : State) (node key : Nat) (k : CwPkt) : State :=
  let h := k.hdr
  let resp := isResponse h
  let bin := fun (p : CwPkt) => if isResponse p.hdr then hdrSreq p.hdr / 4 % 2 else ((s.hdrBin p.hdr).map (·.1)).getD 0
  let b := bin k
  let off := ((s.hdrBin h).map (·.2)).getD 0
  let u := stopUnit node b
  let asks := (List.range 8).flatMap fun pl => [0, 1].flatMap fun net =>
    ((s.cwHeads node pl net).filter fun p => decide (hdrDst p.2.hdr = node ∧ bin p.2 = b)).map fun p => (1 - net, hdrClass p.2.hdr)
  let mine := if resp then 0 else 1
  if !resp ∧ hdrType h ≠ 5 ∧ hdrType h ≠ 6 ∧ !s.cwReplyRoom h (if hdrType h = 0 ∨ hdrType h = 7 then hdrBytes h else 0) then s
  else
    match classGrant 2 (mget dNat s.arr.cwyPtr (ejectKey node b)) asks with
    | none => s
    | some w =>
      if w ≠ mine then
        let other := (List.range 8).findSome? fun pl =>
          ((s.cwHeads node pl (1 - w)).find? fun p => decide (hdrDst p.2.hdr = node ∧ bin p.2 = b)).map (·.2)
        s.waitFor .SEED_PLOT_STALL_CWY (s.cwPlot h) (other.bind fun p => s.cwPlot p.hdr)
      else
        let s1 := (s.cwPop key).setCwyPtr (ejectKey node b) ((w + 1) % 2)
        match hdrType h with
        | 0 => s1.cwWindow u off k
        | 2 => s1.cwWindow u off k
        | 5 =>
          match s1.injectToken u (hdrSender h) (BitVec.ofNat 16 (hdrStatus h)) with
          | none => s
          | some (t, st) => if st = 0 then t else t.cwReply h 4 st []
        | 6 => s1.cwConfig u off
        | 7 => s1.cwReply h 8 0 (natToBytes (hdrBytes h) (s1.csrValue (hdrLocal h) (hdrBytes h)).toNat)
        | 9 => (s1.csrWrite .firmware (hdrLocal h) (hdrBytes h) (BitVec.ofNat 64 (bytesToNat k.bytes)) 0 true).cwReply h 10 0 []
        | _ => if resp then s1.cwResponse node k else s1

/-- The packet at the head of an input acts: it goes on, or is delivered where it is bound for. At the hub it leaves the cartway. -/
def State.cwAct (s : State) (node inp : Nat) (k : CwPkt) : State :=
  let key := cwKey k.hdr node inp
  if cwOut (isResponse k.hdr) node (hdrDst k.hdr) ≠ 0 then s.cwForward node inp k
  else
    match nodeKind node with
    | .silo st => s.cwAtSilo st key k
    | .stop => s.cwAtStop node key k
    | _ => s.cwPop key

/-- CARTWAY_PACKET_ARRIVAL (R171 to R182, R507): a packet at a node of its way. At its source it enters the local input when that has
room; then, if it is the oldest of its input, it goes on or is delivered. Packets of one input keep their order (R178). `corr` of
its flits needed correction here and `bad` could not be corrected. -/
def execCartwayPacketArrival (node : BitVec 16) (header : BitVec 256) (payload : List (BitVec 256)) (corr bad : Fin 10)
    (s : State) : Out :=
  let n := node.toNat
  let k : CwPkt := ⟨header, payload⟩
  if hdrBad header ∨ bad.val ≠ 0 then
    let s0 := s.cwUncorrectable n (hdrPlane header) bad
    let s1 := match s.cwInput header n with
      | some i => s0.setCwQueue (cwKey header n i) ((s0.cwQueue (cwKey header n i)).erase k)
      | none => s0
    .next (s1.cwDrop header)
  else
    match s.cwInput header n with
    | none => .next s
    | some i =>
      let key := cwKey header n i
      let s0 := (List.range corr).foldl (fun a _ => a.raiseCE .CHF_CE_CWY (cwRec 0 sevCorrected n)) s
      if payload.length ≠ hdrFlits header ∨ !s.cwBound header then .next s
      else if (s.cwQueue key).contains k then
        .next (if (s.cwQueue key).head? = some k then s0.cwAct n i k else s0)
      else if n = hdrSrc header ∧ s.cwRoom key k then
        let s1 := s0.cwPush key k
        .next (if s.cwQueue key = [] then s1.cwAct n i k else s1)
      else .next s

/-- CARTWAY_TIMEOUT (R179): a bin's request that had no response for 2^TLOG2 cycles counts and is treated as failed by a detected
error. -/
def execCartwayTimeout (unit : Fin 16896) (gen : Fin 4) (req : Nat) (s : State) : Out :=
  match (s.gen unit gen).reqs.find? (fun r => decide (r.id = req)) with
  | none => .next s
  | some r => .next ((s.inc .LNK_CWY_TIMEOUTS 0 0 1).reqError unit gen r)

end Sys2Proof.Machine
end

