-- ==== Sys2Proof/Machine/Matrix.lean ====
section
/-!
DEFINITION. Matrix mode (R96 to R102), the starts and ends of passes and runs, and the arrivals at a thresher of a seed
or a broadcast value (R48, R75, R103).
-/
namespace Sys2Proof.Machine
open Sys2Proof

/-- The MATRIX word of a matrix-mode thresher, when S0 stands at it in a pass (R96) and the throttle leaves array cycles (R479). -/
def State.matrixWord (s : State) (u : Nat) : Option SW :=
  let g := (s.cu u).stage 0
  if g.inPass && decide (g.w < s.nwords u 0) && decide (s.cuMode u = 2) && !(s.tile (cuInst u)).aborting && !s.throttled then
    some (s.progWord u 0 g.w)
  else none

/-- Plain beat data at the head of a VI port. -/
def State.viBeat (s : State) (u n : Nat) : Option Nat :=
  match (s.tile (cuInst u)).head (12 + n) with
  | some (.beat d _) => some d.toNat
  | _ => none

/-- KB of a MATRIX word: IMM[15:0], or the k entry IMM[5:0] when IMM[31] = 1 (R96). -/
def State.matrixKb (s : State) (u : Nat) (w : SW) : Nat :=
  if nbit w.imm 31 then (mget dW32 (s.cu u).kAct (w.imm % 64)).toNat else w.imm % 65536

/-- Accumulator of output element (row, col): PE (s, l) holds row l and columns 4s + a in accumulator a (chapter 03). -/
def State.cAcc (s : State) (u row col : Nat) : Word32 := mget dW32 ((s.cu u).stage (col / 4)).acc (col % 4 * 16 + row)

/-- What one chunk q needs at the ports (Table 03.9): the A beats at VI0 and VI1, B fragments at VI2, and at a block's
first chunk the scales at VI3. FP32 packs two chunks in an A beat and four fragments in a B beat. -/
structure Chunk where
  a0 : Nat
  a1 : Nat
  b : List Nat       -- the four B fragments, accumulator 0 first
  sc : Nat
deriving DecidableEq, Repr

/-- The beats queued at a VI port, as numbers, while they are data of the unit's epoch. -/
def State.viBeats (s : State) (u n : Nat) : List Nat :=
  let t := s.tile (cuInst u)
  (t.queue (12 + n)).filterMap fun x =>
    if x.ep = t.ep then (match x.pay with
      | .beat d _ => some d.toNat
      | _ => none) else none

/-- Read chunk q's operands; none while any beat it needs is absent (R99). -/
def State.chunk (s : State) (u q : Nat) (w : SW) : Option Chunk :=
  let f32 := decide (w.fs = 0)
  let bs := s.viBeats u 2
  let mx := decide (w.s3 = 0x17)
  match s.viBeat u 0, s.viBeat u 1 with
  | some a0, some a1 =>
    let sh := if f32 ∧ q % 2 = 1 then 2 ^ 32 else 1
    let frs : Option (List Nat) :=
      if f32 then (match bs with
        | x :: _ => some ((List.range 4).map fun k => x / 2 ^ (128 * k) % 2 ^ 128)
        | [] => none)
      else (match bs with
        | x :: y :: _ => some [x % 2 ^ 256, x / 2 ^ 256, y % 2 ^ 256, y / 2 ^ 256]
        | _ => none)
    let sc : Option Nat := if mx then s.viBeat u 3 else some 0
    match frs, sc with
    | some b, some c => some ⟨a0 / sh, a1 / sh, b, c⟩
    | _, _ => none
  | _, _ => none

/-- Row operand of a chunk: bits [64l + 63:64l] of VI0 for rows 0-7 and of VI1 for rows 8-15 (FP32: 32 bits). -/
def Chunk.row (c : Chunk) (fs l : Nat) : Nat :=
  let x := if l < 8 then c.a0 else c.a1
  x / 2 ^ (64 * (l % 8)) % (if fs = 0 then 2 ^ 32 else 2 ^ 64)

/-- Column operand: stage s's 64 bits of fragment a (FP32: 32 bits), for column 4s + a. -/
def Chunk.column (c : Chunk) (fd col : Nat) : Nat :=
  let f := lget c.b (col % 4) 0
  if fd = 0 then f / 2 ^ (32 * (col / 4)) % 2 ^ 32 else f / 2 ^ (64 * (col / 4)) % 2 ^ 64

/-- One chunk into every accumulator (R99, R100): plain operands round at each chunk; microscaled operands collect in
the block partial and round at the block's last chunk, and under a scale of 0xFF every element is a NaN and raises nothing (R39);
the first chunk of a tile replaces the accumulator. -/
def State.chunkMac (s : State) (u q : Nat) (w : SW) (c : Chunk) : State :=
  let g := groupLen w.fs
  let perBlk := 32 / g
  let mx := decide (w.s3 = 0x17)
  let int := isIntFmt w.fs && !mx
  let ftz := (s.num u 0).ftz
  let first := decide (q = 0)
  let newBlk := decide (q % perBlk = 0)
  let endBlk := decide (q % perBlk = perBlk - 1)
  let k := s.cu u
  let cell (row col : Nat) : Word32 × FVal × Flags :=
    let a := c.row w.fs row
    let b := c.column w.fd col
    let old := s.cAcc u row col
    let base : FVal := if first then .num false 0 0 else Fmt.fp32.decode old.toNat
    if int then
      let x := (if first then 0 else sint 32 old.toNat) + groupDotI w.fs w.fd a b false
      (BitVec.ofInt 32 x, partDefault, if x > 2147483647 ∨ x < -2147483648 then Flags.overflow else Flags.none)
    else if mx then
      let (p, f1) := groupDot (fun cd v => (mxOf cd).decode v) w.fs w.fd a b false
      let old0 := if newBlk then partDefault else mget dPart (k.stage (col / 4)).part (col % 4 * 16 + row)
      let (p2, f2) := old0.add p
      let ea := c.sc / 2 ^ (8 * row) % 256
      let eb := c.sc / 2 ^ (128 + 8 * col) % 256
      let nan := decide (ea = 0xFF ∨ eb = 0xFF)
      if endBlk then
        let blk : FVal := if nan then .nan else FVal.scale ((ea : Int) + eb - 254) p2
        let acc0 : FVal := if q < perBlk then .num false 0 0 else Fmt.fp32.decode old.toNat
        let (v, f3) := blk.add acc0
        let (x, f4) := Fmt.fp32.ofVal { RCtx.rne with ftz := ftz } v
        (BitVec.ofNat 32 x, partDefault, if nan then Flags.none else f1 ||| f2 ||| f3 ||| f4)
      else (old, p2, if nan then Flags.none else f1 ||| f2)
    else
      let (p, f1) := groupDot elemVal w.fs w.fd a b false
      let (v, f2) := if first then (p, Flags.none) else p.add base
      let (x, f3) := Fmt.fp32.ofVal { RCtx.rne with ftz := ftz } v
      (BitVec.ofNat 32 x, partDefault, f1 ||| f2 ||| f3)
  let upd := (List.range 4).foldl (fun (kk : Cu × Flags) st =>
    (List.range 64).foldl (fun (kk : Cu × Flags) i =>
      let col := 4 * st + i / 16
      let row := i % 16
      let r := cell row col
      let gs := kk.1.stage st
      (kk.1.setStage st { gs with acc := mput dW32 gs.acc (col % 4 * 16 + row) r.1, part := mput dPart gs.part (col % 4 * 16 + row) r.2.1 },
       kk.2 ||| r.2.2)) kk) (k, Flags.none)
  (s.setCu u upd.1).flag u upd.2

/-- Take a chunk's beats (Table 03.9): A once per chunk (FP32: every second chunk), B two beats a chunk (FP32: one), the
scales at the block's last chunk. -/
def State.chunkPop (s : State) (u q : Nat) (w : SW) : State :=
  let i := cuInst u
  let f32 := decide (w.fs = 0)
  let s1 := if f32 ∧ q % 2 = 0 then s else (s.popQ i 12).popQ i 13
  let s2 := if f32 then s1.popQ i 14 else (s1.popQ i 14).popQ i 14
  if w.s3 = 0x17 ∧ q % (32 / groupLen w.fs) = 32 / groupLen w.fs - 1 then s2.popQ i 15 else s2

/-- The tile's accumulators in column-major order (Table 03.9). -/
def State.tileVals (s : State) (u : Nat) : List Word32 := (List.range 256).map fun k => s.cAcc u (k % 16) (k / 16)

/-- Work through the chunks of a tile while their beats are present: at its last chunk the tile is captured, which
waits for a free tile buffer (R100, R101). -/
def matrixRun : Nat → State → Nat → SW → State
  | 0, s, _, _ => s
  | n + 1, s, u, w =>
    let k := s.cu u
    let total := k.mkb * (32 / groupLen w.fs)
    let last := decide (k.mq + 1 = total)
    if last && decide (k.mtile.length ≥ 2) then (s.cuState u 3).inc .CU_STALL_OUT u 0 1
    else
      match s.chunk u k.mq w with
      | none => (s.cuState u 2).inc .CU_STALL_IN u 0 1
      | some c =>
        let s1 := ((s.chunkMac u k.mq w c).chunkPop u k.mq w).inc .CU_ISSUE_CYC u 0 4
        let k1 := s1.cu u
        if last then
          let b : TileBuf := ⟨s1.tileVals u, false, [], w.imm / 2 ^ 24 % 16, w.rm⟩
          ((s1.setCu u { k1 with mq := 0, mkb := 0, mtile := k1.mtile ++ [b] }).cuState u 1).advance u 0 w
        else matrixRun n (s1.setCu u { k1 with mq := k.mq + 1 }) u w

/-- Whether the end-of-section token stands where a MATRIX word reads (R92): at the head of VI0, VI1 or VI2, of VI3 for scaled
operands, or behind the first of the two B beats of a chunk. -/
def State.matrixCut (s : State) (u : Nat) (w : SW) : Bool :=
  let t := s.tile (cuInst u)
  (List.range 3).any (fun n => t.headEos (12 + n)) || (decide (w.s3 = 0x17) && t.headEos 15) ||
    (decide (w.fs ≠ 0) && (match t.queue 14 with
      | x :: y :: _ => decide (x.ep = t.ep ∧ y.ep = t.ep ∧ y.pay = .eos)
      | _ => false))

/-- MATRIX_WORD (R96, R97, R99): begin or go on with the tile of the MATRIX word S0 stands at. A KB of 0 from a k entry
issues no tile; a KB above 65,535 aborts the task with CHAIN_LIMIT. -/
def State.matrixIssue (s : State) (u : Nat) : State :=
  match s.matrixWord u with
  | none => s
  | some w =>
    if w.cls = 0 ∧ w.op = 0 then ((s.cuState u 1).inc .CU_ISSUE_CYC u 0 1).advance u 0 w
    else if w.cls ≠ 0xF then s
    else
      let k := s.cu u
      let kb := if k.mkb = 0 then s.matrixKb u w else k.mkb
      if k.mkb = 0 ∧ kb = 0 then (s.cuState u 1).advance u 0 w
      else if kb > 65535 then s.taskFault (cuInst u) 0x0101 (errRec 0x0101 sevTransient 0 u 0)
      else if s.matrixCut u w then
        s.taskFault (cuInst u) 0x0102 (errRec 0x0102 sevTransient 0 u 0)
      else matrixRun (65536 * 32) (s.setCu u { k with mkb := kb }) u w

/-- MATRIX_WORD: the issue computing one output tile over KB blocks (R99). -/
def execMatrixWord (unit : Fin 16896) (s : State) : Out := .next (s.matrixIssue unit)

/-- Readout format: a raw copy where the accumulator's own format is asked for, else a conversion under the word's RM;
under SR row l draws from lane l's LFSR in ascending column order (R101). Values are taken in column-major order, so
each row meets its columns in ascending order. -/
def State.readoutVals (s : State) (u : Nat) (int : Bool) (b : TileBuf) : State × List Word32 :=
  let n := s.num u b.rm
  let src := if int then 8 else 0
  let step (a : NMap Word32 × Flags × List Word32) (p : Word32 × Nat) : NMap Word32 × Flags × List Word32 :=
    let lane := p.2 % 16
    if src = b.fmt then (a.1, a.2.1, p.1 :: a.2.2)
    else
      let (c, lf) := draw n (mget lfsrDefault a.1 lane)
      let (v, f) := cvtOp src b.fmt c p.1
      (mput lfsrDefault a.1 lane lf, a.2.1 ||| f, BitVec.ofNat 32 v :: a.2.2)
  let k := s.cu u
  let r := (b.vals.zip (List.range 256)).foldl step (k.lfsr, Flags.none, [])
  ((s.setCu u { k with lfsr := r.1 }).flag u r.2.1, r.2.2.reverse)

/-- Pack the converted tile into beats at the readout width (Table 03.9). -/
def tileBeats (fmt : Nat) (vals : List Word32) : List (BitVec 512 × Nat) :=
  let wc := match fmtBits fmt with
    | 32 => 0 | 16 => 1 | _ => 2
  (chunks (portElems wc) 16 vals).map fun l => (packBeat wc l, l.length)

/-- Send beats alternately on VO0 and VO1, starting with VO0, while there is credit. -/
def sendTile : Nat → State → Nat → List (BitVec 512 × Nat) → State × List (BitVec 512 × Nat)
  | 0, s, _, l => (s, l)
  | _ + 1, s, _, [] => (s, [])
  | n + 1, s, u, b :: bs =>
    let k := s.cu u
    let port := mget dNat k.voT 0 % 2
    if s.canSend (cuInst u) (0x10 + port) then
      let s1 := s.setCu u { k with voT := mput dNat k.voT 0 ((port + 1) % 2) }
      sendTile n (s1.sendVo u port b.1 b.2) u bs
    else (s.stallOut u, b :: bs)

/-- MATRIX_TILE_READOUT (R100, R101): the oldest captured tile is converted once and its beats are sent while there is
credit; its buffer is free when every value has been sent. -/
def execMatrixTileReadout (unit : Fin 16896) (s : State) : Out :=
  let k := s.cu unit
  .next <|
  if (s.tile (cuInst unit)).aborting then s else
  match k.mtile with
  | [] => s
  | b :: bs =>
    let p : State × TileBuf :=
      if b.started then (s, b)
      else
        let int := ((List.range (s.nwords unit 0)).map (s.progWord unit 0)).any fun w =>
          decide (w.cls = 0xF ∧ w.s3 ≠ 0x17) && isIntFmt w.fs
        let (s1, v) := s.readoutVals unit int b
        let k1 := s1.cu unit
        (s1.setCu unit { k1 with voT := mput dNat k1.voT 0 0 }, { b with started := true, beats := tileBeats b.fmt v })
    let (s2, rest) := sendTile 256 p.1 unit p.2.beats
    let k2 := s2.cu unit
    if rest = [] then s2.setCu unit { k2 with mtile := bs }
    else s2.setCu unit { k2 with mtile := { p.2 with beats := rest } :: bs }

/-- PASS_START: a stage begins a pass at word 0, reading the loop limits (R89, R90). -/
def execPassStart (unit : Fin 16896) (stage : Fin 4) (s : State) : Out := .next (s.passStart unit stage)

/-- THRESHER_RUN_END: a stage finds end of section on all its inputs at a pass start (R91). -/
def execThresherRunEnd (unit : Fin 16896) (stage : Fin 4) (s : State) : Out := .next (s.runEnd unit stage)

end Sys2Proof.Machine
end

