-- ==== Sys2Proof/Machine/Ramnak.lean ====
section
/-!
DEFINITION. Ramnak-C (chapter 07): the encodings of Tables 07.2 and 07.3, fetching and issuing one instruction of a core
(R222, R224), loads, stores and atomics over the core address spaces (R218, R219, R228, R506), and the meaning of every
instruction. A row stands for its core executing that instruction next; where the core's next word is not that instruction's
encoding, or the core is not running, nothing happens (log entry 83).
-/
namespace Sys2Proof.Machine
open Sys2Proof

/-! ### Encodings (Tables 07.2, 07.3) -/

def encRR (op d a b fn : Nat) : Nat := op * 2 ^ 26 + d * 2 ^ 21 + a * 2 ^ 16 + b * 2 ^ 11 + fn
def encI (op d a : Nat) (imm : BitVec 16) : Nat := op * 2 ^ 26 + d * 2 ^ 21 + a * 2 ^ 16 + imm.toNat
def encJ (op d : Nat) (imm : BitVec 21) : Nat := op * 2 ^ 26 + d * 2 ^ 21 + imm.toNat

/-- Whether a word is an instruction: a defined OP and FN, and every unused field zero (R222). -/
def legalWord (w : Nat) : Bool :=
  let op := nbits w 31 26
  let d := nbits w 25 21
  let a := nbits w 20 16
  let b := nbits w 15 11
  let fn := nbits w 10 0
  if op = 0 then decide (fn ≤ 0x0D ∨ (0x10 ≤ fn ∧ fn ≤ 0x12) ∨ (0x14 ≤ fn ∧ fn ≤ 0x17) ∨ (0x18 ≤ fn ∧ fn ≤ 0x1A ∧ b = 0))
  else if op = 1 then decide (fn ≤ 6 ∨ (8 ≤ fn ∧ fn ≤ 0x0A) ∨ ((fn = 7 ∨ (0x0C ≤ fn ∧ fn ≤ 0x0F)) ∧ b = 0))
  else if 4 ≤ op ∧ op ≤ 9 then true
  else if op = 0x0A then decide (nbits w 15 8 = 0 ∧ nbits w 7 6 ≠ 3)
  else if op = 0x0B ∨ op = 0x0C then decide (a < 4)
  else if (0x10 ≤ op ∧ op ≤ 0x16) ∨ (0x18 ≤ op ∧ op ≤ 0x1B) then true
  else if op = 0x1C ∨ op = 0x1D then decide (fn = 2 ∨ fn = 3)
  else if (0x20 ≤ op ∧ op ≤ 0x25) ∨ op = 0x28 ∨ op = 0x29 then true
  else if op = 0x30 then decide ((fn ≤ 2 ∧ d = 0 ∧ a = 0 ∧ b = 0) ∨ ((fn = 3 ∨ fn = 4) ∧ b = 0))
  else if op = 0x31 then decide (d = 0 ∧ a = 0)
  else if op = 0x3C then decide (fn = 1 ∨ ((fn = 0 ∨ fn = 2 ∨ fn = 3) ∧ b = 0))
  else false

/-! ### Fetch and issue -/

/-- First byte of local memory open to program mode (R228). -/
def State.lmSplit (s : State) (c : Nat) : Nat := 512 * s.rdF .BND_CTX c 0 7 0

/-- What stops the fetch at pc: program mode below LM_SPLIT (R228), or a poisoned word (Table 07.5 cause 4). -/
def State.fetchFault (s : State) (c : Nat) : Option Nat :=
  let k := s.core c
  if !k.monitor ∧ k.pc < s.lmSplit c then some 3
  else if mget dFalse s.mem.pLm (c * 16384 + k.pc / 8) then some 4
  else none

/-- The word at pc. -/
def State.fetchWord (s : State) (c : Nat) : Nat := s.loadNat .lmem (c * 0x20000 + (s.core c).pc) 4

/-- Issue of a core's next instruction when its word meets `p` (R222, R224). -/
def State.instrWhen (s : State) (c : Nat) (p : Nat → Bool) (f : State → State) : Out :=
  let k := s.core c
  if k.state ≠ .running ∧ k.state ≠ .enqueue then .next s
  else
    match s.fetchFault c with
    | some cause => .next (s.trap c cause (BitVec.ofNat 64 k.pc))
    | none => if p (s.fetchWord c) then .next (f s) else .next s

def State.instr (s : State) (c w : Nat) (f : State → State) : Out := s.instrWhen c (fun x => decide (x = w)) f

/-- An instruction that writes register `d` from the core's registers. -/
def State.alu (s : State) (c w d : Nat) (v : Core → Word) : Out := s.instr c w fun t => t.retire c fun k => k.setReg d (v k)

/-- ILLEGAL_INSTRUCTION (R222): the next word is no instruction; ILLEGAL, with its address in CC_TVAL (log entry 84). -/
def execIllegalInstruction (core : Fin 64) (s : State) : Out :=
  s.instrWhen core (fun w => !legalWord w) fun t => t.trap core 1 (BitVec.ofNat 64 (t.core core).pc)

/-! ### Integer instructions (R223) -/

def wordOfBool (b : Bool) : Word := if b then 1 else 0

def execAdd (core : Fin 64) (d a b : Fin 32) (s : State) : Out := s.alu core (encRR 0 d a b 0x00) d fun k => k.reg a + k.reg b
def execSub (core : Fin 64) (d a b : Fin 32) (s : State) : Out := s.alu core (encRR 0 d a b 0x01) d fun k => k.reg a - k.reg b
def execAnd (core : Fin 64) (d a b : Fin 32) (s : State) : Out := s.alu core (encRR 0 d a b 0x02) d fun k => k.reg a &&& k.reg b
def execOr (core : Fin 64) (d a b : Fin 32) (s : State) : Out := s.alu core (encRR 0 d a b 0x03) d fun k => k.reg a ||| k.reg b
def execXor (core : Fin 64) (d a b : Fin 32) (s : State) : Out := s.alu core (encRR 0 d a b 0x04) d fun k => k.reg a ^^^ k.reg b
def execShl (core : Fin 64) (d a b : Fin 32) (s : State) : Out :=
  s.alu core (encRR 0 d a b 0x05) d fun k => k.reg a <<< fld (k.reg b) 5 0
def execShr (core : Fin 64) (d a b : Fin 32) (s : State) : Out :=
  s.alu core (encRR 0 d a b 0x06) d fun k => k.reg a >>> fld (k.reg b) 5 0
def execSar (core : Fin 64) (d a b : Fin 32) (s : State) : Out :=
  s.alu core (encRR 0 d a b 0x07) d fun k => (k.reg a).sshiftRight (fld (k.reg b) 5 0)
def execSlt (core : Fin 64) (d a b : Fin 32) (s : State) : Out :=
  s.alu core (encRR 0 d a b 0x08) d fun k => wordOfBool ((k.reg a).slt (k.reg b))
def execSltu (core : Fin 64) (d a b : Fin 32) (s : State) : Out :=
  s.alu core (encRR 0 d a b 0x09) d fun k => wordOfBool ((k.reg a).ult (k.reg b))
def execMin (core : Fin 64) (d a b : Fin 32) (s : State) : Out :=
  s.alu core (encRR 0 d a b 0x0A) d fun k => if (k.reg a).slt (k.reg b) then k.reg a else k.reg b
def execMax (core : Fin 64) (d a b : Fin 32) (s : State) : Out :=
  s.alu core (encRR 0 d a b 0x0B) d fun k => if (k.reg a).slt (k.reg b) then k.reg b else k.reg a
def execMinu (core : Fin 64) (d a b : Fin 32) (s : State) : Out :=
  s.alu core (encRR 0 d a b 0x0C) d fun k => if (k.reg a).ult (k.reg b) then k.reg a else k.reg b
def execMaxu (core : Fin 64) (d a b : Fin 32) (s : State) : Out :=
  s.alu core (encRR 0 d a b 0x0D) d fun k => if (k.reg a).ult (k.reg b) then k.reg b else k.reg a
def execMul (core : Fin 64) (d a b : Fin 32) (s : State) : Out := s.alu core (encRR 0 d a b 0x10) d fun k => k.reg a * k.reg b
def execMulhu (core : Fin 64) (d a b : Fin 32) (s : State) : Out :=
  s.alu core (encRR 0 d a b 0x11) d fun k => BitVec.ofNat 64 ((k.reg a).toNat * (k.reg b).toNat / 2 ^ 64)
def execMulh (core : Fin 64) (d a b : Fin 32) (s : State) : Out :=
  s.alu core (encRR 0 d a b 0x12) d fun k => BitVec.ofInt 64 ((k.reg a).toInt * (k.reg b).toInt / 2 ^ 64)

/-- DIV, DIVU, REM and REMU of R223: quotients truncate towards zero. -/
def divS (x y : Word) : Word := if y = 0 then BitVec.allOnes 64 else BitVec.ofInt 64 (x.toInt.tdiv y.toInt)
def divU (x y : Word) : Word := if y = 0 then BitVec.allOnes 64 else BitVec.ofNat 64 (x.toNat / y.toNat)
def remS (x y : Word) : Word := if y = 0 then x else BitVec.ofInt 64 (x.toInt.tmod y.toInt)
def remU (x y : Word) : Word := if y = 0 then x else BitVec.ofNat 64 (x.toNat % y.toNat)

def execDiv (core : Fin 64) (d a b : Fin 32) (s : State) : Out :=
  s.alu core (encRR 0 d a b 0x14) d fun k => divS (k.reg a) (k.reg b)
def execDivu (core : Fin 64) (d a b : Fin 32) (s : State) : Out :=
  s.alu core (encRR 0 d a b 0x15) d fun k => divU (k.reg a) (k.reg b)
def execRem (core : Fin 64) (d a b : Fin 32) (s : State) : Out :=
  s.alu core (encRR 0 d a b 0x16) d fun k => remS (k.reg a) (k.reg b)
def execRemu (core : Fin 64) (d a b : Fin 32) (s : State) : Out :=
  s.alu core (encRR 0 d a b 0x17) d fun k => remU (k.reg a) (k.reg b)

/-- Bits set in a word; zeros above its highest set bit; zeros below its lowest. -/
def popc (x : Word) : Nat := ((List.range 64).filter fun i => bit x i).length
def clz (x : Word) : Nat := if x = 0 then 64 else 63 - Nat.log2 x.toNat
def ctz (x : Word) : Nat := ((List.range 64).find? fun i => bit x i).getD 64

def execPopc (core : Fin 64) (d a : Fin 32) (s : State) : Out :=
  s.alu core (encRR 0 d a 0 0x18) d fun k => BitVec.ofNat 64 (popc (k.reg a))
def execClz (core : Fin 64) (d a : Fin 32) (s : State) : Out :=
  s.alu core (encRR 0 d a 0 0x19) d fun k => BitVec.ofNat 64 (clz (k.reg a))
def execCtz (core : Fin 64) (d a : Fin 32) (s : State) : Out :=
  s.alu core (encRR 0 d a 0 0x1A) d fun k => BitVec.ofNat 64 (ctz (k.reg a))

def execAddi (core : Fin 64) (d a : Fin 32) (imm : BitVec 16) (s : State) : Out :=
  s.alu core (encI 0x04 d a imm) d fun k => k.reg a + imm.signExtend 64
def execAndi (core : Fin 64) (d a : Fin 32) (imm : BitVec 16) (s : State) : Out :=
  s.alu core (encI 0x05 d a imm) d fun k => k.reg a &&& imm.setWidth 64
def execOri (core : Fin 64) (d a : Fin 32) (imm : BitVec 16) (s : State) : Out :=
  s.alu core (encI 0x06 d a imm) d fun k => k.reg a ||| imm.setWidth 64
def execXori (core : Fin 64) (d a : Fin 32) (imm : BitVec 16) (s : State) : Out :=
  s.alu core (encI 0x07 d a imm) d fun k => k.reg a ^^^ imm.setWidth 64
def execSlti (core : Fin 64) (d a : Fin 32) (imm : BitVec 16) (s : State) : Out :=
  s.alu core (encI 0x08 d a imm) d fun k => wordOfBool ((k.reg a).slt (imm.signExtend 64))
def execSltiu (core : Fin 64) (d a : Fin 32) (imm : BitVec 16) (s : State) : Out :=
  s.alu core (encI 0x09 d a imm) d fun k => wordOfBool ((k.reg a).ult (imm.signExtend 64))

/-- The immediate of a shift: kind in [7:6], distance in [5:0]. -/
def shImm (kind : Nat) (sh : Fin 64) : BitVec 16 := BitVec.ofNat 16 (kind * 64 + sh.val)

def execShli (core : Fin 64) (d a : Fin 32) (sh : Fin 64) (s : State) : Out :=
  s.alu core (encI 0x0A d a (shImm 0 sh)) d fun k => k.reg a <<< sh.val
def execShri (core : Fin 64) (d a : Fin 32) (sh : Fin 64) (s : State) : Out :=
  s.alu core (encI 0x0A d a (shImm 1 sh)) d fun k => k.reg a >>> sh.val
def execSari (core : Fin 64) (d a : Fin 32) (sh : Fin 64) (s : State) : Out :=
  s.alu core (encI 0x0A d a (shImm 2 sh)) d fun k => (k.reg a).sshiftRight sh.val

def execLiz (core : Fin 64) (d : Fin 32) (h : Fin 4) (imm : BitVec 16) (s : State) : Out :=
  s.alu core (encI 0x0B d h.val imm) d fun _ => imm.setWidth 64 <<< (16 * h.val)
def execLik (core : Fin 64) (d : Fin 32) (h : Fin 4) (imm : BitVec 16) (s : State) : Out :=
  s.alu core (encI 0x0C d h.val imm) d fun k => setFld (k.reg d) (16 * h.val + 15) (16 * h.val) imm.toNat

/-! ### FP32 instructions (R223, R83): no flags are recorded -/

/-- The FP32 value in bits [31:0] of a register, and the word of a result. -/
def f32 (x : Word) : FVal := Fmt.fp32.decode (fld x 31 0)
def ofF32 (v : FVal) : Word := BitVec.ofNat 64 (Fmt.fp32.ofVal RCtx.rne v).1

def execFadd (core : Fin 64) (d a b : Fin 32) (s : State) : Out :=
  s.alu core (encRR 1 d a b 0x00) d fun k => ofF32 ((f32 (k.reg a)).add (f32 (k.reg b))).1
def execFsub (core : Fin 64) (d a b : Fin 32) (s : State) : Out :=
  s.alu core (encRR 1 d a b 0x01) d fun k => ofF32 ((f32 (k.reg a)).add (f32 (k.reg b)).neg).1
def execFmul (core : Fin 64) (d a b : Fin 32) (s : State) : Out :=
  s.alu core (encRR 1 d a b 0x02) d fun k => ofF32 ((f32 (k.reg a)).mul (f32 (k.reg b))).1
def execFdiv (core : Fin 64) (d a b : Fin 32) (s : State) : Out :=
  s.alu core (encRR 1 d a b 0x03) d fun k => BitVec.ofNat 64 (Fmt.fp32.divide RCtx.rne (f32 (k.reg a)) (f32 (k.reg b))).1
def execFmin (core : Fin 64) (d a b : Fin 32) (s : State) : Out :=
  s.alu core (encRR 1 d a b 0x04) d fun k => ofF32 (FVal.minmax false (f32 (k.reg a)) (f32 (k.reg b)))
def execFmax (core : Fin 64) (d a b : Fin 32) (s : State) : Out :=
  s.alu core (encRR 1 d a b 0x05) d fun k => ofF32 (FVal.minmax true (f32 (k.reg a)) (f32 (k.reg b)))
def execFfma (core : Fin 64) (d a b : Fin 32) (s : State) : Out :=
  s.alu core (encRR 1 d a b 0x06) d fun k => ofF32 (FVal.fma (f32 (k.reg a)) (f32 (k.reg b)) (f32 (k.reg d))).1
def execFsqrt (core : Fin 64) (d a : Fin 32) (s : State) : Out :=
  s.alu core (encRR 1 d a 0 0x07) d fun k => BitVec.ofNat 64 (Fmt.fp32.sqrt RCtx.rne (f32 (k.reg a))).1
def execFeq (core : Fin 64) (d a b : Fin 32) (s : State) : Out :=
  s.alu core (encRR 1 d a b 0x08) d fun k => wordOfBool (decide ((f32 (k.reg a)).cmp (f32 (k.reg b)) = some 0))
def execFlt (core : Fin 64) (d a b : Fin 32) (s : State) : Out :=
  s.alu core (encRR 1 d a b 0x09) d fun k => wordOfBool (decide ((f32 (k.reg a)).cmp (f32 (k.reg b)) = some (-1)))
def execFle (core : Fin 64) (d a b : Fin 32) (s : State) : Out :=
  s.alu core (encRR 1 d a b 0x0A) d fun k =>
    let r := (f32 (k.reg a)).cmp (f32 (k.reg b))
    wordOfBool (decide (r = some (-1) ∨ r = some 0))
def execFcvtsl (core : Fin 64) (d a : Fin 32) (s : State) : Out :=
  s.alu core (encRR 1 d a 0 0x0C) d fun k => ofF32 (FVal.ofInt (k.reg a).toInt)
def execFcvtls (core : Fin 64) (d a : Fin 32) (s : State) : Out :=
  s.alu core (encRR 1 d a 0 0x0D) d fun k => BitVec.ofInt 64 (toIntSat 64 { RCtx.rne with mode := .rtz } (f32 (k.reg a))).1
def execFcvtbs (core : Fin 64) (d a : Fin 32) (s : State) : Out :=
  s.alu core (encRR 1 d a 0 0x0E) d fun k => BitVec.ofNat 64 (Fmt.bf16.ofVal RCtx.rne (f32 (k.reg a))).1
def execFcvtsb (core : Fin 64) (d a : Fin 32) (s : State) : Out :=
  s.alu core (encRR 1 d a 0 0x0F) d fun k => ofF32 (Fmt.bf16.decode (fld (k.reg a) 15 0))

/-! ### Branches and jumps -/

/-- An instruction retires and the next one is at `target`. -/
def State.jump (s : State) (c : Nat) (target : Nat) (f : Core → Core) : State :=
  let k := f (s.core c)
  (s.setCore c { k with pc := target % 0x20000, state := .running }).inc .BND_INSNS c 0 1

/-- pc plus a signed count of words, in the 128 KiB local memory (log entry 81). -/
def relPc (pc : Nat) (off : Int) : Nat := (((pc : Int) + 4 * off) % 0x20000).toNat

/-- A conditional branch. -/
def State.branch (s : State) (c w : Nat) (imm : BitVec 16) (taken : Core → Bool) : Out :=
  s.instr c w fun t => if taken (t.core c) then t.jump c (relPc (t.core c).pc imm.toInt) id else t.retire c id

def execBeq (core : Fin 64) (a b : Fin 32) (imm : BitVec 16) (s : State) : Out :=
  s.branch core (encI 0x20 b a imm) imm fun k => decide (k.reg a = k.reg b)
def execBne (core : Fin 64) (a b : Fin 32) (imm : BitVec 16) (s : State) : Out :=
  s.branch core (encI 0x21 b a imm) imm fun k => decide (k.reg a ≠ k.reg b)
def execBlt (core : Fin 64) (a b : Fin 32) (imm : BitVec 16) (s : State) : Out :=
  s.branch core (encI 0x22 b a imm) imm fun k => (k.reg a).slt (k.reg b)
def execBge (core : Fin 64) (a b : Fin 32) (imm : BitVec 16) (s : State) : Out :=
  s.branch core (encI 0x23 b a imm) imm fun k => !(k.reg a).slt (k.reg b)
def execBltu (core : Fin 64) (a b : Fin 32) (imm : BitVec 16) (s : State) : Out :=
  s.branch core (encI 0x24 b a imm) imm fun k => (k.reg a).ult (k.reg b)
def execBgeu (core : Fin 64) (a b : Fin 32) (imm : BitVec 16) (s : State) : Out :=
  s.branch core (encI 0x25 b a imm) imm fun k => !(k.reg a).ult (k.reg b)

def execJal (core : Fin 64) (d : Fin 32) (imm : BitVec 21) (s : State) : Out :=
  s.instr core (encJ 0x28 d imm) fun t =>
    let pc := (t.core core).pc
    t.jump core (relPc pc imm.toInt) fun k => k.setReg d (BitVec.ofNat 64 (pc + 4))
def execJalr (core : Fin 64) (d a : Fin 32) (imm : BitVec 16) (s : State) : Out :=
  s.instr core (encI 0x29 d a imm) fun t =>
    let k := t.core core
    t.jump core (fld (k.reg a + imm.signExtend 64) 16 2 * 4) fun k => k.setReg d (BitVec.ofNat 64 (k.pc + 4))

/-! ### Core address spaces (Table 07.1) -/

/-- What a core address names: local bytes (CSR space only through core space 0, R23), bytes of another chip, control SRAM,
own local memory. -/
inductive CoreLoc where
  | loc (a : Nat) (csr : Bool)
  | far (a : Nat)
  | cs (o : Nat)
  | lm (o : Nat)
deriving DecidableEq, Repr

/-- The first byte and the first byte past the control SRAM window of program mode (Table 07.11). -/
def State.csLo (s : State) (c : Nat) : Nat := s.rdF .BND_SRAMWIN c 0 40 32 * 65536
def State.csHi (s : State) (c : Nat) : Nat := min 0x2000000 ((s.rdF .BND_SRAMWIN c 0 40 32 + s.rdF .BND_SRAMWIN c 0 8 0 + 1) * 65536)

/-- What `n` bytes at a core address name, or the cause of the trap (R219, R223, R228). -/
def State.coreLoc (s : State) (c : Nat) (a : Word) (n : Nat) : Except Nat CoreLoc :=
  let prog := !(s.core c).monitor
  if a.toNat % n ≠ 0 then .error 2
  else
    match fld a 63 60 with
    | 0 => if fld a 59 48 ≠ 0 then .error 3 else .ok (.loc (fld a 47 0) true)
    | 1 => if fld a 59 48 = s.chip then .ok (.loc (fld a 47 0) false) else .ok (.far (fld a 59 0))
    | 8 =>
      let o := fld a 24 0
      if fld a 59 25 ≠ 0 ∨ (prog ∧ (o < s.csLo c ∨ s.csHi c < o + n)) then .error 3 else .ok (.cs o)
    | 9 =>
      let o := fld a 16 0
      if fld a 59 17 ≠ 0 ∨ (prog ∧ o < s.lmSplit c) then .error 3 else .ok (.lm o)
    | _ => .error 3

/-! ### Control SRAM and local memory -/

/-- Byte `o` of control SRAM (`lm` false) or of core `c`'s local memory: its memory, its key, its 64-bit word, its line, and
the space number of a fence of kind 10. -/
def ownSpace (lm : Bool) : Space := if lm then .lmem else .csram
def ownKey (lm : Bool) (c o : Nat) : Nat := if lm then c * 0x20000 + o else o
def ownFence (lm : Bool) (c : Nat) : Nat := if lm then c else 64

def State.ownPoison (s : State) (lm : Bool) (c o : Nat) : Bool :=
  if lm then mget dFalse s.mem.pLm (c * 16384 + o / 8) else mget dFalse s.mem.pCs (o / 8)

/-- Bytes stored there; a 64-bit word written whole loses its poison (R506). -/
def State.ownStore (s : State) (lm : Bool) (c o : Nat) (bs : List Byte) : State :=
  if lm then s.lmStore c o bs
  else
    let s1 := s.store .csram o bs
    if o % 8 = 0 ∧ bs.length = 8 then { s1 with mem := { s1.mem with pCs := mput dFalse s1.mem.pCs (o / 8) false } } else s1

/-- 24 hours in ticks of the time counter. -/
def dayTicks : Nat := 13500000000000

/-- A lasting load error (R506, R508): the line is spared and the word poisoned, FATAL for a service core; MEMERR; a program
core that meets its second within 24 hours is fenced and halts. -/
def State.memErr (s : State) (lm : Bool) (c o : Nat) (a : Word) : State :=
  let e := if c < 4 then errRec 0x0E05 sevFatal 4 c 7 else errRec 0 sevLasting 4 c 7
  let last := mget dNat s.chf.coreErr c
  let s1 := s.spareLine (ownFence lm c) (o / 64) (some (o / 8)) e
  let s2 := { s1 with chf := { s1.chf with coreErr := mput dNat s1.chf.coreErr c (s.time + 1) } }
  if 4 ≤ c ∧ last ≠ 0 ∧ s.time + 1 < last + dayTicks then
    let s3 := s2.fenceWith 9 c (errRec 0 sevLasting 4 c 0)
    s3.setCore c { s3.core c with state := .halted }
  else s2.trap c 4 a

/-- The 64-bit check of a load or atomic there (R498, R499, R506): with a good word, what `f` does. -/
def State.ownCheck (s : State) (lm : Bool) (c o : Nat) (a : Word) (ecc : Ecc) (f : State → State) : State :=
  if s.ownPoison lm c o then s.trap c 4 a
  else
    match ecc with
    | .clean => f s
    | .corrected _ =>
      f (match s.ceFirst (cePlace 3 (ownFence lm c * 2 ^ 32 + o / 8)) with
        | none => s
        | some t => t.raiseCE .CHF_CE_CSRAM (errRec 0 sevCorrected 4 c 7))
    | .transient _ => f (s.raise (errRec 0 sevTransient 4 c 7))
    | .lasting _ => s.memErr lm c o a

/-- Whether core `c` wins the bank of control SRAM byte `o` (R220): the write-back of a corrected word goes first, then the first
requester at or above the bank's pointer, wrapping from 67. -/
def State.csWins (s : State) (c o : Nat) (rivals : List Rival) : Bool :=
  (rivals.all fun r => decide (r.cls.val ≠ 0)) &&
    decide (rotGrant 68 (mget dNat s.arr.csPtr (o / 64 % 64)) (fun i => decide (i = c) || rivals.any fun r => decide (r.idx = i)) = some c)

/-- An access of core `c` to control SRAM: `f` when it wins its bank, whose pointer moves past the core; else the core has lost the
cycle and tries again (R220). -/
def State.csAccess (s : State) (c o : Nat) (rivals : List Rival) (f : State → State) : State :=
  if s.csWins c o rivals then
    f { s with arr := { s.arr with csPtr := mput dNat s.arr.csPtr (o / 64 % 64) ((c + 1) % 68) } }
  else s.inc .BND_SRAMSTALL c 0 1

/-! ### Loads and stores -/

/-- The memory unit that a bin address names. -/
def binUnit (s : State) (a : Nat) : Option Nat :=
  if 0x010000000000 ≤ a ∧ a < 0x010100000000 then unitOfLbin (s.rd .SEED_REMAP 0 0) ((a - 0x010000000000) / 0x40000) else none

/-- A core's access to bin SRAM goes through a window (R143, log entry 101): the memory unit, the byte and the status of
Table 04.12; none for another address. A core at PL0 is firmware to check order 1. -/
def State.coreWindow (s : State) (core : Fin 64) (la n : Nat) (wr : Bool) : Option (Nat × Nat × Nat) :=
  match binUnit s la with
  | none => none
  | some u =>
    let o := (la - 0x010000000000) % 0x40000
    let from_ : Sender := if s.coreWho core = .firmware then .firmware else .core core
    some (u, o, s.windowCheck u from_ (Config.streamWin la).toNat (Config.streamGen la).toNat o n wr)

/-- A refused or failed access of a core to the local address space: recorded when protection refused it; ACCESS for a
refusal, MEMERR for a detected error (Table 07.5). -/
def State.coreFail (s : State) (c st : Nat) (a : Word) : State :=
  let la := fld a 47 0
  let s1 := match binUnit s la with
    | some u => s.inc .MU_WIN_NACKS u 0 1
    | none => s
  if st = stProt then (s1.raiseProt 4 c la).trap c 3 a
  else if st = stAlign ∨ st = 0x0204 then s1.trap c 3 a
  else s1.trap c 4 a

/-- The packet of a remote access of a core; refused without a slice context (R23, R27, R446). -/
def State.coreFar (s : State) (c g n typ reg : Nat) (sext : Bool) (data : List Byte) (a : Word) : State :=
  match s.coreSlice c with
  | none => (s.raiseProt 4 c g).trap c 3 a
  | some sl =>
    let la := g % 2 ^ 48
    let toBin := decide (0x010000000000 ≤ la ∧ la < 0x010100000000)
    let k := { Pkt.mk0 typ 0 sl (g / 2 ^ 48 % 4096) s.chip n data with
      addr := la, win := if toBin then (Config.streamWin la).toNat else 0, gen := if toBin then (Config.streamGen la).toNat else 0 }
    match s.coreSend ⟨0, c, reg, n, sext, false, k⟩ with
    | some t => t
    | none => s

/-- A load of `n` bytes from address `a` into register `d` (Table 07.3). -/
def State.coreLoad (s : State) (core : Fin 64) (d n : Nat) (sext : Bool) (ecc : Ecc) (rivals : List Rival) (a : Word) : State :=
  let c := core.val
  let fin := fun (t : State) (v : Nat) => t.retire c fun k => k.setReg d (extendTo n sext v)
  match s.coreLoc c a n with
  | .error cause => s.trap c cause a
  | .ok (.cs o) => s.csAccess c o rivals fun s => s.ownCheck false c o a ecc fun t => fin t (t.loadNat .csram o n)
  | .ok (.lm o) => s.ownCheck true c o a ecc fun t => fin t (t.loadNat .lmem (c * 0x20000 + o) n)
  | .ok (.far g) => s.coreFar c g n 0 d sext [] a
  | .ok (.loc la csr) =>
    if csr ∧ 0xF00000000000 ≤ la ∧ la < 0xF00100000000 then
      if csrShape la n then
        let t := s.csrRead (.core core) la n
        fin { t with rdata := s.rdata, rstat := s.rstat } t.rdata.toNat
      else s.coreFail c stProt a
    else
      match s.coreWindow core la n false with
      | some (u, o, st) =>
        if st ≠ 0 then s.coreFail c st a else fin (s.banksWon u o n 5) (s.loadNat .bin (u * 0x40000 + o) n)
      | none =>
        match s.fetch (s.coreWho c) la n false with
        | .error st => s.coreFail c st a
        | .ok bs => fin (s.countAt la n) (bytesToNat bs)

/-- A store of bytes at address `a`. -/
def State.coreStore (s : State) (core : Fin 64) (bs : List Byte) (rivals : List Rival) (a : Word) : State :=
  let c := core.val
  let n := bs.length
  match s.coreLoc c a n with
  | .error cause => s.trap c cause a
  | .ok (.cs o) => s.csAccess c o rivals fun s => (s.ownStore false c o bs).retire c id
  | .ok (.lm o) => (s.ownStore true c o bs).retire c id
  | .ok (.far g) => s.coreFar c g n 2 0 false bs a
  | .ok (.loc la csr) =>
    if csr ∧ 0xF00000000000 ≤ la ∧ la < 0xF00100000000 then
      if csrShape la n then
        let t := s.csrWrite (.core core) la n (BitVec.ofNat 64 (bytesToNat bs)) 0 false
        ({ t with rdata := s.rdata, rstat := s.rstat }).retire c id
      else s.coreFail c stProt a
    else
      match s.coreWindow core la n true with
      | some (u, o, st) =>
        if st ≠ 0 then s.coreFail c st a else ((s.writeBin u o bs).banksWon u o n 4).retire c id
      | none =>
        match s.put (s.coreWho c) la bs false with
        | .error st => s.coreFail c st a
        | .ok t => t.retire c id

/-- A load or store instruction at A + IMM16. -/
def State.loadInstr (s : State) (core : Fin 64) (op : Nat) (d a : Fin 32) (imm : BitVec 16) (n : Nat) (sext : Bool) (ecc : Ecc)
    (rivals : List Rival) : Out :=
  s.instr core (encI op d a imm) fun t => t.coreLoad core d n sext ecc rivals ((t.core core).reg a + imm.signExtend 64)
def State.storeInstr (s : State) (core : Fin 64) (op : Nat) (b a : Fin 32) (imm : BitVec 16) (n : Nat) (rivals : List Rival) : Out :=
  s.instr core (encI op b a imm) fun t =>
    t.coreStore core (natToBytes n ((t.core core).reg b).toNat) rivals ((t.core core).reg a + imm.signExtend 64)

def execLd1 (core : Fin 64) (d a : Fin 32) (imm : BitVec 16) (ecc : Ecc) (rivals : List Rival) (s : State) : Out := s.loadInstr core 0x10 d a imm 1 false ecc rivals
def execLd2 (core : Fin 64) (d a : Fin 32) (imm : BitVec 16) (ecc : Ecc) (rivals : List Rival) (s : State) : Out := s.loadInstr core 0x11 d a imm 2 false ecc rivals
def execLd4 (core : Fin 64) (d a : Fin 32) (imm : BitVec 16) (ecc : Ecc) (rivals : List Rival) (s : State) : Out := s.loadInstr core 0x12 d a imm 4 false ecc rivals
def execLd8 (core : Fin 64) (d a : Fin 32) (imm : BitVec 16) (ecc : Ecc) (rivals : List Rival) (s : State) : Out := s.loadInstr core 0x13 d a imm 8 false ecc rivals
def execLds1 (core : Fin 64) (d a : Fin 32) (imm : BitVec 16) (ecc : Ecc) (rivals : List Rival) (s : State) : Out := s.loadInstr core 0x14 d a imm 1 true ecc rivals
def execLds2 (core : Fin 64) (d a : Fin 32) (imm : BitVec 16) (ecc : Ecc) (rivals : List Rival) (s : State) : Out := s.loadInstr core 0x15 d a imm 2 true ecc rivals
def execLds4 (core : Fin 64) (d a : Fin 32) (imm : BitVec 16) (ecc : Ecc) (rivals : List Rival) (s : State) : Out := s.loadInstr core 0x16 d a imm 4 true ecc rivals
def execSt1 (core : Fin 64) (b a : Fin 32) (imm : BitVec 16) (rivals : List Rival) (s : State) : Out := s.storeInstr core 0x18 b a imm 1 rivals
def execSt2 (core : Fin 64) (b a : Fin 32) (imm : BitVec 16) (rivals : List Rival) (s : State) : Out := s.storeInstr core 0x19 b a imm 2 rivals
def execSt4 (core : Fin 64) (b a : Fin 32) (imm : BitVec 16) (rivals : List Rival) (s : State) : Out := s.storeInstr core 0x1A b a imm 4 rivals
def execSt8 (core : Fin 64) (b a : Fin 32) (imm : BitVec 16) (rivals : List Rival) (s : State) : Out := s.storeInstr core 0x1B b a imm 8 rivals

/-! ### Atomics -/

/-- An atomic of 4 or 8 bytes at address `a`: D takes the old value, zero-extended, and `f` of it is stored (none: nothing is). -/
def State.atomic (s : State) (c d : Nat) (wide : Bool) (ecc : Ecc) (rivals : List Rival) (a : Word)
    (f : Nat → Option Nat) : State :=
  let n := if wide then 8 else 4
  let go := fun (s : State) (lm : Bool) (o : Nat) => s.ownCheck lm c o a ecc fun t =>
    let old := t.loadNat (ownSpace lm) (ownKey lm c o) n
    let t1 := match f old with
      | some v => t.ownStore lm c o (natToBytes n v)
      | none => t
    t1.retire c fun k => k.setReg d (BitVec.ofNat 64 old)
  match s.coreLoc c a n with
  | .error cause => s.trap c cause a
  | .ok (.cs o) => s.csAccess c o rivals fun s => go s false o
  | .ok (.lm o) => go s true o
  | .ok _ => s.trap c 3 a

def execXadd (core : Fin 64) (d a b : Fin 32) (wide : Bool) (ecc : Ecc) (rivals : List Rival) (s : State) : Out :=
  s.instr core (encRR 0x1C d a b (if wide then 3 else 2)) fun t =>
    let k := t.core core
    t.atomic core d wide ecc rivals (k.reg a) fun old => some (old + (k.reg b).toNat)
def execXcas (core : Fin 64) (d a b : Fin 32) (wide : Bool) (ecc : Ecc) (rivals : List Rival) (s : State) : Out :=
  s.instr core (encRR 0x1D d a b (if wide then 3 else 2)) fun t =>
    let k := t.core core
    let cmp := if wide then (k.reg d).toNat else fld (k.reg d) 31 0
    t.atomic core d wide ecc rivals (k.reg a) fun old => if old = cmp then some (k.reg b).toNat else none

/-! ### System instructions -/

/-- Whether a register write of a core is not complete: a protection-table write before every checker has applied it (R528), a
window's close before the accepted writes have landed (R146), a seed before it has reached its thresher (R48). -/
def State.writeOpen (s : State) (c : Nat) : Bool :=
  s.hasp.wrq.any (·.by_ = c + 1) || s.arr.mus.any (fun m => m.2.closing.any (·.by_ = c + 1)) ||
  s.arr.cross.any fun q => q.2.any fun x => match x with
    | .seed _ _ b => decide (b = c + 1)
    | _ => false

/-- FENCE (R226): it waits while a register write of the core is not complete; every other access of this model's core has
completed when its instruction has (log entry 85). -/
def execFence (core : Fin 64) (s : State) : Out :=
  s.instr core (encRR 0x30 0 0 0 0) fun t => if t.writeOpen core then t else t.retire core id

/-- Event bits under the mask. -/
def Core.eventHit (k : Core) : Bool := decide (k.ccr ccEvt &&& k.ccr ccMask ≠ 0)

/-- WFE: goes on at once when an event is there, else waits for one. -/
def execWfe (core : Fin 64) (s : State) : Out :=
  s.instr core (encRR 0x30 0 0 0 1) fun t =>
    let k := t.core core
    if k.eventHit then t.retire core id else t.setCore core { k with state := .wfe }

/-- RET (Tables 07.3, 07.5, 07.10): to program mode at CC_EPC; ILLEGAL in program mode, on a service core, and where
BND_CTX.PL permits no program mode. -/
def execRet (core : Fin 64) (s : State) : Out :=
  s.instr core (encRR 0x30 0 0 0 2) fun t =>
    let c := core.val
    let k := t.core c
    let pl := t.rdF .BND_CTX c 0 63 62
    if !k.monitor ∨ c < 4 ∨ (pl ≠ 1 ∧ pl ≠ 2) then t.trap c 1 (BitVec.ofNat 64 k.pc)
    else (t.jump c (fld (k.ccr ccEpc) 16 2 * 4) fun k => { k with monitor := false }).event c 0

/-- Core control register `n` as read (Table 07.8). -/
def State.ccRead (s : State) (c n : Nat) : Word :=
  let k := s.core c
  match n with
  | 0 => wordOfBool k.monitor
  | 6 => BitVec.ofNat 64 s.time
  | 9 => BitVec.ofNat 64 (c + s.chip * 65536)
  | n => if n < 9 then k.ccr n else 0

/-- MFC (R228): CC_SCRATCH is closed to program mode. -/
def execMfc (core : Fin 64) (d n : Fin 32) (s : State) : Out :=
  s.instr core (encRR 0x30 d n 0 3) fun t =>
    if n.val = 8 ∧ !(t.core core).monitor then t.trap core 3 (BitVec.ofNat 64 n.val)
    else t.retire core fun k => k.setReg d (t.ccRead core n)

/-- The value a core control register takes (Table 07.8); CC_EVTMASK [63:61] are the monitor's. -/
def Core.ccWrite (k : Core) (n : Nat) (v : Word) : Core :=
  if n = 4 then k.setCc 4 (k.ccr 4 &&& ~~~v)
  else if n = 5 then k.setCc 5 (if k.monitor then v else setFld v 63 61 (fld (k.ccr 5) 63 61))
  else if n = 1 ∨ n = 2 ∨ n = 3 ∨ n = 7 ∨ n = 8 then k.setCc n v
  else k

/-- MTC (R228, Table 07.8): registers 10 to 31 raise ILLEGAL; program mode writes only CC_EVT, CC_EVTMASK [60:0] and CC_TCMP.
An event already there under the new mask raises its trap. -/
def execMtc (core : Fin 64) (n a : Fin 32) (s : State) : Out :=
  s.instr core (encRR 0x30 n a 0 4) fun t =>
    let k := t.core core
    if 10 ≤ n.val then t.trap core 1 (BitVec.ofNat 64 k.pc)
    else if !k.monitor ∧ n.val ≠ 4 ∧ n.val ≠ 5 ∧ n.val ≠ 7 then t.trap core 3 (BitVec.ofNat 64 n.val)
    else (t.retire core fun k => k.ccWrite n (k.reg a)).event core 0

/-- TRAP: cause 5 with the sign-extended code in CC_TVAL. -/
def execTrap (core : Fin 64) (imm : BitVec 16) (s : State) : Out :=
  s.instr core (encI 0x31 0 0 imm) fun t => t.trap core 5 (imm.signExtend 64)

/-- TCMP_REACHED (Tables 07.5, 07.8): CC_TIME reaches CC_TCMP: CC_EVT[4] sets, and WATCHDOG is raised under
CC_EVTMASK[61]. -/
def execTcmpReached (core : Fin 64) (s : State) : Out :=
  let k := s.core core
  if s.time < (k.ccr ccTcmp).toNat then .next s
  else
    let s1 := s.event core 0x10
    let k1 := s1.core core
    .next (if bit (k1.ccr ccMask) 61 ∧ k1.state ≠ .halted ∧ k1.state ≠ .doubleTrap then s1.trap core 8 0 else s1)

/-! ### Array-command instructions (R229, R230) -/

/-- A 64-byte command entry at a core address: its eight words, or the trap. -/
def State.entryAt (s : State) (c : Nat) (a : Word) : Except Nat (List Word) :=
  let prog := !(s.core c).monitor
  if a.toNat % 64 ≠ 0 then .error 3
  else
    let words := fun (lm : Bool) (o : Nat) =>
      if (List.range 8).any fun k => s.ownPoison lm c (o + 8 * k) then Except.error 4
      else .ok ((List.range 8).map fun k => BitVec.ofNat 64 (s.loadNat (ownSpace lm) (ownKey lm c o + 8 * k) 8))
    match fld a 63 60 with
    | 8 =>
      let o := fld a 24 0
      if fld a 59 25 ≠ 0 ∨ (prog ∧ (o < s.csLo c ∨ s.csHi c < o + 64)) then .error 3 else words false o
    | 9 =>
      let o := fld a 16 0
      if fld a 59 17 ≠ 0 ∨ (prog ∧ o < s.lmSplit c) then .error 3 else words true o
    | _ => .error 3

/-- Commands in flight: until their completion arrives (R230). -/
def Core.inFlight (k : Core) : Nat := k.cmds.length + k.arriving.length

/-- CC_EVT[0] of an enqueue that completed with CMD_FLUSHED at once (R231, R237). -/
def State.flushEvent (s : State) (c : Nat) : State := if (s.core c).cqHalt then s.event c 1 else s

/-- ACMD: enqueues the entry, or stalls while 64 commands are in flight. -/
def execAcmd (core : Fin 64) (d a : Fin 32) (s : State) : Out :=
  s.instr core (encRR 0x3C d a 0 0) fun t =>
    let k := t.core core
    match t.entryAt core (k.reg a) with
    | .error cause => t.trap core cause (k.reg a)
    | .ok ws =>
      if 64 ≤ k.inFlight then t.setCore core { k with state := .enqueue }
      else
        let r := t.enqueue core ws
        (r.1.retire core fun k => k.setReg d (BitVec.ofNat 64 r.2)).flushEvent core

/-- The first entry from `i` on of a list of `n` whose reading traps: the cause and its address. -/
def State.alistFault (s : State) (c n i : Nat) (a : Word) : Option (Nat × Word) :=
  (List.range (n - i)).findSome? fun j =>
    let at_ := a + BitVec.ofNat 64 (64 * (i + j))
    match s.entryAt c at_ with
    | .error cause => some (cause, at_)
    | .ok _ => none

/-- Enqueue entries `i`, `i + 1`, … of a list of `n`, all readable, until the last, or until the core stalls. -/
def alistRun : Nat → State → Nat → Nat → Nat → Nat → Word → State
  | 0, s, _, _, _, _, _ => s
  | fuel + 1, s, c, d, n, i, a =>
    let at_ := a + BitVec.ofNat 64 (64 * i)
    let k := s.core c
    match s.entryAt c at_ with
    | .error _ => s
    | .ok ws =>
      if 64 ≤ k.inFlight then s.setCore c { k with state := .enqueue, alist := i, alistAt := k.pc + 1 + (if k.monitor then 2 ^ 20 else 0) }
      else
        let r := s.enqueue c ws
        if n ≤ i + 1 then
          (r.1.retire c fun k => { k.setReg d (BitVec.ofNat 64 r.2) with alist := 0, alistAt := 0 }).flushEvent c
        else alistRun fuel r.1 c d n (i + 1) a

/-- ALIST: enqueues s_B entries and retires with the last; a stalled list goes on where it stood. An entry that traps stops the
list before anything of it, or anything more of it, is enqueued (R227, log entry 86). A count outside 1 to 4,096
enqueues nothing and leaves D a free value (log entry 86). -/
def execAlist (core : Fin 64) (d a b : Fin 32) (s : State) : Out :=
  s.instr core (encRR 0x3C d a b 1) fun t =>
    let k := t.core core
    let n := (k.reg b).toNat
    let mine := decide (k.alistAt = k.pc + 1 + (if k.monitor then 2 ^ 20 else 0))
    if n = 0 ∨ 4096 < n then
      let x := t.fresh
      x.2.retire core fun k => k.setReg d (Config.freeWord x.1)
    else
      let i := if mine then k.alist else 0
      match t.alistFault core n i (k.reg a) with
      | some (cause, at_) => (t.setCore core { k with alist := 0, alistAt := 0 }).trap core cause at_
      | none => alistRun 4096 t core d n i (k.reg a)

/-- The completion word of a stale ticket (R230). -/
def staleWord (t : Nat) : Word := complWord t 0 0x0503 none

/-- AWAIT: the completion word when it is readable, a wait while the command is in flight, TICKET_STALE otherwise. -/
def execAwait (core : Fin 64) (d a : Fin 32) (s : State) : Out :=
  s.instr core (encRR 0x3C d a 0 2) fun t =>
    let k := t.core core
    let n := fld (k.reg a) 15 0
    match k.done.find? (fun p => decide (p.1 = n)) with
    | some p => t.retire core fun k => k.setReg d p.2
    | none =>
      if k.readable n then t.setCore core { k with state := .await, awaitReg := d.val, awaitTicket := n }
      else t.retire core fun k => k.setReg d (staleWord n)

/-- APOLL: as AWAIT, but zero at once while the command is in flight. -/
def execApoll (core : Fin 64) (d a : Fin 32) (s : State) : Out :=
  s.instr core (encRR 0x3C d a 0 3) fun t =>
    let k := t.core core
    let n := fld (k.reg a) 15 0
    match k.done.find? (fun p => decide (p.1 = n)) with
    | some p => t.retire core fun k => k.setReg d p.2
    | none => t.retire core fun k => k.setReg d (if k.readable n then 0 else staleWord n)

end Sys2Proof.Machine
end

