-- ==== Sys2Proof/Machine/Mgmt.lean ====
section
/-!
DEFINITION. The management bus (R559 to R564), sensors (R565), the wicket monitor (R569 to R571) and the module's own events
(R581, R583, R585, R588). An answer is left in `loft.reply`. Nothing answers while the input is below 35 V.
-/
namespace Sys2Proof.Machine
open Sys2Proof

/-- Something the loft does, while it has power. -/
def State.awake (s : State) (f : State → State) : Out := if s.loft.off then .next s else .next (f s)

/-! ### MCTP and PLDM (R559; message layouts PRESUMED, log entry 87) -/

/-- MCTP_CONTROL: Set and Get Endpoint ID, version support (a free value: the manual names none), message type support; any
other code is an unsupported command. -/
def execMctpControl (code : BitVec 8) (data : List (BitVec 8)) (s : State) : Out :=
  s.awake fun s =>
    match code.toNat with
    | 1 =>
      let e := (lget data 1 0).toNat
      if data.length < 2 then s.answer 1 3 [] []
      else if e = 0 ∨ e = 255 then s.answer 1 2 [] []
      else (s.setLoft { s.loft with eid := e }).answer 1 0 [] [0, 0, BitVec.ofNat 8 e, 0]
    | 2 => s.answer 1 0 [] [0, BitVec.ofNat 8 s.loft.eid, 0, 0]
    | 4 =>
      let x := s.fresh
      x.2.answer 1 0 [Config.freeWord x.1] []
    | 5 => s.answer 1 0 [] [0, 3, 0x01, 0x05, 0x7E]
    | _ => s.answer 1 5 [] []

/-- PLDM_DISCOVERY: SetTID, GetTID, GetPLDMVersion and GetPLDMCommands (free values: the manual names neither), GetPLDMTypes
(types 0, 2 and 5); any other code is an unsupported command. -/
def execPldmDiscovery (code : BitVec 8) (data : List (BitVec 8)) (s : State) : Out :=
  s.awake fun s =>
    match code.toNat with
    | 1 =>
      let t := (lget data 0 0).toNat
      if t = 0 ∨ t = 255 then s.answer 1 2 [] [] else (s.setLoft { s.loft with tid := t }).answer 1 0 [] []
    | 2 => s.answer 1 0 [] [BitVec.ofNat 8 s.loft.tid]
    | 4 => s.answer 1 0 [] (natToBytes 8 0x25)
    | 3 | 5 =>
      let x := s.fresh
      x.2.answer 1 0 [] ((List.range 32).map (Config.freeByte x.1))
    | _ => s.answer 1 5 [] []

/-- Range of a sensor (Table 18.6); none for an index the table leaves out. -/
def sensRange (i : Nat) : Option (Int × Int) :=
  if i = 0 then some (0, 80000)
  else if i = 1 then some (0, 120000)
  else if i = 2 then some (0, 6000)
  else if 16 ≤ i ∧ i ≤ 36 then some (0, 4000)
  else if 48 ≤ i ∧ i ≤ 68 then some (0, 2000000)
  else if 128 ≤ i ∧ i ≤ 207 then some (-400, 1500)
  else if i = 208 ∨ i = 209 then some (0, 1000)
  else if i = 210 then some (0, 200000)
  else if i = 211 then some (0, 20000)
  else if 256 ≤ i ∧ i ≤ 271 then some (0, 200000)
  else if 512 ≤ i ∧ i ≤ 767 then some (0, 10000)
  else none

/-- PLDM_SENSOR_READING: sensor ID is index + 1; the operational state (0 enabled, 2 unavailable) and the reading. -/
def execPldmSensorReading (id : BitVec 16) (s : State) : Out :=
  s.awake fun s =>
    let i := id.toNat - 1
    if id = 0 ∨ sensRange i = none then s.answer 1 0x80 [] []
    else
      let v := s.rd .LOFT_SENS i 0
      if bit v 63 then s.answer 1 0 [0, v &&& 0xFFFFFFFF] [] else s.answer 1 0 [2, 0] []

/-- POLL_FOR_PLATFORM_EVENT_MESSAGE (R563): the oldest event, taken from the queue; no words when there is none. -/
def execPollForPlatformEventMessage (s : State) : Out :=
  s.awake fun s =>
    match s.loft.evq with
    | [] => s.answer 1 0 [] []
    | e :: es => (s.setLoft { s.loft with evq := es }).answer 1 0 [BitVec.ofNat 64 e.kind, BitVec.ofNat 64 e.num, wordOfBool e.on, wordOfBool e.fatal] e.bytes

/-- QUERY_DEVICE_IDENTIFIERS (R564). -/
def execQueryDeviceIdentifiers (s : State) : Out := s.awake fun s => s.answer 1 0 [0x1D5A, 0x0640, 0x640C, Config.serial] []

/-! ### Firmware update (R564) -/

/-- The copy of an image type that did not boot; a free pick where neither did. -/
def State.updCopy (s : State) (typ : Nat) : Nat :=
  if mget dNil s.hasp.run typ = [] then Config.freeNat s.free % 2 else 1 - s.rdF .HSP_STATUS 0 0 (51 + typ) (51 + typ)

/-- The flash with a copy of an image replaced. -/
def State.setFlash (s : State) (key : Nat) (x : FwImage) : State :=
  s.setHasp { s.hasp with flash := mput dNone s.hasp.flash key (some x) }

/-- FIRMWARE_UPDATE_TRANSFER: a piece of an image of type `typ` + 1. The first marks the copy invalid; `last` ends the image. -/
def execFirmwareUpdateTransfer (typ : Fin 4) (bytes : List (BitVec 8)) (last : Bool) (s : State) : Out :=
  s.awake fun s =>
    let t := typ.val + 1
    let begun := match s.loft.upd with
      | some u => if u.typ = t then some u else none
      | none => none
    let r : FwUpd × State := match begun with
      | some u => (u, s)
      | none =>
        let c := s.updCopy t
        let key := t * 2 + c
        let s1 := { s with free := s.free + 1 }
        let old := match s1.flashImg t c with
          | some x => { x with invalid := true }
          | none => ⟨[], [], true⟩
        (⟨t, c, []⟩, (s1.setFlash key old).setLoft { s1.loft with
          checked := s1.loft.checked.filter (· ≠ key), activate := s1.loft.activate.filter (· ≠ key) })
    let got := r.1.got ++ bytes
    let key := t * 2 + r.1.copy
    if last then
      ((r.2.setFlash key ⟨got.take 256, got.drop 256, true⟩).setLoft { r.2.loft with upd := none, checked := r.2.loft.checked ++ [key] }).answer 1 0 [] []
    else (r.2.setLoft { r.2.loft with upd := some { r.1 with got := got } }).answer 1 0 [] []

/-- Status of activating a received image: checks 1, 2, 3 and 5 of R535, then its counter. -/
def State.updStatus (s : State) (key : Nat) : Nat :=
  match s.flashImg (key / 2) (key % 2) with
  | none => 0x1006
  | some x => if !s.imageSound (key / 2) x.hdr x.body then 0x1006 else if s.rolledBack x.hdr then 0x0F02 else 0

/-- ACTIVATE_FIRMWARE: the received images take effect at the next warm reset, which recovery makes at once; one that fails
refuses the request. LAST_RESET of that reset is a free value: no code names it. -/
def execActivateFirmware (s : State) : Out :=
  s.awake fun s =>
    match s.loft.checked.find? (fun k => decide (s.updStatus k ≠ 0)) with
    | some k => s.answer 1 (s.updStatus k) [] []
    | none =>
      let s1 := (s.setLoft { s.loft with activate := s.loft.activate ++ s.loft.checked, checked := [] }).answer 1 0 [] []
      if s.rdF .HSP_STATUS 0 0 58 56 = 7 ∧ s.loft.checked ≠ [] then
        let x := s1.fresh
        x.2.warmTrigger (Config.freeNat x.1 % 8)
      else s1

/-! ### Kuavazar messages (Table 18.4) -/

/-- Whether a request for a register needs firmware that is not yet Ready (R555, R560; log entry 88). -/
def State.notReady (s : State) (a : Nat) : Bool := !s.isReady && decide ((a - 0xF00000000000) / 0x10000000 < 14)

/-- Whether a message names a CSR address and a width of 4 or 8. -/
def kzBad (a width : Nat) : Bool := !decide ((width = 4 ∨ width = 8) ∧ 0xF00000000000 ≤ a ∧ a < 0xF00100000000)

/-- The last read's value and status, put back after an access of the loft's own. -/
def State.keepRead (t s : State) : State := { t with rdata := s.rdata, rstat := s.rstat }

/-- KZ_CSR_READ (R561). -/
def execKzCsrRead (addr : BitVec 48) (width : Nat) (s : State) : Out :=
  s.awake fun s =>
    let a := addr.toNat
    if kzBad a width then s.answer 1 0x1002 [] []
    else if s.notReady a then s.answer 1 0x1001 [] []
    else
      let t := s.csrRead .tray a width
      (t.answer 1 t.rstat [t.rdata] []).keepRead s

/-- KZ_CSR_WRITE (R561). -/
def execKzCsrWrite (addr : BitVec 48) (width : Nat) (value : BitVec 64) (s : State) : Out :=
  s.awake fun s =>
    let a := addr.toNat
    if kzBad a width then s.answer 1 0x1002 [] []
    else if s.notReady a then s.answer 1 0x1001 [] []
    else
      let t := s.csrWrite .tray a width value 0 true
      (t.answer 1 t.rstat [] []).keepRead s

/-- KZ_WAKE (R495). -/
def execKzWake (s : State) : Out := s.awake fun s => s.wake.answer 1 0 [] []

/-- Records of the persistent log by record number, oldest first (R568). -/
def State.logFrom (s : State) (first count : Nat) : List (List Byte) :=
  let lo := s.loft.logNo - s.loft.log.length
  if first < lo then (s.loft.log.take (first + count - lo)) else (s.loft.log.drop (first - lo)).take count

/-- KZ_LOG_READ. -/
def execKzLogRead (first : BitVec 64) (count : Nat) (s : State) : Out :=
  s.awake fun s =>
    if count < 1 ∨ 4 < count then s.answer 1 0x1002 [] []
    else s.answer 1 0 [] (s.logFrom first.toNat count).flatten

/-- The four status words. -/
def State.health (s : State) : List Word :=
  [s.regRead .LOFT_STATUS 0 0, s.regRead .PWR_STATUS 0 0, s.regRead .CHF_STATUS 0 0, s.regRead .HSP_STATUS 0 0]

/-- KZ_HEALTH. -/
def execKzHealth (s : State) : Out := s.awake fun s => s.answer 1 0 s.health []

/-! ### Sensors (R565) -/

/-- A reading with the user calibration of Table 18.7. -/
def State.calSense (s : State) (i : Nat) (v : Int) : Int :=
  if 128 ≤ i ∧ i ≤ 199 then v + s.calOff 0
  else if i = 208 then v + s.calOff 1
  else if i = 211 then v * (1000 + s.calOff 2) / 1000
  else if i = 0 then v + s.calOff 3
  else if i = 1 ∨ i = 2 then v * (1000 + s.calOff 4) / 1000
  else v

/-- SENSOR_SAMPLE: `raw` carries the factory calibration; `valid` is false for a source that is dark or fenced, whose register
keeps its last value without VALID. -/
def execSensorSample (i : Fin 768) (raw : BitVec 32) (valid : Bool) (s : State) : Out :=
  s.awake fun s =>
    match sensRange i with
    | none => s
    | some (lo, hi) =>
      if valid then
        let s1 := s.wr .LOFT_SENS i 0 (sensWord lo hi (s.calSense i raw.toInt))
        if i.val = 0 then s1.setLoft { s1.loft with mv := raw.toInt.toNat } else s1
      else s.wrF .LOFT_SENS i 0 63 63 0

/-! ### The wicket (Table 18.8) -/

/-- A command of the wicket at a debug level: ERR 0x0F05 below it. -/
def State.wicket (s : State) (level : Nat) (f : State → State) : Out :=
  s.awake fun s => if s.rdF .HSP_STATUS 0 0 51 50 < level then s.answer 3 0x0F05 [] [] else f s

/-- WICKET_ID: LOFT_ID, the serial, and the booted copies. -/
def execWicketId (s : State) : Out :=
  s.wicket 0 fun s => s.answer 3 0 [s.rd .LOFT_ID 0 0, Config.serial, BitVec.ofNat 64 (s.rdF .HSP_STATUS 0 0 55 52)] []

/-- WICKET_BAUD (R569): the rate of the characters after OK. -/
def execWicketBaud (rate : Nat) (s : State) : Out :=
  s.wicket 0 fun s =>
    if rate ∈ [115200, 460800, 921600, 1500000, 3000000] then (s.setLoft { s.loft with baud := rate }).answer 3 0 [] []
    else s.answer 3 0x0F05 [] []

/-- WICKET_CHAL (R548): a fresh nonce. -/
def execWicketChal (s : State) : Out :=
  s.wicket 0 fun s =>
    let t := s.challenge
    t.answer 3 0 ((List.range 4).map fun k => t.rd .HSP_DBG_CHAL k 0) []

/-- WICKET_UNLOCK (R548). -/
def execWicketUnlock (level : Nat) (sig : List (BitVec 8)) (s : State) : Out :=
  s.wicket 0 fun s =>
    if sig.length ≠ 64 then s.answer 3 0x0F05 [] []
    else
      let r := s.unlock level sig
      r.1.answer 3 r.2 [] []

def execWicketStatus (s : State) : Out := s.wicket 1 fun s => s.answer 3 0 s.health []

/-- Indices of a list command, up to a limit. -/
def spanOf (first count limit : Nat) : List Nat := (List.range (min count (limit - first))).map (first + ·)

def execWicketSens (first count : Nat) (s : State) : Out :=
  s.wicket 1 fun s => s.answer 3 0 ((spanOf first count 768).map fun i => s.regRead .LOFT_SENS i 0) []
/-- WICKET_RING: by position among the records held (log entry 89). -/
def execWicketRing (first count : Nat) (s : State) : Out :=
  s.wicket 1 fun s => s.answer 3 0 [] ((s.ringDump.drop first).take count).flatten
def execWicketFmap (first count : Nat) (s : State) : Out :=
  s.wicket 1 fun s => s.answer 3 0 ((spanOf first count s.fences).flatMap fun i => [s.rd .CHF_FMAP_A i 0, s.rd .CHF_FMAP_B i 0]) []
def execWicketLog (first count : Nat) (s : State) : Out :=
  s.wicket 1 fun s => s.answer 3 0 [] (s.logFrom first count).flatten

/-- A read of the wicket at a core address (Table 07.1): the value and its status. The wicket has no local memory of its own
and no slice context (log entry 90). -/
def State.wicketRead (s : State) (a : Word) (n : Nat) : State × Nat × Nat :=
  let la := fld a 47 0
  let bad := (s.raiseProt 15 0 la, stProt, 0)
  if ¬ (n = 1 ∨ n = 2 ∨ n = 4 ∨ n = 8) ∨ a.toNat % n ≠ 0 then (s, stProt, 0)
  else
    match fld a 63 60 with
    | 0 =>
      if fld a 59 48 ≠ 0 then bad
      else if 0xF00000000000 ≤ la ∧ la < 0xF00100000000 then
        let t := s.csrRead .wicket la n
        (t.keepRead s, t.rstat, t.rdata.toNat)
      else
        match s.fetch .firmware la n false with
        | .error st => (s.noteRefusal st 15 0 la, st, 0)
        | .ok bs => (s.countAt la n, stOK, bytesToNat bs)
    | 1 =>
      if fld a 59 48 ≠ s.chip then bad
      else
        match s.fetch .firmware la n false with
        | .error st => (s.noteRefusal st 15 0 la, st, 0)
        | .ok bs => (s.countAt la n, stOK, bytesToNat bs)
    | 8 => if fld a 59 25 ≠ 0 then bad else (s, stOK, s.loadNat .csram (fld a 24 0) n)
    | _ => bad

/-- A write of the wicket. -/
def State.wicketWrite (s : State) (a : Word) (n : Nat) (v : Word) : State × Nat :=
  let la := fld a 47 0
  let bs := natToBytes n v.toNat
  let bad := (s.raiseProt 15 0 la, stProt)
  if ¬ (n = 1 ∨ n = 2 ∨ n = 4 ∨ n = 8) ∨ a.toNat % n ≠ 0 then (s, stProt)
  else
    match fld a 63 60 with
    | 0 =>
      if fld a 59 48 ≠ 0 then bad
      else if 0xF00000000000 ≤ la ∧ la < 0xF00100000000 then
        let t := s.csrWrite .wicket la n v 0 true
        (t.keepRead s, t.rstat)
      else
        match s.put .firmware la bs false with
        | .error st => (s.noteRefusal st 15 0 la, st)
        | .ok t => (t, stOK)
    | 1 =>
      if fld a 59 48 ≠ s.chip then bad
      else
        match s.put .firmware la bs false with
        | .error st => (s.noteRefusal st 15 0 la, st)
        | .ok t => (t, stOK)
    | 8 => if fld a 59 25 ≠ 0 then bad else (s.ownStore false 0 (fld a 24 0) bs, stOK)
    | _ => bad

/-- WICKET_RD: `count` values from consecutive addresses, up to the first that fails. -/
def wicketReads : Nat → State → Word → Nat → List Word → State
  | 0, s, _, _, vs => s.answer 3 0 vs []
  | k + 1, s, a, n, vs =>
    let r := s.wicketRead a n
    if r.2.1 ≠ stOK then r.1.answer 3 r.2.1 vs []
    else wicketReads k r.1 (a + BitVec.ofNat 64 n) n (vs ++ [BitVec.ofNat 64 r.2.2])

def execWicketRd (addr : BitVec 64) (width count : Nat) (s : State) : Out := s.wicket 2 fun s => wicketReads count s addr width []

/-- WICKET_WR (R571). -/
def execWicketWr (addr : BitVec 64) (width : Nat) (value : BitVec 64) (s : State) : Out :=
  s.wicket 2 fun s =>
    let r := s.wicketWrite addr width value
    r.1.answer 3 r.2 [] []

/-- WICKET_HALT, WICKET_GO and WICKET_REGS. -/
def execWicketHalt (core : Fin 64) (s : State) : Out :=
  s.wicket 2 fun s => (s.runWrite core (setFld (s.rd .BND_RUN core 0) 63 63 0) true).answer 3 0 [] []
def execWicketGo (core : Fin 64) (pc : BitVec 17) (s : State) : Out :=
  s.wicket 2 fun s => (s.runWrite core (setFld (pc.setWidth 64) 63 63 1) true).answer 3 0 [] []
def execWicketRegs (core : Fin 64) (s : State) : Out :=
  s.wicket 2 fun s =>
    let k := s.core core
    s.answer 3 0 ((List.range 32).map k.reg ++ [BitVec.ofNat 64 k.pc] ++ (List.range 10).map fun n => s.ccRead core n) []

/-- WICKET_RESET_WARM and WICKET_RESET_COLD: LAST_RESET 6 (Table 18.10). -/
def execWicketResetWarm (s : State) : Out := s.wicket 2 fun s => (s.answer 3 0 [] []).warmTrigger 6
def execWicketResetCold (s : State) : Out := s.wicket 2 fun s => (s.answer 3 0 [] []).coldTrigger 6

/-! ### The module's own events (chapter 19) -/

/-- SMBUS_SCL_TIMEOUT and SMB_SDA_STUCK (R560, R583): the line has been low for 25 ms. -/
def execSmbusSclTimeout (s : State) : Out := s.awake fun s => s.modEvent 2 2
def execSmbSdaStuck (s : State) : Out := s.awake fun s => s.modEvent 2 3

/-- PIN_READBACK_CHECK (R581): `bad` when a mismatch of this output pin has lasted 10 ms. -/
def execPinReadbackCheck (pin : Fin 41) (bad : Bool) (s : State) : Out :=
  s.awake fun s => if bad ∧ pin.val ∈ [5, 6, 16] then s.modEvent 3 pin else s

/-- LASER_INPUT_LOW (R585): a powered engine's input fibre below 60 mW for 10 ms; nothing is reported in deep idle. -/
def execLaserInputLow (fibre : Fin 16) (s : State) : Out :=
  s.awake fun s =>
    if s.pwr.idle = 2 ∨ s.pwr.tripped ∨ 9 ∉ s.loft.done then s else (s.modEvent 6 fibre).laserDark fibre

/-- LIGHT_ON_DATA_FIBRE (R588): the lane of an optical engine, 32 to each; its port goes DARK with cause 3. -/
def execLightOnDataFibre (lane : Fin 256) (s : State) : Out :=
  s.awake fun s =>
    let s1 := s.modEvent 5 lane
    if lane.val < 192 then s1.hayDark (lane.val / 8) 3 else s1.grnDark ((lane.val - 192) / 16)

/-- REF3V3_LIMIT (R583): 3V3_REF in current limit for 10 ms. -/
def execRef3v3Limit (s : State) : Out := s.awake fun s => s.modEvent 4 26

end Sys2Proof.Machine
end

