-- ==== Sys2Proof/Machine/Stage.lean ====
section
/-!
DEFINITION. The vector-mode stage words of Table 03.6, one meaning each: the issue of the word at which the stage's
sequencer stands, when it is that operation (class and OP code of Table 03.6).
-/
namespace Sys2Proof.Machine
open Sys2Proof

/-- NOP of stage `stage` (Table 03.6, class 0, OP 0; R81). -/
def execNop (unit : Fin 16896) (stage : Fin 4) (s : State) : Out := .next (s.issue unit stage 0 0)

/-- MOV of stage `stage` (Table 03.6, class 0, OP 1; R81). -/
def execMov (unit : Fin 16896) (stage : Fin 4) (s : State) : Out := .next (s.issue unit stage 0 1)

/-- LROT of stage `stage` (Table 03.6, class 0, OP 2; R81). -/
def execLrot (unit : Fin 16896) (stage : Fin 4) (s : State) : Out := .next (s.issue unit stage 0 2)

/-- LBC of stage `stage` (Table 03.6, class 0, OP 3; R81). -/
def execLbc (unit : Fin 16896) (stage : Fin 4) (s : State) : Out := .next (s.issue unit stage 0 3)

/-- PTOI of stage `stage` (Table 03.6, class 0, OP 4; R81). -/
def execPtoi (unit : Fin 16896) (stage : Fin 4) (s : State) : Out := .next (s.issue unit stage 0 4)

/-- ITOP of stage `stage` (Table 03.6, class 0, OP 5; R81). -/
def execItop (unit : Fin 16896) (stage : Fin 4) (s : State) : Out := .next (s.issue unit stage 0 5)

/-- FADD of stage `stage` (Table 03.6, class 1, OP 0; R81). -/
def execStageFadd (unit : Fin 16896) (stage : Fin 4) (s : State) : Out := .next (s.issue unit stage 1 0)

/-- FSUB of stage `stage` (Table 03.6, class 1, OP 1; R81). -/
def execStageFsub (unit : Fin 16896) (stage : Fin 4) (s : State) : Out := .next (s.issue unit stage 1 1)

/-- FMUL of stage `stage` (Table 03.6, class 1, OP 2; R81). -/
def execStageFmul (unit : Fin 16896) (stage : Fin 4) (s : State) : Out := .next (s.issue unit stage 1 2)

/-- FFMA of stage `stage` (Table 03.6, class 1, OP 3; R81). -/
def execStageFfma (unit : Fin 16896) (stage : Fin 4) (s : State) : Out := .next (s.issue unit stage 1 3)

/-- FMIN of stage `stage` (Table 03.6, class 1, OP 4; R83). -/
def execStageFmin (unit : Fin 16896) (stage : Fin 4) (s : State) : Out := .next (s.issue unit stage 1 4)

/-- FMAX of stage `stage` (Table 03.6, class 1, OP 5; R83). -/
def execStageFmax (unit : Fin 16896) (stage : Fin 4) (s : State) : Out := .next (s.issue unit stage 1 5)

/-- FABS of stage `stage` (Table 03.6, class 1, OP 6; R81). -/
def execFabs (unit : Fin 16896) (stage : Fin 4) (s : State) : Out := .next (s.issue unit stage 1 6)

/-- FNEG of stage `stage` (Table 03.6, class 1, OP 7; R81). -/
def execFneg (unit : Fin 16896) (stage : Fin 4) (s : State) : Out := .next (s.issue unit stage 1 7)

/-- FDIV of stage `stage` (Table 03.6, class 1, OP 8; R81). -/
def execStageFdiv (unit : Fin 16896) (stage : Fin 4) (s : State) : Out := .next (s.issue unit stage 1 8)

/-- IADD of stage `stage` (Table 03.6, class 2, OP 0; R81). -/
def execIadd (unit : Fin 16896) (stage : Fin 4) (s : State) : Out := .next (s.issue unit stage 2 0)

/-- ISUB of stage `stage` (Table 03.6, class 2, OP 1; R81). -/
def execIsub (unit : Fin 16896) (stage : Fin 4) (s : State) : Out := .next (s.issue unit stage 2 1)

/-- IMUL of stage `stage` (Table 03.6, class 2, OP 2; R81). -/
def execImul (unit : Fin 16896) (stage : Fin 4) (s : State) : Out := .next (s.issue unit stage 2 2)

/-- IMIN of stage `stage` (Table 03.6, class 2, OP 3; R81). -/
def execImin (unit : Fin 16896) (stage : Fin 4) (s : State) : Out := .next (s.issue unit stage 2 3)

/-- IMAX of stage `stage` (Table 03.6, class 2, OP 4; R81). -/
def execImax (unit : Fin 16896) (stage : Fin 4) (s : State) : Out := .next (s.issue unit stage 2 4)

/-- AND of stage `stage` (Table 03.6, class 2, OP 5; R81). -/
def execStageAnd (unit : Fin 16896) (stage : Fin 4) (s : State) : Out := .next (s.issue unit stage 2 5)

/-- OR of stage `stage` (Table 03.6, class 2, OP 6; R81). -/
def execStageOr (unit : Fin 16896) (stage : Fin 4) (s : State) : Out := .next (s.issue unit stage 2 6)

/-- XOR of stage `stage` (Table 03.6, class 2, OP 7; R81). -/
def execStageXor (unit : Fin 16896) (stage : Fin 4) (s : State) : Out := .next (s.issue unit stage 2 7)

/-- SHL of stage `stage` (Table 03.6, class 2, OP 8; R81). -/
def execStageShl (unit : Fin 16896) (stage : Fin 4) (s : State) : Out := .next (s.issue unit stage 2 8)

/-- SHR of stage `stage` (Table 03.6, class 2, OP 9; R81). -/
def execStageShr (unit : Fin 16896) (stage : Fin 4) (s : State) : Out := .next (s.issue unit stage 2 9)

/-- SAR of stage `stage` (Table 03.6, class 2, OP 10; R81). -/
def execStageSar (unit : Fin 16896) (stage : Fin 4) (s : State) : Out := .next (s.issue unit stage 2 10)

/-- DOTF of stage `stage` (Table 03.6, class 3, OP 0; R85). -/
def execDotf (unit : Fin 16896) (stage : Fin 4) (s : State) : Out := .next (s.issue unit stage 3 0)

/-- DOTI of stage `stage` (Table 03.6, class 3, OP 1; R51). -/
def execDoti (unit : Fin 16896) (stage : Fin 4) (s : State) : Out := .next (s.issue unit stage 3 1)

/-- DOTMX of stage `stage` (Table 03.6, class 3, OP 2; R86). -/
def execDotmx (unit : Fin 16896) (stage : Fin 4) (s : State) : Out := .next (s.issue unit stage 3 2)

/-- CVT of stage `stage` (Table 03.6, class 4, OP 0; R81). -/
def execCvt (unit : Fin 16896) (stage : Fin 4) (s : State) : Out := .next (s.issue unit stage 4 0)

/-- MXSC of stage `stage` (Table 03.6, class 4, OP 1; R40). -/
def execMxsc (unit : Fin 16896) (stage : Fin 4) (s : State) : Out := .next (s.issue unit stage 4 1)

/-- MXQ of stage `stage` (Table 03.6, class 4, OP 2; R41). -/
def execMxq (unit : Fin 16896) (stage : Fin 4) (s : State) : Out := .next (s.issue unit stage 4 2)

/-- MXDQ of stage `stage` (Table 03.6, class 4, OP 3; R81). -/
def execMxdq (unit : Fin 16896) (stage : Fin 4) (s : State) : Out := .next (s.issue unit stage 4 3)

/-- FCMPEQ of stage `stage` (Table 03.6, class 5, OP 0; R81). -/
def execFcmpeq (unit : Fin 16896) (stage : Fin 4) (s : State) : Out := .next (s.issue unit stage 5 0)

/-- FCMPLT of stage `stage` (Table 03.6, class 5, OP 1; R81). -/
def execFcmplt (unit : Fin 16896) (stage : Fin 4) (s : State) : Out := .next (s.issue unit stage 5 1)

/-- FCMPLE of stage `stage` (Table 03.6, class 5, OP 2; R81). -/
def execFcmple (unit : Fin 16896) (stage : Fin 4) (s : State) : Out := .next (s.issue unit stage 5 2)

/-- FCMPUN of stage `stage` (Table 03.6, class 5, OP 3; R81). -/
def execFcmpun (unit : Fin 16896) (stage : Fin 4) (s : State) : Out := .next (s.issue unit stage 5 3)

/-- ICMPEQ of stage `stage` (Table 03.6, class 5, OP 4; R81). -/
def execIcmpeq (unit : Fin 16896) (stage : Fin 4) (s : State) : Out := .next (s.issue unit stage 5 4)

/-- ICMPLT of stage `stage` (Table 03.6, class 5, OP 5; R81). -/
def execIcmplt (unit : Fin 16896) (stage : Fin 4) (s : State) : Out := .next (s.issue unit stage 5 5)

/-- ICMPLTU of stage `stage` (Table 03.6, class 5, OP 6; R81). -/
def execIcmpltu (unit : Fin 16896) (stage : Fin 4) (s : State) : Out := .next (s.issue unit stage 5 6)

/-- SEL of stage `stage` (Table 03.6, class 5, OP 8; R81). -/
def execSel (unit : Fin 16896) (stage : Fin 4) (s : State) : Out := .next (s.issue unit stage 5 8)

/-- PAND of stage `stage` (Table 03.6, class 5, OP 9; R81). -/
def execPand (unit : Fin 16896) (stage : Fin 4) (s : State) : Out := .next (s.issue unit stage 5 9)

/-- POR of stage `stage` (Table 03.6, class 5, OP 10; R81). -/
def execPor (unit : Fin 16896) (stage : Fin 4) (s : State) : Out := .next (s.issue unit stage 5 10)

/-- PXOR of stage `stage` (Table 03.6, class 5, OP 11; R81). -/
def execPxor (unit : Fin 16896) (stage : Fin 4) (s : State) : Out := .next (s.issue unit stage 5 11)

/-- PNOT of stage `stage` (Table 03.6, class 5, OP 12; R81). -/
def execPnot (unit : Fin 16896) (stage : Fin 4) (s : State) : Out := .next (s.issue unit stage 5 12)

/-- EXP2 of stage `stage` (Table 03.6, class 6, OP 0; R56). -/
def execExp2 (unit : Fin 16896) (stage : Fin 4) (s : State) : Out := .next (s.issue unit stage 6 0)

/-- LOG2 of stage `stage` (Table 03.6, class 6, OP 1; R56). -/
def execLog2 (unit : Fin 16896) (stage : Fin 4) (s : State) : Out := .next (s.issue unit stage 6 1)

/-- RCP of stage `stage` (Table 03.6, class 6, OP 2; R56). -/
def execRcp (unit : Fin 16896) (stage : Fin 4) (s : State) : Out := .next (s.issue unit stage 6 2)

/-- RSQRT of stage `stage` (Table 03.6, class 6, OP 3; R56). -/
def execRsqrt (unit : Fin 16896) (stage : Fin 4) (s : State) : Out := .next (s.issue unit stage 6 3)

/-- TANH of stage `stage` (Table 03.6, class 6, OP 4; R56). -/
def execTanh (unit : Fin 16896) (stage : Fin 4) (s : State) : Out := .next (s.issue unit stage 6 4)

/-- SIGM of stage `stage` (Table 03.6, class 6, OP 5; R56). -/
def execSigm (unit : Fin 16896) (stage : Fin 4) (s : State) : Out := .next (s.issue unit stage 6 5)

/-- COMPRESS of stage `stage` (Table 03.6, class 7, OP 0; R93). -/
def execCompress (unit : Fin 16896) (stage : Fin 4) (s : State) : Out := .next (s.issue unit stage 7 0)

/-- EXPAND of stage `stage` (Table 03.6, class 7, OP 1; R94). -/
def execExpand (unit : Fin 16896) (stage : Fin 4) (s : State) : Out := .next (s.issue unit stage 7 1)

/-- LSUM of stage `stage` (Table 03.6, class 7, OP 2; R87). -/
def execLsum (unit : Fin 16896) (stage : Fin 4) (s : State) : Out := .next (s.issue unit stage 7 2)

/-- LMAX of stage `stage` (Table 03.6, class 7, OP 3; R87). -/
def execLmax (unit : Fin 16896) (stage : Fin 4) (s : State) : Out := .next (s.issue unit stage 7 3)

/-- ISUM of stage `stage` (Table 03.6, class 7, OP 4; R81). -/
def execIsum (unit : Fin 16896) (stage : Fin 4) (s : State) : Out := .next (s.issue unit stage 7 4)

/-- PCOUNT of stage `stage` (Table 03.6, class 7, OP 5; R81). -/
def execPcount (unit : Fin 16896) (stage : Fin 4) (s : State) : Out := .next (s.issue unit stage 7 5)

/-- AZERO of stage `stage` (Table 03.6, class 8, OP 0; R81). -/
def execAzero (unit : Fin 16896) (stage : Fin 4) (s : State) : Out := .next (s.issue unit stage 8 0)

/-- AREAD of stage `stage` (Table 03.6, class 8, OP 1; R81). -/
def execAread (unit : Fin 16896) (stage : Fin 4) (s : State) : Out := .next (s.issue unit stage 8 1)

/-- AWRITE of stage `stage` (Table 03.6, class 8, OP 2; R81). -/
def execAwrite (unit : Fin 16896) (stage : Fin 4) (s : State) : Out := .next (s.issue unit stage 8 2)

/-- AADD of stage `stage` (Table 03.6, class 8, OP 3; R81). -/
def execAadd (unit : Fin 16896) (stage : Fin 4) (s : State) : Out := .next (s.issue unit stage 8 3)

/-- AREADZ of stage `stage` (Table 03.6, class 8, OP 4; R81). -/
def execAreadz (unit : Fin 16896) (stage : Fin 4) (s : State) : Out := .next (s.issue unit stage 8 4)

end Sys2Proof.Machine
end

