-- ==== Sys2Proof/Machine/Dispatch.lean ====
section
/-!
DEFINITION. One arm per constructor of Instr: a direct call of the command's meaning.
-/
namespace Sys2Proof.Machine
open Sys2Proof

def exec (i : Instr) (s : State) : Host.Outcome State Fault Refusal :=
  match i with
  | .rcRead who addr bytes set => Sys2Proof.Machine.execRcRead who addr bytes set s
  | .registerWrite who addr bytes value set => Sys2Proof.Machine.execRegisterWrite who addr bytes value set s
  | .crossingDelivery path => Sys2Proof.Machine.execCrossingDelivery path s
  | .srSeedWrite unit atSwitch => Sys2Proof.Machine.execSrSeedWrite unit atSwitch s
  | .sectionFlagsVisible plot => Sys2Proof.Machine.execSectionFlagsVisible plot s
  | .nop unit stage => Sys2Proof.Machine.execNop unit stage s
  | .mov unit stage => Sys2Proof.Machine.execMov unit stage s
  | .lrot unit stage => Sys2Proof.Machine.execLrot unit stage s
  | .lbc unit stage => Sys2Proof.Machine.execLbc unit stage s
  | .ptoi unit stage => Sys2Proof.Machine.execPtoi unit stage s
  | .itop unit stage => Sys2Proof.Machine.execItop unit stage s
  | .stageFadd unit stage => Sys2Proof.Machine.execStageFadd unit stage s
  | .stageFsub unit stage => Sys2Proof.Machine.execStageFsub unit stage s
  | .stageFmul unit stage => Sys2Proof.Machine.execStageFmul unit stage s
  | .stageFfma unit stage => Sys2Proof.Machine.execStageFfma unit stage s
  | .stageFmin unit stage => Sys2Proof.Machine.execStageFmin unit stage s
  | .stageFmax unit stage => Sys2Proof.Machine.execStageFmax unit stage s
  | .fabs unit stage => Sys2Proof.Machine.execFabs unit stage s
  | .fneg unit stage => Sys2Proof.Machine.execFneg unit stage s
  | .stageFdiv unit stage => Sys2Proof.Machine.execStageFdiv unit stage s
  | .iadd unit stage => Sys2Proof.Machine.execIadd unit stage s
  | .isub unit stage => Sys2Proof.Machine.execIsub unit stage s
  | .imul unit stage => Sys2Proof.Machine.execImul unit stage s
  | .imin unit stage => Sys2Proof.Machine.execImin unit stage s
  | .imax unit stage => Sys2Proof.Machine.execImax unit stage s
  | .stageAnd unit stage => Sys2Proof.Machine.execStageAnd unit stage s
  | .stageOr unit stage => Sys2Proof.Machine.execStageOr unit stage s
  | .stageXor unit stage => Sys2Proof.Machine.execStageXor unit stage s
  | .stageShl unit stage => Sys2Proof.Machine.execStageShl unit stage s
  | .stageShr unit stage => Sys2Proof.Machine.execStageShr unit stage s
  | .stageSar unit stage => Sys2Proof.Machine.execStageSar unit stage s
  | .dotf unit stage => Sys2Proof.Machine.execDotf unit stage s
  | .doti unit stage => Sys2Proof.Machine.execDoti unit stage s
  | .dotmx unit stage => Sys2Proof.Machine.execDotmx unit stage s
  | .cvt unit stage => Sys2Proof.Machine.execCvt unit stage s
  | .mxsc unit stage => Sys2Proof.Machine.execMxsc unit stage s
  | .mxq unit stage => Sys2Proof.Machine.execMxq unit stage s
  | .mxdq unit stage => Sys2Proof.Machine.execMxdq unit stage s
  | .fcmpeq unit stage => Sys2Proof.Machine.execFcmpeq unit stage s
  | .fcmplt unit stage => Sys2Proof.Machine.execFcmplt unit stage s
  | .fcmple unit stage => Sys2Proof.Machine.execFcmple unit stage s
  | .fcmpun unit stage => Sys2Proof.Machine.execFcmpun unit stage s
  | .icmpeq unit stage => Sys2Proof.Machine.execIcmpeq unit stage s
  | .icmplt unit stage => Sys2Proof.Machine.execIcmplt unit stage s
  | .icmpltu unit stage => Sys2Proof.Machine.execIcmpltu unit stage s
  | .sel unit stage => Sys2Proof.Machine.execSel unit stage s
  | .pand unit stage => Sys2Proof.Machine.execPand unit stage s
  | .por unit stage => Sys2Proof.Machine.execPor unit stage s
  | .pxor unit stage => Sys2Proof.Machine.execPxor unit stage s
  | .pnot unit stage => Sys2Proof.Machine.execPnot unit stage s
  | .exp2 unit stage => Sys2Proof.Machine.execExp2 unit stage s
  | .log2 unit stage => Sys2Proof.Machine.execLog2 unit stage s
  | .rcp unit stage => Sys2Proof.Machine.execRcp unit stage s
  | .rsqrt unit stage => Sys2Proof.Machine.execRsqrt unit stage s
  | .tanh unit stage => Sys2Proof.Machine.execTanh unit stage s
  | .sigm unit stage => Sys2Proof.Machine.execSigm unit stage s
  | .compress unit stage => Sys2Proof.Machine.execCompress unit stage s
  | .expand unit stage => Sys2Proof.Machine.execExpand unit stage s
  | .lsum unit stage => Sys2Proof.Machine.execLsum unit stage s
  | .lmax unit stage => Sys2Proof.Machine.execLmax unit stage s
  | .isum unit stage => Sys2Proof.Machine.execIsum unit stage s
  | .pcount unit stage => Sys2Proof.Machine.execPcount unit stage s
  | .azero unit stage => Sys2Proof.Machine.execAzero unit stage s
  | .aread unit stage => Sys2Proof.Machine.execAread unit stage s
  | .awrite unit stage => Sys2Proof.Machine.execAwrite unit stage s
  | .aadd unit stage => Sys2Proof.Machine.execAadd unit stage s
  | .areadz unit stage => Sys2Proof.Machine.execAreadz unit stage s
  | .matrixWord unit => Sys2Proof.Machine.execMatrixWord unit s
  | .matrixTileReadout unit => Sys2Proof.Machine.execMatrixTileReadout unit s
  | .passStart unit stage => Sys2Proof.Machine.execPassStart unit stage s
  | .thresherRunEnd unit stage => Sys2Proof.Machine.execThresherRunEnd unit stage s
  | .broadcastWriteArrival unit atSwitch => Sys2Proof.Machine.execBroadcastWriteArrival unit atSwitch s
  | .streamActivate unit gen => Sys2Proof.Machine.execStreamActivate unit gen s
  | .readElement unit gen ecc rivals => Sys2Proof.Machine.execReadElement unit gen ecc rivals s
  | .writeElement unit gen rivals => Sys2Proof.Machine.execWriteElement unit gen rivals s
  | .fetchRequest unit gen => Sys2Proof.Machine.execFetchRequest unit gen s
  | .flushWrite unit gen ecc rivals => Sys2Proof.Machine.execFlushWrite unit gen ecc rivals s
  | .fetchResponse unit gen req epoch res rivals => Sys2Proof.Machine.execFetchResponse unit gen req epoch res rivals s
  | .flushAck unit gen req epoch res => Sys2Proof.Machine.execFlushAck unit gen req epoch res s
  | .epochReuseRelease unit gen => Sys2Proof.Machine.execEpochReuseRelease unit gen s
  | .taskAbort plot => Sys2Proof.Machine.execTaskAbort plot s
  | .slotTimeout unit gen => Sys2Proof.Machine.execSlotTimeout unit gen s
  | .muSlotfaultClear who unit => Sys2Proof.Machine.execMuSlotfaultClear who unit s
  | .remoteWindowAccess unit sender win gen off acc rivals => Sys2Proof.Machine.execRemoteWindowAccess unit sender win gen off acc rivals s
  | .windowClose who unit win => Sys2Proof.Machine.execWindowClose who unit win s
  | .windowCloseComplete unit win => Sys2Proof.Machine.execWindowCloseComplete unit win s
  | .linkTransfer inst out => Sys2Proof.Machine.execLinkTransfer inst out s
  | .creditReturn inst out => Sys2Proof.Machine.execCreditReturn inst out s
  | .linkResend inst out again => Sys2Proof.Machine.execLinkResend inst out again s
  | .joinPair inst join => Sys2Proof.Machine.execJoinPair inst join s
  | .signalTokenAtSink inst => Sys2Proof.Machine.execSignalTokenAtSink inst s
  | .tokenInjection unit sender token => Sys2Proof.Machine.execTokenInjection unit sender token s
  | .cartwayPacketArrival node header payload corr bad => Sys2Proof.Machine.execCartwayPacketArrival node header payload corr bad s
  | .cartwayTimeout unit gen req => Sys2Proof.Machine.execCartwayTimeout unit gen req s
  | .load core => Sys2Proof.Machine.execLoad core s
  | .shadowLoadComplete inst ecc => Sys2Proof.Machine.execShadowLoadComplete inst ecc s
  | .arm core => Sys2Proof.Machine.execArm core s
  | .close core => Sys2Proof.Machine.execClose core s
  | .binSendEos unit => Sys2Proof.Machine.execBinSendEos unit s
  | .tileSwitch inst => Sys2Proof.Machine.execTileSwitch inst s
  | .abortDrainComplete plot => Sys2Proof.Machine.execAbortDrainComplete plot s
  | .seedPlotBoundsWrite who plot value => Sys2Proof.Machine.execSeedPlotBoundsWrite who plot value s
  | .remapApply => Sys2Proof.Machine.execRemapApply s
  | .remapForced plot => Sys2Proof.Machine.execRemapForced plot s
  | .preemptSave who plot value => Sys2Proof.Machine.execPreemptSave who plot value s
  | .preemptRestore who plot value => Sys2Proof.Machine.execPreemptRestore who plot value s
  | .preemptWithdraw who plot value => Sys2Proof.Machine.execPreemptWithdraw who plot value s
  | .plotHeldSave plot => Sys2Proof.Machine.execPlotHeldSave plot s
  | .saveComplete plot => Sys2Proof.Machine.execSaveComplete plot s
  | .restoreComplete plot => Sys2Proof.Machine.execRestoreComplete plot s
  | .preemptForced plot => Sys2Proof.Machine.execPreemptForced plot s
  | .interferenceWindowEnd => Sys2Proof.Machine.execInterferenceWindowEnd s
  | .seedLoadFaultClear who => Sys2Proof.Machine.execSeedLoadFaultClear who s
  | .add core d a b => Sys2Proof.Machine.execAdd core d a b s
  | .sub core d a b => Sys2Proof.Machine.execSub core d a b s
  | .and core d a b => Sys2Proof.Machine.execAnd core d a b s
  | .or core d a b => Sys2Proof.Machine.execOr core d a b s
  | .xor core d a b => Sys2Proof.Machine.execXor core d a b s
  | .shl core d a b => Sys2Proof.Machine.execShl core d a b s
  | .shr core d a b => Sys2Proof.Machine.execShr core d a b s
  | .sar core d a b => Sys2Proof.Machine.execSar core d a b s
  | .slt core d a b => Sys2Proof.Machine.execSlt core d a b s
  | .sltu core d a b => Sys2Proof.Machine.execSltu core d a b s
  | .min core d a b => Sys2Proof.Machine.execMin core d a b s
  | .max core d a b => Sys2Proof.Machine.execMax core d a b s
  | .minu core d a b => Sys2Proof.Machine.execMinu core d a b s
  | .maxu core d a b => Sys2Proof.Machine.execMaxu core d a b s
  | .mul core d a b => Sys2Proof.Machine.execMul core d a b s
  | .mulhu core d a b => Sys2Proof.Machine.execMulhu core d a b s
  | .mulh core d a b => Sys2Proof.Machine.execMulh core d a b s
  | .div core d a b => Sys2Proof.Machine.execDiv core d a b s
  | .divu core d a b => Sys2Proof.Machine.execDivu core d a b s
  | .rem core d a b => Sys2Proof.Machine.execRem core d a b s
  | .remu core d a b => Sys2Proof.Machine.execRemu core d a b s
  | .popc core d a => Sys2Proof.Machine.execPopc core d a s
  | .clz core d a => Sys2Proof.Machine.execClz core d a s
  | .ctz core d a => Sys2Proof.Machine.execCtz core d a s
  | .fadd core d a b => Sys2Proof.Machine.execFadd core d a b s
  | .fsub core d a b => Sys2Proof.Machine.execFsub core d a b s
  | .fmul core d a b => Sys2Proof.Machine.execFmul core d a b s
  | .fdiv core d a b => Sys2Proof.Machine.execFdiv core d a b s
  | .fmin core d a b => Sys2Proof.Machine.execFmin core d a b s
  | .fmax core d a b => Sys2Proof.Machine.execFmax core d a b s
  | .ffma core d a b => Sys2Proof.Machine.execFfma core d a b s
  | .fsqrt core d a => Sys2Proof.Machine.execFsqrt core d a s
  | .feq core d a b => Sys2Proof.Machine.execFeq core d a b s
  | .flt core d a b => Sys2Proof.Machine.execFlt core d a b s
  | .fle core d a b => Sys2Proof.Machine.execFle core d a b s
  | .fcvtsl core d a => Sys2Proof.Machine.execFcvtsl core d a s
  | .fcvtls core d a => Sys2Proof.Machine.execFcvtls core d a s
  | .fcvtbs core d a => Sys2Proof.Machine.execFcvtbs core d a s
  | .fcvtsb core d a => Sys2Proof.Machine.execFcvtsb core d a s
  | .addi core d a imm => Sys2Proof.Machine.execAddi core d a imm s
  | .andi core d a imm => Sys2Proof.Machine.execAndi core d a imm s
  | .ori core d a imm => Sys2Proof.Machine.execOri core d a imm s
  | .xori core d a imm => Sys2Proof.Machine.execXori core d a imm s
  | .slti core d a imm => Sys2Proof.Machine.execSlti core d a imm s
  | .sltiu core d a imm => Sys2Proof.Machine.execSltiu core d a imm s
  | .shli core d a sh => Sys2Proof.Machine.execShli core d a sh s
  | .shri core d a sh => Sys2Proof.Machine.execShri core d a sh s
  | .sari core d a sh => Sys2Proof.Machine.execSari core d a sh s
  | .liz core d h imm => Sys2Proof.Machine.execLiz core d h imm s
  | .lik core d h imm => Sys2Proof.Machine.execLik core d h imm s
  | .ld1 core d a imm ecc rivals => Sys2Proof.Machine.execLd1 core d a imm ecc rivals s
  | .ld2 core d a imm ecc rivals => Sys2Proof.Machine.execLd2 core d a imm ecc rivals s
  | .ld4 core d a imm ecc rivals => Sys2Proof.Machine.execLd4 core d a imm ecc rivals s
  | .ld8 core d a imm ecc rivals => Sys2Proof.Machine.execLd8 core d a imm ecc rivals s
  | .lds1 core d a imm ecc rivals => Sys2Proof.Machine.execLds1 core d a imm ecc rivals s
  | .lds2 core d a imm ecc rivals => Sys2Proof.Machine.execLds2 core d a imm ecc rivals s
  | .lds4 core d a imm ecc rivals => Sys2Proof.Machine.execLds4 core d a imm ecc rivals s
  | .st1 core b a imm rivals => Sys2Proof.Machine.execSt1 core b a imm rivals s
  | .st2 core b a imm rivals => Sys2Proof.Machine.execSt2 core b a imm rivals s
  | .st4 core b a imm rivals => Sys2Proof.Machine.execSt4 core b a imm rivals s
  | .st8 core b a imm rivals => Sys2Proof.Machine.execSt8 core b a imm rivals s
  | .xadd core d a b wide ecc rivals => Sys2Proof.Machine.execXadd core d a b wide ecc rivals s
  | .xcas core d a b wide ecc rivals => Sys2Proof.Machine.execXcas core d a b wide ecc rivals s
  | .beq core a b imm => Sys2Proof.Machine.execBeq core a b imm s
  | .bne core a b imm => Sys2Proof.Machine.execBne core a b imm s
  | .blt core a b imm => Sys2Proof.Machine.execBlt core a b imm s
  | .bge core a b imm => Sys2Proof.Machine.execBge core a b imm s
  | .bltu core a b imm => Sys2Proof.Machine.execBltu core a b imm s
  | .bgeu core a b imm => Sys2Proof.Machine.execBgeu core a b imm s
  | .jal core d imm => Sys2Proof.Machine.execJal core d imm s
  | .jalr core d a imm => Sys2Proof.Machine.execJalr core d a imm s
  | .fence core => Sys2Proof.Machine.execFence core s
  | .wfe core => Sys2Proof.Machine.execWfe core s
  | .ret core => Sys2Proof.Machine.execRet core s
  | .mfc core d n => Sys2Proof.Machine.execMfc core d n s
  | .mtc core n a => Sys2Proof.Machine.execMtc core n a s
  | .trap core imm => Sys2Proof.Machine.execTrap core imm s
  | .acmd core d a => Sys2Proof.Machine.execAcmd core d a s
  | .alist core d a b => Sys2Proof.Machine.execAlist core d a b s
  | .await core d a => Sys2Proof.Machine.execAwait core d a s
  | .apoll core d a => Sys2Proof.Machine.execApoll core d a s
  | .localMemoryWindowAccess who core off acc => Sys2Proof.Machine.execLocalMemoryWindowAccess who core off acc s
  | .bndRunStart who core pc => Sys2Proof.Machine.execBndRunStart who core pc s
  | .bndRunHalt who core => Sys2Proof.Machine.execBndRunHalt who core s
  | .cqResume core => Sys2Proof.Machine.execCqResume core s
  | .tcmpReached core => Sys2Proof.Machine.execTcmpReached core s
  | .commandAccept core => Sys2Proof.Machine.execCommandAccept core s
  | .commandCompletion core => Sys2Proof.Machine.execCommandCompletion core s
  | .acceptTimeout core => Sys2Proof.Machine.execAcceptTimeout core s
  | .bcast core => Sys2Proof.Machine.execBcast core s
  | .issue core => Sys2Proof.Machine.execIssue core s
  | .streamCancel core => Sys2Proof.Machine.execStreamCancel core s
  | .signalToken core => Sys2Proof.Machine.execSignalToken core s
  | .signalEvent core => Sys2Proof.Machine.execSignalEvent core s
  | .waitTicket core => Sys2Proof.Machine.execWaitTicket core s
  | .waitAll core => Sys2Proof.Machine.execWaitAll core s
  | .waitSignals core => Sys2Proof.Machine.execWaitSignals core s
  | .waitTimeout core => Sys2Proof.Machine.execWaitTimeout core s
  | .matrix core => Sys2Proof.Machine.execMatrix core s
  | .commit core => Sys2Proof.Machine.execCommit core s
  | .pcieLinkUp rate width => Sys2Proof.Machine.execPcieLinkUp rate width s
  | .pcieLinkDown => Sys2Proof.Machine.execPcieLinkDown s
  | .hotReset => Sys2Proof.Machine.execHotReset s
  | .functionLevelReset fn => Sys2Proof.Machine.execFunctionLevelReset fn s
  | .d3hotEntry fn => Sys2Proof.Machine.execD3hotEntry fn s
  | .sqTail fn q index => Sys2Proof.Machine.execSqTail fn q index s
  | .cqHead fn q index => Sys2Proof.Machine.execCqHead fn q index s
  | .fetchGrant => Sys2Proof.Machine.execFetchGrant s
  | .entryFetched q => Sys2Proof.Machine.execEntryFetched q s
  | .completionWrite q => Sys2Proof.Machine.execCompletionWrite q s
  | .interruptTimer q => Sys2Proof.Machine.execInterruptTimer q s
  | .qpEnable who q => Sys2Proof.Machine.execQpEnable who q s
  | .qpDisable who q => Sys2Proof.Machine.execQpDisable who q s
  | .qpOwnerWrite who q value => Sys2Proof.Machine.execQpOwnerWrite who q value s
  | .cpost who q value => Sys2Proof.Machine.execCpost who q value s
  | .stageheadWrite who q value => Sys2Proof.Machine.execStageheadWrite who q value s
  | .bar4Access fn off acc => Sys2Proof.Machine.execBar4Access fn off acc s
  | .hostMemoryReadResponse src good => Sys2Proof.Machine.execHostMemoryReadResponse src good s
  | .createQp q => Sys2Proof.Machine.execCreateQp q s
  | .deleteQp q => Sys2Proof.Machine.execDeleteQp q s
  | .setMod q => Sys2Proof.Machine.execSetMod q s
  | .identify q => Sys2Proof.Machine.execIdentify q s
  | .copy q => Sys2Proof.Machine.execCopy q s
  | .fill q => Sys2Proof.Machine.execFill q s
  | .send q => Sys2Proof.Machine.execSend q s
  | .recv q => Sys2Proof.Machine.execRecv q s
  | .msgNoReceiver q => Sys2Proof.Machine.execMsgNoReceiver q s
  | .siloIntakeAccess addr acc first again plot rivals => Sys2Proof.Machine.execSiloIntakeAccess addr acc first again plot rivals s
  | .patrolScrubRead line first again busy => Sys2Proof.Machine.execPatrolScrubRead line first again busy s
  | .bankRefresh bank => Sys2Proof.Machine.execBankRefresh bank s
  | .rowRepairComplete row => Sys2Proof.Machine.execRowRepairComplete row s
  | .pmqTailDoorbell who ring index => Sys2Proof.Machine.execPmqTailDoorbell who ring index s
  | .pmqHeadDoorbell who ring index => Sys2Proof.Machine.execPmqHeadDoorbell who ring index s
  | .pmqEnable who ring value => Sys2Proof.Machine.execPmqEnable who ring value s
  | .pmqDisable who ring value => Sys2Proof.Machine.execPmqDisable who ring value s
  | .pmqEntryFetch ring => Sys2Proof.Machine.execPmqEntryFetch ring s
  | .pmCopy ring => Sys2Proof.Machine.execPmCopy ring s
  | .gather ring => Sys2Proof.Machine.execGather ring s
  | .scatter ring => Sys2Proof.Machine.execScatter ring s
  | .convert ring => Sys2Proof.Machine.execConvert ring s
  | .pmFill ring => Sys2Proof.Machine.execPmFill ring s
  | .dirtyGet ring => Sys2Proof.Machine.execDirtyGet ring s
  | .writeback ring => Sys2Proof.Machine.execWriteback ring s
  | .clookup ring rivals => Sys2Proof.Machine.execClookup ring rivals s
  | .cunpin ring => Sys2Proof.Machine.execCunpin ring s
  | .cinval ring => Sys2Proof.Machine.execCinval ring s
  | .pmPieceDone ring k piece line first again fail dies => Sys2Proof.Machine.execPmPieceDone ring k piece line first again fail dies s
  | .cacheFillDone k fail => Sys2Proof.Machine.execCacheFillDone k fail s
  | .granaryPortLock port => Sys2Proof.Machine.execGranaryPortLock port s
  | .helloRsp port major minor msgCr dataCr id cap => Sys2Proof.Machine.execHelloRsp port major minor msgCr dataCr id cap s
  | .granaryGroupReceive port ctl data => Sys2Proof.Machine.execGranaryGroupReceive port ctl data s
  | .granaryControlTimeout port => Sys2Proof.Machine.execGranaryControlTimeout port s
  | .granaryIdleFlit port => Sys2Proof.Machine.execGranaryIdleFlit port s
  | .granaryRequestSend port who raddr units data plot rivals => Sys2Proof.Machine.execGranaryRequestSend port who raddr units data plot rivals s
  | .granaryResponse port tag status data => Sys2Proof.Machine.execGranaryResponse port tag status data s
  | .granaryTimeout port tag => Sys2Proof.Machine.execGranaryTimeout port tag s
  | .granaryRetrain who port => Sys2Proof.Machine.execGranaryRetrain who port s
  | .openPage ring rivals => Sys2Proof.Machine.execOpenPage ring rivals s
  | .sealPage ring rivals => Sys2Proof.Machine.execSealPage ring rivals s
  | .inboundPageVerified k fail => Sys2Proof.Machine.execInboundPageVerified k fail s
  | .outboundPageDone k fail => Sys2Proof.Machine.execOutboundPageDone k fail s
  | .switch ring base => Sys2Proof.Machine.execSwitch ring base s
  | .adapterLoad ring base => Sys2Proof.Machine.execAdapterLoad ring base s
  | .adapterUnbind ring => Sys2Proof.Machine.execAdapterUnbind ring s
  | .unload ring => Sys2Proof.Machine.execUnload ring s
  | .shardComplete load shard readFailed => Sys2Proof.Machine.execShardComplete load shard readFailed s
  | .shardTimeout load shard => Sys2Proof.Machine.execShardTimeout load shard s
  | .loadComplete load => Sys2Proof.Machine.execLoadComplete load s
  | .broadcastShardReceive load shard bytes => Sys2Proof.Machine.execBroadcastShardReceive load shard bytes s
  | .winRingDoorbell who ring value => Sys2Proof.Machine.execWinRingDoorbell who ring value s
  | .submit q => Sys2Proof.Machine.execSubmit q s
  | .cancel q => Sys2Proof.Machine.execCancel q s
  | .prefixCreate q => Sys2Proof.Machine.execPrefixCreate q s
  | .prefixRelease q => Sys2Proof.Machine.execPrefixRelease q s
  | .prefixPin q => Sys2Proof.Machine.execPrefixPin q s
  | .stepBoundary model => Sys2Proof.Machine.execStepBoundary model s
  | .idleBoundary model => Sys2Proof.Machine.execIdleBoundary model s
  | .qwaitExpiry req => Sys2Proof.Machine.execQwaitExpiry req s
  | .commitPoint model => Sys2Proof.Machine.execCommitPoint model s
  | .commitWaitExpiry model => Sys2Proof.Machine.execCommitWaitExpiry model s
  | .outputWrite req => Sys2Proof.Machine.execOutputWrite req s
  | .prefixCopyDone req fail => Sys2Proof.Machine.execPrefixCopyDone req fail s
  | .histogramSwap who cls value => Sys2Proof.Machine.execHistogramSwap who cls value s
  | .planReceived model step retry segs => Sys2Proof.Machine.execPlanReceived model step retry segs s
  | .commitRecordReceived model status recs => Sys2Proof.Machine.execCommitRecordReceived model status recs s
  | .stepReadyReport model ok last => Sys2Proof.Machine.execStepReadyReport model ok last s
  | .sivKick who model value => Sys2Proof.Machine.execSivKick who model value s
  | .rowChoice model row fail => Sys2Proof.Machine.execRowChoice model row fail s
  | .kvCompactionDone model fail => Sys2Proof.Machine.execKvCompactionDone model fail s
  | .sivTreeWrite who model node value => Sys2Proof.Machine.execSivTreeWrite who model node value s
  | .route core => Sys2Proof.Machine.execRoute core s
  | .combine core => Sys2Proof.Machine.execCombine core s
  | .routingRecordsReceived ctx => Sys2Proof.Machine.execRoutingRecordsReceived ctx s
  | .dispatchHeaderArrival ctx => Sys2Proof.Machine.execDispatchHeaderArrival ctx s
  | .dispatchRowArrival ctx => Sys2Proof.Machine.execDispatchRowArrival ctx s
  | .routeComplete ctx => Sys2Proof.Machine.execRouteComplete ctx s
  | .combineRowArrival ctx => Sys2Proof.Machine.execCombineRowArrival ctx s
  | .riddleMessageArrival ctx msg => Sys2Proof.Machine.execRiddleMessageArrival ctx msg s
  | .rdlPeerTimeout ctx => Sys2Proof.Machine.execRdlPeerTimeout ctx s
  | .portEnable who port on => Sys2Proof.Machine.execPortEnable who port on s
  | .lightDetect port => Sys2Proof.Machine.execLightDetect port s
  | .lossOfLight port => Sys2Proof.Machine.execLossOfLight port s
  | .laneAlignment port => Sys2Proof.Machine.execLaneAlignment port s
  | .trainTimeout port => Sys2Proof.Machine.execTrainTimeout port s
  | .identityFlitSend port => Sys2Proof.Machine.execIdentityFlitSend port s
  | .identityFlitReceive port record => Sys2Proof.Machine.execIdentityFlitReceive port record s
  | .accept who port => Sys2Proof.Machine.execAccept who port s
  | .retrain who port => Sys2Proof.Machine.execRetrain who port s
  | .expectWrite who port value => Sys2Proof.Machine.execExpectWrite who port value s
  | .keyingComplete port keys depths => Sys2Proof.Machine.execKeyingComplete port keys depths s
  | .linkFlitReceive port flit corrected lost => Sys2Proof.Machine.execLinkFlitReceive port flit corrected lost s
  | .controlFlitTimeout port => Sys2Proof.Machine.execControlFlitTimeout port s
  | .controlFlitSend port => Sys2Proof.Machine.execControlFlitSend port s
  | .packetRoute ingress => Sys2Proof.Machine.execPacketRoute ingress s
  | .gatewayTagTimeout tag => Sys2Proof.Machine.execGatewayTagTimeout tag s
  | .reduceContribution port => Sys2Proof.Machine.execReduceContribution port s
  | .resultArrival port => Sys2Proof.Machine.execResultArrival port s
  | .mcastSend ring => Sys2Proof.Machine.execMcastSend ring s
  | .reduce ring => Sys2Proof.Machine.execReduce ring s
  | .reduceTimeout ring => Sys2Proof.Machine.execReduceTimeout ring s
  | .hayRingDoorbell who ring value => Sys2Proof.Machine.execHayRingDoorbell who ring value s
  | .racktickEdge phase => Sys2Proof.Machine.execRacktickEdge phase s
  | .hayTimeFrameWrite who value => Sys2Proof.Machine.execHayTimeFrameWrite who value s
  | .refLoss refclk => Sys2Proof.Machine.execRefLoss refclk s
  | .tickLost => Sys2Proof.Machine.execTickLost s
  | .powerSample watts rise => Sys2Proof.Machine.execPowerSample watts rise s
  | .dvfsTick dyn oth => Sys2Proof.Machine.execDvfsTick dyn oth s
  | .stepChangeComplete => Sys2Proof.Machine.execStepChangeComplete s
  | .pcapChange level => Sys2Proof.Machine.execPcapChange level s
  | .heartbeat who => Sys2Proof.Machine.execHeartbeat who s
  | .orphaned => Sys2Proof.Machine.execOrphaned s
  | .inputVoltageAverage mv => Sys2Proof.Machine.execInputVoltageAverage mv s
  | .coolantHot => Sys2Proof.Machine.execCoolantHot s
  | .coolantFlowLow => Sys2Proof.Machine.execCoolantFlowLow s
  | .thermalLadderEval => Sys2Proof.Machine.execThermalLadderEval s
  | .thermtrip => Sys2Proof.Machine.execThermtrip s
  | .deepIdleRequest who => Sys2Proof.Machine.execDeepIdleRequest who s
  | .deepIdleExit who => Sys2Proof.Machine.execDeepIdleExit who s
  | .deepIdleReady => Sys2Proof.Machine.execDeepIdleReady s
  | .errorRecordAppend => Sys2Proof.Machine.execErrorRecordAppend s
  | .errorInterruptTimer => Sys2Proof.Machine.execErrorInterruptTimer s
  | .unitSelfTest unit => Sys2Proof.Machine.execUnitSelfTest unit s
  | .selfTestEnd unit pass => Sys2Proof.Machine.execSelfTestEnd unit pass s
  | .fencePersist => Sys2Proof.Machine.execFencePersist s
  | .fencePendingClear who inst => Sys2Proof.Machine.execFencePendingClear who inst s
  | .binScrubRead unit addr ecc rivals => Sys2Proof.Machine.execBinScrubRead unit addr ecc rivals s
  | .ledgerCheck led inst => Sys2Proof.Machine.execLedgerCheck led inst s
  | .ringEnable who value => Sys2Proof.Machine.execRingEnable who value s
  | .protectionTableWrite who addr bytes value => Sys2Proof.Machine.execProtectionTableWrite who addr bytes value s
  | .protectionWriteComplete => Sys2Proof.Machine.execProtectionWriteComplete s
  | .hspLock who value => Sys2Proof.Machine.execHspLock who value s
  | .getVersion doe req => Sys2Proof.Machine.execGetVersion doe req s
  | .getCapabilities doe req => Sys2Proof.Machine.execGetCapabilities doe req s
  | .negotiateAlgorithms doe req => Sys2Proof.Machine.execNegotiateAlgorithms doe req s
  | .getDigests doe req => Sys2Proof.Machine.execGetDigests doe req s
  | .getCertificate doe req => Sys2Proof.Machine.execGetCertificate doe req s
  | .challenge doe req => Sys2Proof.Machine.execChallenge doe req s
  | .getMeasurements doe req => Sys2Proof.Machine.execGetMeasurements doe req s
  | .spdmUnsupportedRequest doe req => Sys2Proof.Machine.execSpdmUnsupportedRequest doe req s
  | .unwrap src => Sys2Proof.Machine.execUnwrap src s
  | .loadPub src => Sys2Proof.Machine.execLoadPub src s
  | .clear src => Sys2Proof.Machine.execClear src s
  | .rbCommit src => Sys2Proof.Machine.execRbCommit src s
  | .debugChallenge who => Sys2Proof.Machine.execDebugChallenge who s
  | .debugUnlock who value => Sys2Proof.Machine.execDebugUnlock who value s
  | .coldReset cause => Sys2Proof.Machine.execColdReset cause s
  | .warmReset cause => Sys2Proof.Machine.execWarmReset cause s
  | .inputRise slot => Sys2Proof.Machine.execInputRise slot s
  | .inputLoss => Sys2Proof.Machine.execInputLoss s
  | .mresetAssert => Sys2Proof.Machine.execMresetAssert s
  | .mresetRelease => Sys2Proof.Machine.execMresetRelease s
  | .perstAssert => Sys2Proof.Machine.execPerstAssert s
  | .perstRelease => Sys2Proof.Machine.execPerstRelease s
  | .loftResetCold who => Sys2Proof.Machine.execLoftResetCold who s
  | .loftResetWarm who => Sys2Proof.Machine.execLoftResetWarm who s
  | .powerGood => Sys2Proof.Machine.execPowerGood s
  | .bootStepComplete step bad => Sys2Proof.Machine.execBootStepComplete step bad s
  | .ready => Sys2Proof.Machine.execReady s
  | .bootDeadline => Sys2Proof.Machine.execBootDeadline s
  | .inputLowTimeout => Sys2Proof.Machine.execInputLowTimeout s
  | .mctpControl code data => Sys2Proof.Machine.execMctpControl code data s
  | .pldmDiscovery code data => Sys2Proof.Machine.execPldmDiscovery code data s
  | .pldmSensorReading id => Sys2Proof.Machine.execPldmSensorReading id s
  | .pollForPlatformEventMessage => Sys2Proof.Machine.execPollForPlatformEventMessage s
  | .queryDeviceIdentifiers => Sys2Proof.Machine.execQueryDeviceIdentifiers s
  | .firmwareUpdateTransfer typ bytes last => Sys2Proof.Machine.execFirmwareUpdateTransfer typ bytes last s
  | .activateFirmware => Sys2Proof.Machine.execActivateFirmware s
  | .kzCsrRead addr width => Sys2Proof.Machine.execKzCsrRead addr width s
  | .kzCsrWrite addr width value => Sys2Proof.Machine.execKzCsrWrite addr width value s
  | .kzWake => Sys2Proof.Machine.execKzWake s
  | .kzLogRead first count => Sys2Proof.Machine.execKzLogRead first count s
  | .kzHealth => Sys2Proof.Machine.execKzHealth s
  | .smbusSclTimeout => Sys2Proof.Machine.execSmbusSclTimeout s
  | .sensorSample inst raw valid => Sys2Proof.Machine.execSensorSample inst raw valid s
  | .calibrationWrite who item value => Sys2Proof.Machine.execCalibrationWrite who item value s
  | .calSave who => Sys2Proof.Machine.execCalSave who s
  | .calRevert who => Sys2Proof.Machine.execCalRevert who s
  | .wicketId => Sys2Proof.Machine.execWicketId s
  | .wicketBaud rate => Sys2Proof.Machine.execWicketBaud rate s
  | .wicketChal => Sys2Proof.Machine.execWicketChal s
  | .wicketUnlock level sig => Sys2Proof.Machine.execWicketUnlock level sig s
  | .wicketStatus => Sys2Proof.Machine.execWicketStatus s
  | .wicketSens first count => Sys2Proof.Machine.execWicketSens first count s
  | .wicketRing first count => Sys2Proof.Machine.execWicketRing first count s
  | .wicketFmap first count => Sys2Proof.Machine.execWicketFmap first count s
  | .wicketLog first count => Sys2Proof.Machine.execWicketLog first count s
  | .wicketRd addr width count => Sys2Proof.Machine.execWicketRd addr width count s
  | .wicketWr addr width value => Sys2Proof.Machine.execWicketWr addr width value s
  | .wicketHalt core => Sys2Proof.Machine.execWicketHalt core s
  | .wicketGo core pc => Sys2Proof.Machine.execWicketGo core pc s
  | .wicketRegs core => Sys2Proof.Machine.execWicketRegs core s
  | .wicketResetWarm => Sys2Proof.Machine.execWicketResetWarm s
  | .wicketResetCold => Sys2Proof.Machine.execWicketResetCold s
  | .inputOvercurrent => Sys2Proof.Machine.execInputOvercurrent s
  | .reversedInput => Sys2Proof.Machine.execReversedInput s
  | .pinReadbackCheck pin bad => Sys2Proof.Machine.execPinReadbackCheck pin bad s
  | .laserInputLow fibre => Sys2Proof.Machine.execLaserInputLow fibre s
  | .lightOnDataFibre lane => Sys2Proof.Machine.execLightOnDataFibre lane s
  | .ref3v3Limit => Sys2Proof.Machine.execRef3v3Limit s
  | .illegalInstruction core => Sys2Proof.Machine.execIllegalInstruction core s
  | .pcieCompletionTimeout src => Sys2Proof.Machine.execPcieCompletionTimeout src s
  | .msixVectorUnmask fn vector => Sys2Proof.Machine.execMsixVectorUnmask fn vector s
  | .refReturn => Sys2Proof.Machine.execRefReturn s
  | .smbSdaStuck => Sys2Proof.Machine.execSmbSdaStuck s
  | .scrubPassBehind stack => Sys2Proof.Machine.execScrubPassBehind stack s
  | .binScrubPassOverrun unit => Sys2Proof.Machine.execBinScrubPassOverrun unit s

end Sys2Proof.Machine
end

