-- ==== Sys2Proof/Machine/RamnakCode.lean ====
section
/-!
DEFINITION. Ramnak-C as words (Tables 07.2 and 07.3): the word of each instruction and the instruction of each word, for a
core; the check bits that a load or an atomic meets and the requesters it meets at a
bank are no part of its word: they read as clean and none.
-/
namespace Sys2Proof.Machine
open Sys2Proof

/-- The word of an instruction of a core; none for a command that is no instruction. -/
def ramnakWord : Instr → Option Nat
  | .add _ d a b => some (encRR 0 d a b 0x00) | .sub _ d a b => some (encRR 0 d a b 0x01)
  | .and _ d a b => some (encRR 0 d a b 0x02) | .or _ d a b => some (encRR 0 d a b 0x03)
  | .xor _ d a b => some (encRR 0 d a b 0x04) | .shl _ d a b => some (encRR 0 d a b 0x05)
  | .shr _ d a b => some (encRR 0 d a b 0x06) | .sar _ d a b => some (encRR 0 d a b 0x07)
  | .slt _ d a b => some (encRR 0 d a b 0x08) | .sltu _ d a b => some (encRR 0 d a b 0x09)
  | .min _ d a b => some (encRR 0 d a b 0x0A) | .max _ d a b => some (encRR 0 d a b 0x0B)
  | .minu _ d a b => some (encRR 0 d a b 0x0C) | .maxu _ d a b => some (encRR 0 d a b 0x0D)
  | .mul _ d a b => some (encRR 0 d a b 0x10) | .mulhu _ d a b => some (encRR 0 d a b 0x11)
  | .mulh _ d a b => some (encRR 0 d a b 0x12) | .div _ d a b => some (encRR 0 d a b 0x14)
  | .divu _ d a b => some (encRR 0 d a b 0x15) | .rem _ d a b => some (encRR 0 d a b 0x16)
  | .remu _ d a b => some (encRR 0 d a b 0x17) | .popc _ d a => some (encRR 0 d a 0 0x18)
  | .clz _ d a => some (encRR 0 d a 0 0x19) | .ctz _ d a => some (encRR 0 d a 0 0x1A)
  | .fadd _ d a b => some (encRR 1 d a b 0x00) | .fsub _ d a b => some (encRR 1 d a b 0x01)
  | .fmul _ d a b => some (encRR 1 d a b 0x02) | .fdiv _ d a b => some (encRR 1 d a b 0x03)
  | .fmin _ d a b => some (encRR 1 d a b 0x04) | .fmax _ d a b => some (encRR 1 d a b 0x05)
  | .ffma _ d a b => some (encRR 1 d a b 0x06) | .fsqrt _ d a => some (encRR 1 d a 0 0x07)
  | .feq _ d a b => some (encRR 1 d a b 0x08) | .flt _ d a b => some (encRR 1 d a b 0x09)
  | .fle _ d a b => some (encRR 1 d a b 0x0A) | .fcvtsl _ d a => some (encRR 1 d a 0 0x0C)
  | .fcvtls _ d a => some (encRR 1 d a 0 0x0D) | .fcvtbs _ d a => some (encRR 1 d a 0 0x0E)
  | .fcvtsb _ d a => some (encRR 1 d a 0 0x0F)
  | .addi _ d a m => some (encI 0x04 d a m) | .andi _ d a m => some (encI 0x05 d a m)
  | .ori _ d a m => some (encI 0x06 d a m) | .xori _ d a m => some (encI 0x07 d a m)
  | .slti _ d a m => some (encI 0x08 d a m) | .sltiu _ d a m => some (encI 0x09 d a m)
  | .shli _ d a k => some (encI 0x0A d a (shImm 0 k)) | .shri _ d a k => some (encI 0x0A d a (shImm 1 k))
  | .sari _ d a k => some (encI 0x0A d a (shImm 2 k))
  | .liz _ d h m => some (encI 0x0B d h.val m) | .lik _ d h m => some (encI 0x0C d h.val m)
  | .ld1 _ d a m _ _ => some (encI 0x10 d a m) | .ld2 _ d a m _ _ => some (encI 0x11 d a m)
  | .ld4 _ d a m _ _ => some (encI 0x12 d a m) | .ld8 _ d a m _ _ => some (encI 0x13 d a m)
  | .lds1 _ d a m _ _ => some (encI 0x14 d a m) | .lds2 _ d a m _ _ => some (encI 0x15 d a m)
  | .lds4 _ d a m _ _ => some (encI 0x16 d a m)
  | .st1 _ b a m _ => some (encI 0x18 b a m) | .st2 _ b a m _ => some (encI 0x19 b a m)
  | .st4 _ b a m _ => some (encI 0x1A b a m) | .st8 _ b a m _ => some (encI 0x1B b a m)
  | .xadd _ d a b wide _ _ => some (encRR 0x1C d a b (if wide then 3 else 2))
  | .xcas _ d a b wide _ _ => some (encRR 0x1D d a b (if wide then 3 else 2))
  | .beq _ a b m => some (encI 0x20 b a m) | .bne _ a b m => some (encI 0x21 b a m)
  | .blt _ a b m => some (encI 0x22 b a m) | .bge _ a b m => some (encI 0x23 b a m)
  | .bltu _ a b m => some (encI 0x24 b a m) | .bgeu _ a b m => some (encI 0x25 b a m)
  | .jal _ d m => some (encJ 0x28 d m) | .jalr _ d a m => some (encI 0x29 d a m)
  | .fence _ => some (encRR 0x30 0 0 0 0) | .wfe _ => some (encRR 0x30 0 0 0 1) | .ret _ => some (encRR 0x30 0 0 0 2)
  | .mfc _ d n => some (encRR 0x30 d n 0 3) | .mtc _ n a => some (encRR 0x30 n a 0 4)
  | .trap _ m => some (encI 0x31 0 0 m)
  | .acmd _ d a => some (encRR 0x3C d a 0 0) | .alist _ d a b => some (encRR 0x3C d a b 1)
  | .await _ d a => some (encRR 0x3C d a 0 2) | .apoll _ d a => some (encRR 0x3C d a 0 3)
  | _ => none

/-- A 5-bit register field and the other fields of a word. -/
def regField (w lo : Nat) : Fin 32 := ⟨nbits w (lo + 4) lo % 32, Nat.mod_lt _ (by decide)⟩
def immField (w : Nat) : BitVec 16 := BitVec.ofNat 16 (nbits w 15 0)

/-- Integer instructions by FN. -/
def decodeInt (c : Fin 64) (fn : Nat) (d a b : Fin 32) : Option Instr :=
  match fn with
  | 0x00 => some (.add c d a b) | 0x01 => some (.sub c d a b) | 0x02 => some (.and c d a b) | 0x03 => some (.or c d a b)
  | 0x04 => some (.xor c d a b) | 0x05 => some (.shl c d a b) | 0x06 => some (.shr c d a b) | 0x07 => some (.sar c d a b)
  | 0x08 => some (.slt c d a b) | 0x09 => some (.sltu c d a b) | 0x0A => some (.min c d a b) | 0x0B => some (.max c d a b)
  | 0x0C => some (.minu c d a b) | 0x0D => some (.maxu c d a b) | 0x10 => some (.mul c d a b) | 0x11 => some (.mulhu c d a b)
  | 0x12 => some (.mulh c d a b) | 0x14 => some (.div c d a b) | 0x15 => some (.divu c d a b) | 0x16 => some (.rem c d a b)
  | 0x17 => some (.remu c d a b)
  | 0x18 => if b = 0 then some (.popc c d a) else none
  | 0x19 => if b = 0 then some (.clz c d a) else none
  | 0x1A => if b = 0 then some (.ctz c d a) else none
  | _ => none

/-- FP32 instructions by FN. -/
def decodeFp (c : Fin 64) (fn : Nat) (d a b : Fin 32) : Option Instr :=
  match fn with
  | 0x00 => some (.fadd c d a b) | 0x01 => some (.fsub c d a b) | 0x02 => some (.fmul c d a b) | 0x03 => some (.fdiv c d a b)
  | 0x04 => some (.fmin c d a b) | 0x05 => some (.fmax c d a b) | 0x06 => some (.ffma c d a b)
  | 0x07 => if b = 0 then some (.fsqrt c d a) else none
  | 0x08 => some (.feq c d a b) | 0x09 => some (.flt c d a b) | 0x0A => some (.fle c d a b)
  | 0x0C => if b = 0 then some (.fcvtsl c d a) else none
  | 0x0D => if b = 0 then some (.fcvtls c d a) else none
  | 0x0E => if b = 0 then some (.fcvtbs c d a) else none
  | 0x0F => if b = 0 then some (.fcvtsb c d a) else none
  | _ => none

/-- System instructions by FN. -/
def decodeSys (c : Fin 64) (fn : Nat) (d a b : Fin 32) : Option Instr :=
  if b ≠ 0 then none
  else
    match fn with
    | 0 => if d = 0 ∧ a = 0 then some (.fence c) else none
    | 1 => if d = 0 ∧ a = 0 then some (.wfe c) else none
    | 2 => if d = 0 ∧ a = 0 then some (.ret c) else none
    | 3 => some (.mfc c d a)
    | 4 => some (.mtc c d a)
    | _ => none

/-- Array-command instructions by FN. -/
def decodeCmd (c : Fin 64) (fn : Nat) (d a b : Fin 32) : Option Instr :=
  match fn with
  | 0 => if b = 0 then some (.acmd c d a) else none
  | 1 => some (.alist c d a b)
  | 2 => if b = 0 then some (.await c d a) else none
  | 3 => if b = 0 then some (.apoll c d a) else none
  | _ => none

/-- Immediate shifts: the kind in [7:6], and bits [15:8] zero. -/
def decodeShift (c : Fin 64) (w : Nat) (d a : Fin 32) : Option Instr :=
  let k : Fin 64 := ⟨nbits w 5 0 % 64, Nat.mod_lt _ (by decide)⟩
  if nbits w 15 8 ≠ 0 then none
  else
    match nbits w 7 6 with
    | 0 => some (.shli c d a k)
    | 1 => some (.shri c d a k)
    | 2 => some (.sari c d a k)
    | _ => none

/-- The h of LIZ and LIK: the A field, 0 to 3. -/
def decodeHalf (a : Fin 32) : Option (Fin 4) := if h : a.val < 4 then some ⟨a.val, h⟩ else none

/-- The instruction a 32-bit word stands for on core `c`; none for a word that fails R222. -/
def ramnakDecode (c : Fin 64) (w : Nat) : Option Instr :=
  let d := regField w 21
  let a := regField w 16
  let b := regField w 11
  let m := immField w
  let fn := nbits w 10 0
  match nbits w 31 26 with
  | 0x00 => decodeInt c fn d a b
  | 0x01 => decodeFp c fn d a b
  | 0x04 => some (.addi c d a m) | 0x05 => some (.andi c d a m) | 0x06 => some (.ori c d a m) | 0x07 => some (.xori c d a m)
  | 0x08 => some (.slti c d a m) | 0x09 => some (.sltiu c d a m)
  | 0x0A => decodeShift c w d a
  | 0x0B => (decodeHalf a).map fun h => .liz c d h m
  | 0x0C => (decodeHalf a).map fun h => .lik c d h m
  | 0x10 => some (.ld1 c d a m .clean []) | 0x11 => some (.ld2 c d a m .clean []) | 0x12 => some (.ld4 c d a m .clean [])
  | 0x13 => some (.ld8 c d a m .clean []) | 0x14 => some (.lds1 c d a m .clean []) | 0x15 => some (.lds2 c d a m .clean [])
  | 0x16 => some (.lds4 c d a m .clean [])
  | 0x18 => some (.st1 c d a m []) | 0x19 => some (.st2 c d a m []) | 0x1A => some (.st4 c d a m []) | 0x1B => some (.st8 c d a m [])
  | 0x1C => if fn = 2 then some (.xadd c d a b false .clean []) else if fn = 3 then some (.xadd c d a b true .clean []) else none
  | 0x1D => if fn = 2 then some (.xcas c d a b false .clean []) else if fn = 3 then some (.xcas c d a b true .clean []) else none
  | 0x20 => some (.beq c a d m) | 0x21 => some (.bne c a d m) | 0x22 => some (.blt c a d m)
  | 0x23 => some (.bge c a d m) | 0x24 => some (.bltu c a d m) | 0x25 => some (.bgeu c a d m)
  | 0x28 => some (.jal c d (BitVec.ofNat 21 (nbits w 20 0)))
  | 0x29 => some (.jalr c d a m)
  | 0x30 => decodeSys c fn d a b
  | 0x31 => if d = 0 ∧ a = 0 then some (.trap c m) else none
  | 0x3C => decodeCmd c fn d a b
  | _ => none

end Sys2Proof.Machine
end

