-- ==== Sys2Proof/Safety.lean ====
section
/-!
DEFINITION. The terms the statements are made in: a command that answers a next state, a core that runs an instruction next,
what an instruction of a core writes and leaves, and memories in canonical form.
-/
namespace Sys2Proof.Safety
open Sys2Proof Sys2Proof.Machine

/-- Command `c` at `s` answers a next state, of which `p` holds. -/
def Gives (c : Instr) (s : State) (p : State → Prop) : Prop := ∃ t, exec c s = .next t ∧ p t

/-- Agent `w` may write word `j` of instance `i` of register `r` now (R523 to R526, R555). -/
abbrev Allowed (s : State) (w : Agent) (r : Reg) (i j : Nat) : Prop :=
  s.mayWrite w r i = true ∧ s.lockedOut r = false ∧ s.barClosed w (r.addr i j) = false

/-- The state with status OK for the requester. -/
def okStat (s : State) : State := { s with rstat := 0 }

/-- Core `c` is running, its fetch is open, and its next word is `w`. -/
abbrev Runs (s : State) (c w : Nat) : Prop :=
  ((s.core c).state = .running ∨ (s.core c).state = .enqueue) ∧ s.fetchFault c = none ∧ s.fetchWord c = w

/-- Only core `c` and the register file changed; no other core did; of the register file only the core's count of instructions
retired, by one. -/
def OnlyCore (s t : State) (c : Nat) : Prop :=
  t = { s with cores := t.cores, csr := t.csr } ∧ (∀ k, k ≠ c → t.core k = s.core k) ∧
    t.rd .BND_INSNS c 0 = s.rd .BND_INSNS c 0 + 1 ∧ ∀ r i j, r ≠ .BND_INSNS → t.rd r i j = s.rd r i j

/-- The scalar registers after a write of `v` to register `d`: s0 reads zero and ignores writes. -/
def RegsAfter (s t : State) (c d : Nat) (v : Word) : Prop :=
  ∀ n, (t.core c).reg n = if n = d ∧ n ≠ 0 then v else (s.core c).reg n

/-- An instruction of core `c` wrote `v` to register `d` and retired: the pc moves by 4 in the 128 KiB local memory; the mode, the
core control registers, and everything outside the core but its count of instructions are unchanged. -/
def Wrote (s t : State) (c d : Nat) (v : Word) : Prop :=
  RegsAfter s t c d v ∧ (t.core c).pc = ((s.core c).pc + 4) % 0x20000 ∧ (t.core c).state = .running ∧
    (t.core c).monitor = (s.core c).monitor ∧ (t.core c).cc = (s.core c).cc ∧ OnlyCore s t c

/-- The state in which core `c` has won the bank of control SRAM byte `o`: the bank's pointer has moved past the core (R220); for
local memory, the state itself. -/
def ownWon (s : State) (lm : Bool) (c o : Nat) : State :=
  if lm then s else { s with arr := { s.arr with csPtr := mput dNat s.arr.csPtr (o / 64 % 64) ((c + 1) % 68) } }

/-- Core `c` reaches byte `o` of its local memory, or of control SRAM past the requesters `rv` of this cycle (R220). -/
abbrev Reaches (s : State) (lm : Bool) (c o : Nat) (rv : List Rival) : Prop := lm = true ∨ s.csWins c o rv = true

/-- As `Wrote`, with the next instruction at `pc`. -/
def Jumped (s t : State) (c d : Nat) (v : Word) (pc : Nat) : Prop :=
  RegsAfter s t c d v ∧ (t.core c).pc = pc ∧ (t.core c).state = .running ∧
    (t.core c).monitor = (s.core c).monitor ∧ (t.core c).cc = (s.core c).cc ∧ OnlyCore s t c

/-- The canonical form of the six memories: addresses strictly rising, no listed byte equal to what an unlisted one reads as. -/
def MemWf (s : State) : Bool :=
  mwf byte0 s.mem.silo && mwf byte0 s.mem.bin && mwf byte0 s.mem.csram && mwf byte0 s.mem.lmem && mwf byte0 s.mem.gran &&
    mwf byte0 s.mem.host

/-- The rows of the stage words of vector mode (Table 03.6), with their class and operation. -/
def stageWords (u : Fin 16896) (st : Fin 4) : List (Instr × Nat × Nat) :=
  [(.nop u st, 0, 0), (.mov u st, 0, 1), (.lrot u st, 0, 2), (.lbc u st, 0, 3), (.ptoi u st, 0, 4), (.itop u st, 0, 5),
   (.stageFadd u st, 1, 0), (.stageFsub u st, 1, 1), (.stageFmul u st, 1, 2), (.stageFfma u st, 1, 3),
   (.stageFmin u st, 1, 4), (.stageFmax u st, 1, 5), (.fabs u st, 1, 6), (.fneg u st, 1, 7), (.stageFdiv u st, 1, 8),
   (.iadd u st, 2, 0), (.isub u st, 2, 1), (.imul u st, 2, 2), (.imin u st, 2, 3), (.imax u st, 2, 4),
   (.stageAnd u st, 2, 5), (.stageOr u st, 2, 6), (.stageXor u st, 2, 7), (.stageShl u st, 2, 8), (.stageShr u st, 2, 9),
   (.stageSar u st, 2, 10), (.dotf u st, 3, 0), (.doti u st, 3, 1), (.dotmx u st, 3, 2), (.cvt u st, 4, 0),
   (.mxsc u st, 4, 1), (.mxq u st, 4, 2), (.mxdq u st, 4, 3), (.fcmpeq u st, 5, 0), (.fcmplt u st, 5, 1),
   (.fcmple u st, 5, 2), (.fcmpun u st, 5, 3), (.icmpeq u st, 5, 4), (.icmplt u st, 5, 5), (.icmpltu u st, 5, 6),
   (.sel u st, 5, 8), (.pand u st, 5, 9), (.por u st, 5, 10), (.pxor u st, 5, 11), (.pnot u st, 5, 12), (.exp2 u st, 6, 0),
   (.log2 u st, 6, 1), (.rcp u st, 6, 2), (.rsqrt u st, 6, 3), (.tanh u st, 6, 4), (.sigm u st, 6, 5),
   (.compress u st, 7, 0), (.expand u st, 7, 1), (.lsum u st, 7, 2), (.lmax u st, 7, 3), (.isum u st, 7, 4),
   (.pcount u st, 7, 5), (.azero u st, 8, 0), (.aread u st, 8, 1), (.awrite u st, 8, 2), (.aadd u st, 8, 3),
   (.areadz u st, 8, 4)]

/-- Stage `st` of a thresher stands at word `w`, of class `cls` and operation `op`, and nothing holds it (R91): it is in a pass of
a present section, no source is headed by end of section, every source holds data and every port it writes has credit. -/
abbrev StandsAt (s : State) (u st : Nat) (w : SW) (cls op : Nat) : Prop :=
  s.curWord u st = some w ∧ w.cls = cls ∧ w.op = op ∧ s.truncated u st w = false ∧ s.inputsReady u st w = true ∧ s.outputsReady u st w = true

/-- What follows the effect of a word on registers and ports: `b` is the state with the sources taken; FWD passes SRC1 as read at
`s` down, the stage shows it issued and counts it, and the sequencer moves on (R89). -/
def movesOn (s b : State) (u st : Nat) (w : SW) : State :=
  (((if w.fwd then b.pushDown u st (.grp (s.operand u st w w.s1) 16) else b).cuState u 1).inc .CU_ISSUE_CYC u 0 1).advance u st w

/-- The state after an issue of every word but EXPAND whose effect on registers and ports gives `a`: the sources are taken (R69,
R70, R72), and the sequencer moves on. -/
def issued (s a : State) (u st : Nat) (w : SW) : State := movesOn s (a.consume u st w []) u st w

end Sys2Proof.Safety
end

