-- ==== Sys2Proof/Certificates/Slice0/Obligations.lean ====
section
/-!
DEFINITION. The statements, by family of commands.
-/
open Sys2Proof Sys2Proof.Machine Sys2Proof.Safety

/-! ### The block -/

/-- A step with a command at the front of the queue runs that command with the queue's rest. -/
def Obligations.StepRunsTheFrontCommand : Prop :=
  ∀ (c : Instr) (cs : List Instr) (s : State), s.pending = c :: cs → step s = exec c { s with pending := cs }

/-- Every command leaves the queue as it is, so commands run in the order in which they came. -/
def Obligations.CommandsLeaveTheQueue : Prop :=
  ∀ (s t : State), step s = .next t → t.pending = s.pending.tail

/-! ### Ramnak-C -/

/-- R223, Table 07.3: the integer instructions of formats RR and RI, the divisions with their two corners and the three counts write D and move to the next
instruction. -/
def Obligations.IntegerInstructionsComplete : Prop :=
  (∀ (s : State) (c : Fin 64) (d a b : Fin 32),
     let x := (s.core c).reg a
     let y := (s.core c).reg b
     ∀ p ∈ ([(.add c d a b, 0x00, x + y), (.sub c d a b, 0x01, x - y), (.and c d a b, 0x02, x &&& y), (.or c d a b, 0x03, x ||| y),
         (.xor c d a b, 0x04, x ^^^ y), (.shl c d a b, 0x05, x <<< (y.toNat % 64)), (.shr c d a b, 0x06, x >>> (y.toNat % 64)),
         (.sar c d a b, 0x07, x.sshiftRight (y.toNat % 64)),
         (.slt c d a b, 0x08, if x.toInt < y.toInt then (1 : Word) else 0), (.sltu c d a b, 0x09, if x.toNat < y.toNat then (1 : Word) else 0),
         (.min c d a b, 0x0A, if x.toInt < y.toInt then x else y), (.max c d a b, 0x0B, if x.toInt < y.toInt then y else x),
         (.minu c d a b, 0x0C, if x.toNat < y.toNat then x else y), (.maxu c d a b, 0x0D, if x.toNat < y.toNat then y else x),
         (.mul c d a b, 0x10, x * y), (.mulhu c d a b, 0x11, BitVec.ofNat 64 (x.toNat * y.toNat / 2 ^ 64)),
         (.mulh c d a b, 0x12, BitVec.ofInt 64 (x.toInt * y.toInt / 2 ^ 64))] : List (Instr × Nat × Word)),
       Runs s c (encRR 0 d a b p.2.1) → Gives p.1 s fun t => Wrote s t c d p.2.2) ∧
  (∀ (s : State) (c : Fin 64) (d a b : Fin 32),
     let x := (s.core c).reg a
     let y := (s.core c).reg b
     let ones : Word := BitVec.allOnes 64
     let least : Word := BitVec.intMin 64
     (∀ p ∈ ([(.div c d a b, 0x14, if y = 0 then ones else if x = least ∧ y = ones then least else x.sdiv y),
         (.divu c d a b, 0x15, if y = 0 then ones else x / y),
         (.rem c d a b, 0x16, if y = 0 then x else if x = least ∧ y = ones then 0 else x.srem y),
         (.remu c d a b, 0x17, if y = 0 then x else x % y)] : List (Instr × Nat × Word)),
       Runs s c (encRR 0 d a b p.2.1) → Gives p.1 s fun t => Wrote s t c d p.2.2) ∧
     (Runs s c (encRR 0 d a 0 0x18) → Gives (.popc c d a) s fun t =>
       Wrote s t c d (BitVec.ofNat 64 ((List.range 64).countP fun i => x.getLsbD i))) ∧
     (Runs s c (encRR 0 d a 0 0x19) → ∃ n, Gives (.clz c d a) s (fun t => Wrote s t c d (BitVec.ofNat 64 n)) ∧
       n ≤ 64 ∧ (∀ i, i < n → x.getLsbD (63 - i) = false) ∧ (n < 64 → x.getLsbD (63 - n) = true)) ∧
     (Runs s c (encRR 0 d a 0 0x1A) → ∃ n, Gives (.ctz c d a) s (fun t => Wrote s t c d (BitVec.ofNat 64 n)) ∧
       n ≤ 64 ∧ (∀ i, i < n → x.getLsbD i = false) ∧ (n < 64 → x.getLsbD n = true))) ∧
  (∀ (s : State) (c : Fin 64) (d a : Fin 32) (m : BitVec 16) (k : Fin 64) (h : Fin 4),
     let x := (s.core c).reg a
     let sx : Word := m.signExtend 64
     let zx : Word := m.setWidth 64
     let hi : Word := 0xFFFF <<< (16 * h.val)
     ∀ p ∈ ([(.addi c d a m, encI 0x04 d a m, x + sx), (.andi c d a m, encI 0x05 d a m, x &&& zx), (.ori c d a m, encI 0x06 d a m, x ||| zx),
         (.xori c d a m, encI 0x07 d a m, x ^^^ zx), (.slti c d a m, encI 0x08 d a m, if x.toInt < sx.toInt then (1 : Word) else 0),
         (.sltiu c d a m, encI 0x09 d a m, if x.toNat < sx.toNat then (1 : Word) else 0),
         (.shli c d a k, encI 0x0A d a (BitVec.ofNat 16 k), x <<< k.val), (.shri c d a k, encI 0x0A d a (BitVec.ofNat 16 (64 + k)), x >>> k.val),
         (.sari c d a k, encI 0x0A d a (BitVec.ofNat 16 (128 + k)), x.sshiftRight k.val),
         (.liz c d h m, encI 0x0B d h.val m, zx <<< (16 * h.val)),
         (.lik c d h m, encI 0x0C d h.val m, ((s.core c).reg d &&& ~~~hi) ||| (zx <<< (16 * h.val)))] : List (Instr × Nat × Word)),
       Runs s c p.2.1 → Gives p.1 s fun t => Wrote s t c d p.2.2)

/-- Table 07.3: the FP32 instructions read bits [31:0] of their sources, round once to nearest even, write the canonical NaN
(R36), and clear bits [63:32] of D. Rests also on the model's choices of log entries 13, 83 and 127. -/
def Obligations.FloatInstructionsComplete : Prop :=
  ∀ (s : State) (c : Fin 64) (d a b : Fin 32),
    let v := fun (n : Fin 32) => Fmt.fp32.decode (((s.core c).reg n).toNat % 2 ^ 32)
    let out := fun (r : FVal) => BitVec.ofNat 64 (Fmt.fp32.ofVal RCtx.rne r).1
    let rel := (v a).cmp (v b)
    ∀ p ∈ ([(.fadd c d a b, encRR 1 d a b 0x00, out ((v a).add (v b)).1), (.fsub c d a b, encRR 1 d a b 0x01, out ((v a).add (v b).neg).1),
        (.fmul c d a b, encRR 1 d a b 0x02, out ((v a).mul (v b)).1),
        (.fdiv c d a b, encRR 1 d a b 0x03, BitVec.ofNat 64 (Fmt.fp32.divide RCtx.rne (v a) (v b)).1),
        (.fmin c d a b, encRR 1 d a b 0x04, out (FVal.minmax false (v a) (v b))), (.fmax c d a b, encRR 1 d a b 0x05, out (FVal.minmax true (v a) (v b))),
        (.ffma c d a b, encRR 1 d a b 0x06, out (FVal.fma (v a) (v b) (v d)).1),
        (.fsqrt c d a, encRR 1 d a 0 0x07, BitVec.ofNat 64 (Fmt.fp32.sqrt RCtx.rne (v a)).1),
        (.feq c d a b, encRR 1 d a b 0x08, if rel = some 0 then (1 : Word) else 0), (.flt c d a b, encRR 1 d a b 0x09, if rel = some (-1) then (1 : Word) else 0),
        (.fle c d a b, encRR 1 d a b 0x0A, if rel = some 0 ∨ rel = some (-1) then (1 : Word) else 0),
        (.fcvtsl c d a, encRR 1 d a 0 0x0C, out (FVal.ofInt ((s.core c).reg a).toInt)),
        (.fcvtls c d a, encRR 1 d a 0 0x0D, BitVec.ofInt 64 (toIntSat 64 { RCtx.rne with mode := .rtz } (v a)).1),
        (.fcvtbs c d a, encRR 1 d a 0 0x0E, BitVec.ofNat 64 (Fmt.bf16.ofVal RCtx.rne (v a)).1),
        (.fcvtsb c d a, encRR 1 d a 0 0x0F, out (Fmt.bf16.decode (((s.core c).reg a).toNat % 2 ^ 16)))] : List (Instr × Nat × Word)),
      Runs s c p.2.1 → Gives p.1 s fun t => Wrote s t c d p.2.2

/-- Tables 07.2 and 07.3: branches count words from the instruction itself; JAL and JALR link the next instruction. Rests also
on the model's choices of log entries 81 and 83. -/
def Obligations.BranchAndJumpInstructionsComplete : Prop :=
  ∀ (s : State) (c : Fin 64) (d a b : Fin 32) (m : BitVec 16) (j : BitVec 21),
    let x := (s.core c).reg a
    let y := (s.core c).reg b
    let pc := (s.core c).pc
    let off := fun (n : Int) => (((pc : Int) + 4 * n) % 0x20000).toNat
    (∀ p ∈ ([(.beq c a b m, 0x20, decide (x = y)), (.bne c a b m, 0x21, decide (x ≠ y)), (.blt c a b m, 0x22, decide (x.toInt < y.toInt)),
        (.bge c a b m, 0x23, decide (y.toInt ≤ x.toInt)), (.bltu c a b m, 0x24, decide (x.toNat < y.toNat)),
        (.bgeu c a b m, 0x25, decide (y.toNat ≤ x.toNat))] : List (Instr × Nat × Bool)),
      Runs s c (encI p.2.1 b a m) → Gives p.1 s fun t => Jumped s t c 0 0 (if p.2.2 then off m.toInt else (pc + 4) % 0x20000)) ∧
    (Runs s c (encJ 0x28 d j) → Gives (.jal c d j) s fun t => Jumped s t c d (BitVec.ofNat 64 (pc + 4)) (off j.toInt)) ∧
    (Runs s c (encI 0x29 d a m) → Gives (.jalr c d a m) s fun t =>
      Jumped s t c d (BitVec.ofNat 64 (pc + 4)) ((x + m.signExtend 64).toNat % 0x20000 / 4 * 4))

/-- Table 07.3 with R219, R220 and R228: loads of control SRAM and of the core's own local memory, open to the core, its bank won and
with good check bits, extended by zeros or by the sign; a core that loses the bank only counts the lost cycle. With check bits that were
corrected, or good when read again, the load completes all the same; with a poisoned word or a lasting error it is MEMERR (R506).
Rests also on the model's choices of log entries 81, 83 and 105. Loads from the local address space that the protection tables grant (R23, R268), and from a bin through an open window (R143): the
value, and what stays. -/
def Obligations.LoadInstructionsComplete : Prop :=
  (∀ (s : State) (c : Fin 64) (d a : Fin 32) (m : BitVec 16) (lm : Bool) (o : Nat) (e : Ecc) (rv : List Rival),
     let ea := (s.core c).reg a + m.signExtend 64
     let val := fun n => s.loadNat (ownSpace lm) (ownKey lm c o) n
     ∀ p ∈ ([(.ld1 c d a m e rv, 0x10, 1, BitVec.ofNat 64 (val 1)), (.ld2 c d a m e rv, 0x11, 2, BitVec.ofNat 64 (val 2)),
         (.ld4 c d a m e rv, 0x12, 4, BitVec.ofNat 64 (val 4)), (.ld8 c d a m e rv, 0x13, 8, BitVec.ofNat 64 (val 8)),
         (.lds1 c d a m e rv, 0x14, 1, (BitVec.ofNat 8 (val 1)).signExtend 64), (.lds2 c d a m e rv, 0x15, 2, (BitVec.ofNat 16 (val 2)).signExtend 64),
         (.lds4 c d a m e rv, 0x16, 4, (BitVec.ofNat 32 (val 4)).signExtend 64)] : List (Instr × Nat × Nat × Word)),
       Runs s c (encI p.2.1 d a m) → s.coreLoc c ea p.2.2.1 = .ok (if lm then .lm o else .cs o) →
         (Reaches s lm c o rv → s.ownPoison lm c o = false → e = .clean → Gives p.1 s fun t => Wrote (ownWon s lm c o) t c d p.2.2.2) ∧
         (Reaches s lm c o rv → s.ownPoison lm c o = false → (∀ x, e ≠ .lasting x) → Gives p.1 s fun t => RegsAfter s t c d p.2.2.2 ∧
           (t.core c).pc = ((s.core c).pc + 4) % 0x20000 ∧ (t.core c).cc = (s.core c).cc ∧ t.mem = s.mem ∧ ∀ k, k ≠ c.val → t.core k = s.core k) ∧
         (Reaches s lm c o rv → s.ownPoison lm c o = true → exec p.1 s = .next ((ownWon s lm c o).trap c 4 ea)) ∧
         (Reaches s lm c o rv → s.ownPoison lm c o = false → (∃ x, e = .lasting x) → Gives p.1 s fun t =>
           t.ownPoison lm c o = true ∧ (t.core c).regs = (s.core c).regs ∧
             ((t.core c).state = .halted ∨ ((t.core c).ccr 2 = 4 ∧ (t.core c).ccr 3 = ea))) ∧
         (¬ Reaches s lm c o rv → exec p.1 s = .next (s.inc .BND_SRAMSTALL c 0 1))) ∧
  (∀ (s : State) (c : Fin 64) (d a : Fin 32) (m : BitVec 16) (la : Nat) (csr : Bool) (bs : List Byte) (e : Ecc) (rv : List Rival),
     let ea := (s.core c).reg a + m.signExtend 64
     ∀ p ∈ ([(.ld1 c d a m e rv, 0x10, 1, false), (.ld2 c d a m e rv, 0x11, 2, false), (.ld4 c d a m e rv, 0x12, 4, false),
         (.ld8 c d a m e rv, 0x13, 8, false), (.lds1 c d a m e rv, 0x14, 1, true), (.lds2 c d a m e rv, 0x15, 2, true),
         (.lds4 c d a m e rv, 0x16, 4, true)] : List (Instr × Nat × Nat × Bool)),
       Runs s c (encI p.2.1 d a m) → s.coreLoc c ea p.2.2.1 = .ok (.loc la csr) → la < 0xF00000000000 →
         (s.coreWindow c la p.2.2.1 false = none ∧ s.fetch (s.coreWho c) la p.2.2.1 false = .ok bs ∨
           ∃ u o, s.coreWindow c la p.2.2.1 false = some (u, o, 0) ∧ bs = s.load .bin (u * 0x40000 + o) p.2.2.1) → Gives p.1 s fun t =>
           RegsAfter s t c d (extendTo p.2.2.1 p.2.2.2 (bytesToNat bs)) ∧ (t.core c).pc = ((s.core c).pc + 4) % 0x20000 ∧
             t.mem = s.mem ∧ ∀ k, k ≠ c.val → t.core k = s.core k)

/-- Stores to control SRAM and to the core's own local memory: the low bytes of B at A + IMM16, and no other byte of any
memory; no register but pc changes. A store to the local address space that the protection tables grant has the effect of that write. Table 07.3: XADD and XCAS in control SRAM and in local memory: D takes the old value; the new one is stored, by XCAS only
when the old value equals D; anywhere else ACCESS. -/
def Obligations.StoreAndAtomicInstructionsComplete : Prop :=
  (∀ (s : State) (c : Fin 64) (b a : Fin 32) (m : BitVec 16) (lm : Bool) (o la : Nat) (csr : Bool) (rv : List Rival),
     let ea := (s.core c).reg a + m.signExtend 64
     let x := (s.core c).reg b
     ∀ p ∈ ([(.st1 c b a m rv, 0x18, 1), (.st2 c b a m rv, 0x19, 2), (.st4 c b a m rv, 0x1A, 4), (.st8 c b a m rv, 0x1B, 8)] : List (Instr × Nat × Nat)),
       Runs s c (encI p.2.1 b a m) →
       (s.coreLoc c ea p.2.2 = .ok (if lm then .lm o else .cs o) → Reaches s lm c o rv → Gives p.1 s fun t =>
         RegsAfter s t c 0 0 ∧ (t.core c).pc = ((s.core c).pc + 4) % 0x20000 ∧ (t.core c).cc = (s.core c).cc ∧
           (∀ k, k ≠ c.val → t.core k = s.core k) ∧
           ∀ sp k, t.byteAt sp k = if sp = ownSpace lm ∧ ownKey lm c o ≤ k ∧ k < ownKey lm c o + p.2.2
             then BitVec.ofNat 8 (x.toNat / 256 ^ (k - ownKey lm c o)) else s.byteAt sp k) ∧
       (∀ t0, s.coreLoc c ea p.2.2 = .ok (.loc la csr) → la < 0xF00000000000 → s.coreWindow c la p.2.2 true = none →
         s.put (s.coreWho c) la (natToBytes p.2.2 x.toNat) false = .ok t0 → exec p.1 s = .next (t0.retire c id)) ∧
       (∀ u w, s.coreLoc c ea p.2.2 = .ok (.loc la csr) → la < 0xF00000000000 → s.coreWindow c la p.2.2 true = some (u, w, 0) →
         Gives p.1 s fun t => ∀ sp k, t.byteAt sp k = if sp = .bin ∧ u * 0x40000 + w ≤ k ∧ k < u * 0x40000 + w + p.2.2
           then BitVec.ofNat 8 (x.toNat / 256 ^ (k - (u * 0x40000 + w))) else s.byteAt sp k)) ∧
  (∀ (s : State) (c : Fin 64) (d a b : Fin 32) (wide lm : Bool) (o : Nat) (rv : List Rival),
     let n := if wide then 8 else 4
     let ea := (s.core c).reg a
     let old := s.loadNat (ownSpace lm) (ownKey lm c o) n
     let fn := if wide then 3 else 2
     let stored := fun (t : State) (v : Nat) => ∀ sp k, t.byteAt sp k = if sp = ownSpace lm ∧ ownKey lm c o ≤ k ∧ k < ownKey lm c o + n
         then BitVec.ofNat 8 (v / 256 ^ (k - ownKey lm c o)) else s.byteAt sp k
     (Runs s c (encRR 0x1C d a b fn) → s.coreLoc c ea n = .ok (if lm then .lm o else .cs o) → Reaches s lm c o rv → s.ownPoison lm c o = false →
       Gives (.xadd c d a b wide .clean rv) s fun t => RegsAfter s t c d (BitVec.ofNat 64 old) ∧ (t.core c).pc = ((s.core c).pc + 4) % 0x20000 ∧
         stored t (old + ((s.core c).reg b).toNat)) ∧
     (Runs s c (encRR 0x1D d a b fn) → s.coreLoc c ea n = .ok (if lm then .lm o else .cs o) → Reaches s lm c o rv → s.ownPoison lm c o = false →
       Gives (.xcas c d a b wide .clean rv) s fun t => RegsAfter s t c d (BitVec.ofNat 64 old) ∧ (t.core c).pc = ((s.core c).pc + 4) % 0x20000 ∧
         (if old = ((s.core c).reg d).toNat % 256 ^ n then stored t ((s.core c).reg b).toNat else t.mem = s.mem)) ∧
     (∀ loc, Runs s c (encRR 0x1C d a b fn) → s.coreLoc c ea n = .ok loc → (∀ x, loc ≠ .cs x ∧ loc ≠ .lm x) →
       exec (.xadd c d a b wide .clean rv) s = .next (s.trap c 3 ea)) ∧
     (∀ loc, Runs s c (encRR 0x1D d a b fn) → s.coreLoc c ea n = .ok loc → (∀ x, loc ≠ .cs x ∧ loc ≠ .lm x) →
       exec (.xcas c d a b wide .clean rv) s = .next (s.trap c 3 ea)))

/-- FENCE, WFE, RET, MFC and MTC where they complete. R229, R230: ACMD and ALIST take entries to the command queue and answer tickets; AWAIT and APOLL answer completion words. -/
def Obligations.SystemAndArrayCommandInstructionsComplete : Prop :=
  (∀ (s : State) (c : Fin 64) (d n a : Fin 32),
     (Runs s c (encRR 0x30 0 0 0 0) → s.writeOpen c = false → Gives (.fence c) s fun t => Wrote s t c 0 0) ∧
     (Runs s c (encRR 0x30 0 0 0 0) → s.writeOpen c = true → exec (.fence c) s = .next s) ∧
     (Runs s c (encRR 0x30 0 0 0 1) → Gives (.wfe c) s fun t =>
       if (s.core c).ccr 4 &&& (s.core c).ccr 5 = 0 then t = s.setCore c { s.core c with state := .wfe }
       else Wrote s t c 0 0) ∧
     (Runs s c (encRR 0x30 0 0 0 2) → 4 ≤ c.val → (s.core c).monitor = true →
       (s.rdF .BND_CTX c 0 63 62 = 1 ∨ s.rdF .BND_CTX c 0 63 62 = 2) → (s.core c).ccr 4 &&& (s.core c).ccr 5 = 0 →
       Gives (.ret c) s fun t => (t.core c).monitor = false ∧ (t.core c).pc = ((s.core c).ccr 1).toNat % 0x20000 / 4 * 4 ∧
         (∀ k, (t.core c).reg k = (s.core c).reg k) ∧ t.mem = s.mem) ∧
     (Runs s c (encRR 0x30 d n 0 3) → (n.val ≠ 8 ∨ (s.core c).monitor = true) → Gives (.mfc c d n) s fun t =>
       Wrote s t c d (match n.val with
         | 0 => if (s.core c).monitor then (1 : Word) else 0
         | 6 => BitVec.ofNat 64 s.time
         | 9 => BitVec.ofNat 64 (c + s.chip * 65536)
         | k => if k < 9 then (s.core c).ccr k else 0)) ∧
     (Runs s c (encRR 0x30 n a 0 4) → (s.core c).monitor = true → n.val < 10 → Gives (.mtc c n a) s fun t =>
       let x := (s.core c).reg a
       (∀ k, (t.core c).ccr k = if k ≠ n.val ∨ k = 0 ∨ k = 6 ∨ k = 9 then (s.core c).ccr k
         else if k = 4 then (s.core c).ccr 4 &&& ~~~x else x) ∧
       (∀ k, (t.core c).reg k = (s.core c).reg k) ∧ (t.core c).pc = ((s.core c).pc + 4) % 0x20000 ∧ t.mem = s.mem)) ∧
  (∀ (s : State) (c : Fin 64) (d a b : Fin 32) (ws : List Word) (n : Nat) (w : Word),
     let k := s.core c
     let x := k.reg a
     let ticket := fun (i : Nat) => if i = 0 then k.nextTicket else (k.nextTicket + i) % 65536
     (Runs s c (encRR 0x3C d a 0 0) → s.entryAt c x = .ok ws → k.cmds.length + k.arriving.length < 64 → k.cqHalt = false →
       Gives (.acmd c d a) s fun t => RegsAfter s t c d (BitVec.ofNat 64 k.nextTicket) ∧ (t.core c).nextTicket = (k.nextTicket + 1) % 65536 ∧
         (t.core c).cmds = k.cmds ++ [⟨k.nextTicket, ws, 0, 0, 0⟩] ∧ t.mem = s.mem) ∧
     (∀ es : List (List Word), Runs s c (encRR 0x3C d a b 1) → k.reg b = BitVec.ofNat 64 es.length → es ≠ [] → k.alistAt = 0 →
       (∀ i (h : i < es.length), s.entryAt c (x + BitVec.ofNat 64 (64 * i)) = .ok es[i]) → k.cmds.length + k.arriving.length + es.length ≤ 64 →
       k.cqHalt = false → Gives (.alist c d a b) s fun t =>
         RegsAfter s t c d (BitVec.ofNat 64 (ticket (es.length - 1))) ∧
         (t.core c).cmds = k.cmds ++ es.mapIdx (fun i ws => ⟨ticket i, ws, 0, 0, 0⟩) ∧
         (t.core c).nextTicket = ticket es.length ∧ t.mem = s.mem) ∧
     (∀ i cause, Runs s c (encRR 0x3C d a b 1) → 1 ≤ (k.reg b).toNat → (k.reg b).toNat ≤ 4096 → k.alistAt = 0 → i < (k.reg b).toNat →
       (∀ j, j < i → ∃ es, s.entryAt c (x + BitVec.ofNat 64 (64 * j)) = .ok es) → s.entryAt c (x + BitVec.ofNat 64 (64 * i)) = .error cause →
       Gives (.alist c d a b) s fun t => (t.core c).ccr 2 = BitVec.ofNat 64 cause ∧ (t.core c).ccr 3 = x + BitVec.ofNat 64 (64 * i) ∧
         (t.core c).cmds = k.cmds ∧ (t.core c).nextTicket = k.nextTicket ∧ t.mem = s.mem) ∧
     (Runs s c (encRR 0x3C d a 0 0) → s.entryAt c x = .ok ws → 64 ≤ k.cmds.length + k.arriving.length →
       Gives (.acmd c d a) s fun t => t = s.setCore c { k with state := .enqueue }) ∧
     (n = x.toNat % 65536 → k.done.find? (fun p => decide (p.1 = n)) = some (n, w) →
       (Runs s c (encRR 0x3C d a 0 2) → Gives (.await c d a) s fun t => Wrote s t c d w) ∧
       (Runs s c (encRR 0x3C d a 0 3) → Gives (.apoll c d a) s fun t => Wrote s t c d w)) ∧
     (n = x.toNat % 65536 → k.done.find? (fun p => decide (p.1 = n)) = none → k.readable n = true →
       (Runs s c (encRR 0x3C d a 0 2) → Gives (.await c d a) s fun t =>
         t = s.setCore c { k with state := .await, awaitReg := d.val, awaitTicket := n }) ∧
       (Runs s c (encRR 0x3C d a 0 3) → Gives (.apoll c d a) s fun t => Wrote s t c d 0)) ∧
     (n = x.toNat % 65536 → k.readable n = false →
       ∀ p ∈ ([(.await c d a, 2), (.apoll c d a, 3)] : List (Instr × Nat)), Runs s c (encRR 0x3C d a 0 p.2) →
         Gives p.1 s fun t => Wrote s t c d (BitVec.ofNat 64 (n * 2 ^ 48 + 0x0503))))

/-- R227: taking a trap, in one step; a trap in monitor mode halts the core, STATE reads 7, and CORE_DOUBLE_TRAP goes to the
error ring's queue. -/
def Obligations.TrapIsTakenInOneStep : Prop :=
  ∀ (s : State) (c cause : Nat) (tval : Word), c < 64 →
    let t := s.trap c cause tval
    let k := s.core c
    ((k.monitor = false →
      (t.core c).ccr 1 = BitVec.ofNat 64 k.pc ∧ (t.core c).ccr 2 = BitVec.ofNat 64 cause ∧ (t.core c).ccr 3 = tval ∧
      (t.core c).monitor = true ∧ (t.core c).pc = 0 ∧ (t.core c).state = .running ∧
      (∀ n, n ≠ 1 → n ≠ 2 → n ≠ 3 → (t.core c).ccr n = k.ccr n) ∧ t = { s with cores := t.cores }) ∧
    (k.monitor = true →
      fld (t.bndStatus c) 2 0 = 7 ∧ (t.core c).pc = k.pc ∧ (t.core c).monitor = true ∧
      (t.core c).ccr 1 = BitVec.ofNat 64 k.pc ∧ (t.core c).ccr 2 = BitVec.ofNat 64 cause ∧ (t.core c).ccr 3 = tval ∧
      (∀ n, n ≠ 1 → n ≠ 2 → n ≠ 3 → (t.core c).ccr n = k.ccr n) ∧ t = { s with cores := t.cores, chf := t.chf } ∧
      ∃ e, mget dNil t.chf.errq 4 = mget dNil s.chf.errq 4 ++ [e] ∧ e.code = 0x0508 ∧ e.inst = c)) ∧
    (∀ n, (t.core c).reg n = k.reg n) ∧ ∀ i, i ≠ c → t.core i = s.core i

/-- The instructions whose effect is a trap, and the two conditions that raise one: TRAP, a word that fails R222 (ILLEGAL), and
the time reaching CC_TCMP. R228: what raises ACCESS in program mode. -/
def Obligations.TrapCommandsAndProgramMode : Prop :=
  (∀ (s : State) (c : Fin 64) (m : BitVec 16) (w : Nat),
     (Runs s c (encI 0x31 0 0 m) → exec (.trap c m) s = .next (s.trap c 5 (m.signExtend 64))) ∧
     (Runs s c w → ramnakDecode c w = none → w < 2 ^ 32 →
       exec (.illegalInstruction c) s = .next (s.trap c 1 (BitVec.ofNat 64 (s.core c).pc))) ∧
     ((s.core c).monitor = true → (s.core c).state = .running → ((s.core c).ccr 7).toNat ≤ s.time → ((s.core c).ccr 5).getLsbD 61 = false →
       Gives (.tcmpReached c) s fun t => (t.core c).ccr 4 = (s.core c).ccr 4 ||| 0x10 ∧ (t.core c).pc = (s.core c).pc) ∧
     ((s.core c).monitor = false → (s.core c).state = .running → ((s.core c).ccr 7).toNat ≤ s.time → ((s.core c).ccr 5).getLsbD 63 = false →
       ((s.core c).ccr 5).getLsbD 61 = true →
       Gives (.tcmpReached c) s fun t => (t.core c).ccr 4 = (s.core c).ccr 4 ||| 0x10 ∧ (t.core c).ccr 2 = 8 ∧ (t.core c).pc = 0)) ∧
  (∀ (s : State) (c : Fin 64) (d a n : Fin 32) (m : BitVec 16) (e : Ecc) (rv : List Rival) (wide : Bool) (b : Fin 32),
     (s.core c).monitor = false →
     let ea := (s.core c).reg a + m.signExtend 64
     let closed := fun (x : Word) (len : Nat) => x.toNat % len = 0 ∧
       ((x.toNat / 2 ^ 17 = 0x9 * 2 ^ 43 ∧ x.toNat % 2 ^ 17 < 512 * s.rdF .BND_CTX c 0 7 0) ∨
        (x.toNat / 2 ^ 25 = 0x8 * 2 ^ 35 ∧ (x.toNat % 2 ^ 25 < s.rdF .BND_SRAMWIN c 0 40 32 * 65536 ∨
           (s.rdF .BND_SRAMWIN c 0 40 32 + s.rdF .BND_SRAMWIN c 0 8 0 + 1) * 65536 < x.toNat % 2 ^ 25 + len)))
     (∀ p ∈ ([(.ld1 c d a m e rv, 0x10, 1), (.ld2 c d a m e rv, 0x11, 2), (.ld4 c d a m e rv, 0x12, 4), (.ld8 c d a m e rv, 0x13, 8),
         (.lds1 c d a m e rv, 0x14, 1), (.lds2 c d a m e rv, 0x15, 2), (.lds4 c d a m e rv, 0x16, 4), (.st1 c d a m rv, 0x18, 1), (.st2 c d a m rv, 0x19, 2),
         (.st4 c d a m rv, 0x1A, 4), (.st8 c d a m rv, 0x1B, 8)] : List (Instr × Nat × Nat)),
       Runs s c (encI p.2.1 d a m) → closed ea p.2.2 → exec p.1 s = .next (s.trap c 3 ea)) ∧
     (∀ p ∈ ([(.xadd c d a b wide e rv, 0x1C), (.xcas c d a b wide e rv, 0x1D)] : List (Instr × Nat)),
       Runs s c (encRR p.2 d a b (if wide then 3 else 2)) → closed ((s.core c).reg a) (if wide then 8 else 4) →
         exec p.1 s = .next (s.trap c 3 ((s.core c).reg a))) ∧
     (Runs s c (encRR 0x30 n a 0 4) → n.val < 10 → n.val ≠ 4 → n.val ≠ 5 → n.val ≠ 7 →
       exec (.mtc c n a) s = .next (s.trap c 3 (BitVec.ofNat 64 n.val))) ∧
     (Runs s c (encRR 0x30 n a 0 4) → n.val = 5 → ∃ t, exec (.mtc c n a) s = .next t ∧
       ∀ i, 61 ≤ i → i < 64 → ((t.core c).ccr 5).getLsbD i = ((s.core c).ccr 5).getLsbD i) ∧
     (Runs s c (encRR 0x30 d 8 0 3) → exec (.mfc c d 8) s = .next (s.trap c 3 8)))

/-- R222, Tables 07.2 and 07.3: every 32-bit word is the encoding of exactly one instruction or of none, and the words of none
are those that raise ILLEGAL. -/
def Obligations.RamnakWordsAndInstructionsAgree : Prop :=
  (∀ (c : Fin 64) (w : Nat) (i : Instr), w < 2 ^ 32 → ramnakDecode c w = some i → ramnakWord i = some w ∧ legalWord w = true) ∧
  (∀ (c : Fin 64) (w : Nat), w < 2 ^ 32 → (ramnakDecode c w = none ↔ legalWord w = false)) ∧
  (∀ (i : Instr) (w : Nat), ramnakWord i = some w → w < 2 ^ 32 ∧ ∃ c j, ramnakDecode c w = some j ∧ ramnakWord j = some w ∧
    ((∀ k d a m e r, i ≠ .ld1 k d a m e r ∧ i ≠ .ld2 k d a m e r ∧ i ≠ .ld4 k d a m e r ∧ i ≠ .ld8 k d a m e r ∧ i ≠ .lds1 k d a m e r ∧
        i ≠ .lds2 k d a m e r ∧ i ≠ .lds4 k d a m e r ∧ i ≠ .st1 k d a m r ∧ i ≠ .st2 k d a m r ∧ i ≠ .st4 k d a m r ∧ i ≠ .st8 k d a m r) →
      (∀ k d a b x e r, i ≠ .xadd k d a b x e r ∧ i ≠ .xcas k d a b x e r) → j = i))

/-! ### Control and status registers -/

/-- R29: a CSR access must be 4 or 8 bytes wide and naturally aligned; any other access is discarded whole, and fails with
PROTECTION_FAULT. One that lies outside CSR space fails so too, and is recorded (R23). -/
def Obligations.CsrAccessesAreFourOrEightAlignedBytes : Prop :=
  ∀ (s : State) (w : Agent) (a : BitVec 48) (n : Nat) (v x : BitVec 64), ¬ ((n = 4 ∨ n = 8) ∧ a.toNat % n = 0) →
    (0xF00000000000 ≤ a.toNat → a.toNat < 0xF00100000000 →
      exec (.rcRead w a n x) s = .next { s with rdata := 0, rstat := 2 } ∧ exec (.registerWrite w a n v x) s = .next { s with rstat := 2 }) ∧
    (a.toNat < 0xF00000000000 ∨ 0xF00100000000 ≤ a.toNat → Gives (.registerWrite w a n v x) s fun t =>
      t = { s with chf := t.chf, rstat := 2 } ∧ exec (.rcRead w a n x) s = .next { t with rdata := 0 } ∧
        ((mget dNil s.chf.errq (recSrc w).1).length < 6 →
          ∃ e, mget dNil t.chf.errq (recSrc w).1 = mget dNil s.chf.errq (recSrc w).1 ++ [e] ∧ e.code = 2 ∧ e.addr = a.toNat))

/-- R30: a CSR offset that no chapter defines reads as zero and ignores writes, and no fault is raised. -/
def Obligations.UndefinedOffsetsReadZeroAndIgnoreWrites : Prop :=
  ∀ (s : State) (w : Agent) (a : BitVec 48) (n : Nat) (v x : BitVec 64), (n = 4 ∨ n = 8) → a.toNat % n = 0 →
    0xF00000000000 ≤ a.toNat → a.toNat < 0xF00100000000 → lmWindow a.toNat = none → vecWindow w a.toNat = none →
    Reg.ofAddr (barAddr w a.toNat) = none →
    exec (.rcRead w a n x) s = .next { s with rdata := 0, rstat := 0 } ∧ exec (.registerWrite w a n v x) s = .next { s with rstat := 0 }

/-- R7: what a write leaves in a bit of a register, by the access code of the field that holds it; R6, R8 with it: a bit of no
field keeps its value, and a bit set by hardware in the cycle of its clearing reads as 1 afterwards. -/
def Obligations.AccessCodesActBitByBit : Prop :=
  ∀ (r : Reg) (old v set : Word) (k : Nat), k < 64 →
    let x := (codeValue r old v (BitVec.allOnes 64) set).getLsbD k
    let under := fun c => r.info.fields.any fun f => decide (f.acc = c ∧ f.lo ≤ k ∧ k ≤ f.hi)
    ((under .RW || under .RWL || under .RWS || under .WO) = true → x = v.getLsbD k) ∧
    (under .W1C = true → x = if v.getLsbD k then set.getLsbD k else old.getLsbD k) ∧
    (under .W1S = true → x = (old.getLsbD k || v.getLsbD k)) ∧
    ((under .RW || under .RWL || under .RWS || under .WO || under .W1C || under .W1S) = false → x = old.getLsbD k)

/-- R7, R23: a register access that is in form, allowed and not closed completes; so does one of a function's MSI-X table (R243).
Rests also on the model's choices of log entries 8, 78, 79 and 147. -/
def Obligations.RegisterAccessesComplete : Prop :=
  ∀ (s : State) (w : Agent) (a : BitVec 48) (n : Nat) (v x : BitVec 64) (r : Reg) (i j o : Nat),
    csrShape a.toNat n = true → lmWindow a.toNat = none →
    (∀ f p k, vecWindow w a.toNat = some (f, p, k) → s.vecOpen w f = true → s.barClosed w (barAddr w a.toNat) = false →
      exec (.rcRead w a n x) s = .next { s with rdata := s.vecRead f p k n, rstat := 0 } ∧
      exec (.registerWrite w a n v x) s = .next { s.vecWrite f p k n v with rstat := 0 }) ∧
    (vecWindow w a.toNat = none → Reg.ofAddr (barAddr w a.toNat) = some (r, i, j, o) → s.barClosed w (barAddr w a.toNat) = false →
    let sh := if n = 8 then 0 else 8 * o
    let m : Word := if n = 8 then BitVec.allOnes 64 else 0xFFFFFFFF <<< sh
    (s.mayRead w r i = true → r ≠ .HSP_DBG_CHAL → exec (.rcRead w a n x) s =
      .next { s with rdata := s.csrValue (barAddr w a.toNat) n, rstat := 0, free := if r = .LOFT_MGMT_PINS then s.free + 1 else s.free }) ∧
    (s.mayRead w r i = false → exec (.rcRead w a n x) s = .next { s with rdata := 0, rstat := 0 }) ∧
    (s.mayWrite w r i = true → s.lockedOut r = false → r.info.kind = .plain → ∀ y,
      s.plainRule r i (s.rd r i j) (codeValue r (s.rd r i j) (v <<< sh) m (x <<< sh)) = .ok y →
        Gives (.registerWrite w a n v x) s fun t => t = { s with csr := t.csr, rstat := 0 } ∧ t.rd r i j = y ∧
          ∀ r' i' j', r'.key i' j' ≠ r.key i j → t.rd r' i' j' = s.rd r' i' j') ∧
    (s.mayWrite w r i = false ∨ s.lockedOut r = true → Gives (.registerWrite w a n v x) s fun t =>
      t = { s with chf := t.chf, rstat := 2 }))

/-- R9, R526: HSP_LOCK sets the lock; after it a write of a register with an RWL field leaves every register as it is and
PROTECTION_FAULT goes to the error ring's queue. R527, R528, R530: a protection-table write waits in the order it came; the oldest is then applied by every checker at once,
its reserved bits cleared. -/
def Obligations.LockAndProtectionWrites : Prop :=
  (∀ (s : State) (w : Agent) (v : BitVec 64),
     (Allowed s w .HSP_LOCK 0 0 → v.getLsbD 0 = true → Gives (.hspLock w v) s fun t => t.rd .HSP_LOCK 0 0 = 1 ∧ t.rdF .HSP_STATUS 0 0 48 48 = 1) ∧
     (Allowed s w .HSP_LOCK 0 0 → v.getLsbD 0 = false → exec (.hspLock w v) s = .next (okStat s)) ∧
     (s.rdF .HSP_STATUS 0 0 48 48 = 1 → ∀ (r : Reg) (i j o : Nat) (a : BitVec 48) (x : BitVec 64),
       csrShape a.toNat 8 = true → lmWindow a.toNat = none → vecWindow w a.toNat = none →
       Reg.ofAddr (barAddr w a.toNat) = some (r, i, j, o) → s.barClosed w (barAddr w a.toNat) = false →
       (r.info.fields.any fun f => decide (f.acc = .RWL)) = true → (mget dNil s.chf.errq (recSrc w).1).length < 6 →
       Gives (.registerWrite w a 8 v x) s fun t => t.csr = s.csr ∧ t.hasp = s.hasp ∧ t.rstat = 2 ∧
         ∃ e, mget dNil t.chf.errq (recSrc w).1 = mget dNil s.chf.errq (recSrc w).1 ++ [e] ∧ e.code = 2 ∧ e.addr = barAddr w a.toNat)) ∧
  (∀ (s : State) (w : Agent) (a : BitVec 48) (v : BitVec 64) (r : Reg) (i j o : Nat),
     (csrShape a.toNat 8 = true → lmWindow a.toNat = none → vecWindow w a.toNat = none →
       Reg.ofAddr (barAddr w a.toNat) = some (r, i, j, o) → s.barClosed w (barAddr w a.toNat) = false →
       s.mayWrite w r i = true → s.lockedOut r = false → r.info.kind = .prot →
       exec (.protectionTableWrite w a 8 v) s = .next ((okStat s).setHasp { s.hasp with
         wrq := s.hasp.wrq ++ [⟨r.idx, i, j, v, BitVec.allOnes 64, writerOf w⟩] })) ∧
     (∀ q ∈ [Reg.BND_SRAMWIN, .HOP_FN_HMBASE, .HOP_FN_HMSIZE, .HOP_FN_ARB, .WIN_MODEL_FN0, .WIN_MODEL_FN1], ∀ rest b,
       s.hasp.wrq = ⟨q.idx, i, 0, v, BitVec.allOnes 64, b⟩ :: rest →
       Gives .protectionWriteComplete s fun t => t = { s with csr := t.csr, hasp := { s.hasp with wrq := rest }, rstat := 0 } ∧
         t.rd q i 0 = v &&& q.mask [.RW] ∧ ∀ r' i' j', r'.key i' j' ≠ q.key i 0 → t.rd r' i' j' = s.rd r' i' j'))

/-- R218: the local-memory window, at PL0 while the core is halted; at any other time or level a read returns zero, a write is
ignored, and either records PROTECTION_FAULT. Table 07.12: starting a halted core that is not fenced, and halting a running one. -/
def Obligations.CoreWindowAndRunRowsComplete : Prop :=
  (∀ (s : State) (w : Agent) (c : Fin 64) (off : BitVec 17) (bs : List Byte) (n : Nat), (n = 4 ∨ n = 8) → off.toNat % n = 0 → bs.length = n →
     s.barClosed w (0xF0004F800000 + 0x20000 * c.val + off.toNat) = false →
     let open_ := s.pl w = 0 ∧ ((s.core c).state = .halted ∨ (s.core c).state = .doubleTrap)
     let k := c.val * 0x20000 + off.toNat
     (open_ → exec (.localMemoryWindowAccess w c off (.read n)) s =
       .next { s with rdata := BitVec.ofNat 64 (s.loadNat .lmem k n), rstat := 0 }) ∧
     (open_ → Gives (.localMemoryWindowAccess w c off (.write bs)) s fun t => t = { s with mem := t.mem, rstat := 0 } ∧
       ∀ sp a, t.byteAt sp a = if sp = .lmem ∧ k ≤ a ∧ a < k + n then lget bs (a - k) 0 else s.byteAt sp a) ∧
     (¬ open_ → Gives (.localMemoryWindowAccess w c off (.read n)) s fun t => t = { s with chf := t.chf, rdata := 0, rstat := 2 }) ∧
     (¬ open_ → Gives (.localMemoryWindowAccess w c off (.write bs)) s fun t => t = { s with chf := t.chf, rstat := 2 } ∧
       ((mget dNil s.chf.errq (recSrc w).1).length < 6 →
         ∃ e, mget dNil t.chf.errq (recSrc w).1 = mget dNil s.chf.errq (recSrc w).1 ++ [e] ∧ e.code = 2))) ∧
  (∀ (s : State) (w : Agent) (c : Fin 64) (pc : BitVec 17), Allowed s w .BND_RUN c 0 →
     let k := s.core c
     (k.state = .halted ∨ k.state = .doubleTrap → s.isFenced 9 c = false → Gives (.bndRunStart w c pc) s fun t =>
       t = { s with csr := t.csr, cores := t.cores, rstat := 0 } ∧ t.core c = { k with state := .running, monitor := true, pc := pc.toNat / 4 * 4 } ∧
         ∀ i, i ≠ c.val → t.core i = s.core i) ∧
     (k.state ≠ .halted → k.state ≠ .doubleTrap → Gives (.bndRunHalt w c) s fun t =>
       t.core c = { k with state := .halted } ∧ (t.rd .BND_RUN c 0).getLsbD 63 = false ∧ t.mem = s.mem ∧ ∀ i, i ≠ c.val → t.core i = s.core i))

/-! ### Threshers -/

/-- Table 03.6, classes 0, 2, 5, 7 and 8: the words that write DST in every active lane, with the lane's value. Table 03.6, classes 0 and 5, with R76: the words that write predicate PD in every active lane, when PDW says so, and nothing
else. -/
def Obligations.LaneAndPredicateWordsComplete : Prop :=
  (∀ (s : State) (u : Fin 16896) (st : Fin 4) (w : SW),
     let g := (s.cu u).stage st
     let x := s.src1 u st w
     let y := s.src2 u st w
     let on := s.lanesOn u st w
     let put := fun (v : Nat → Word32) => issued s (s.writeDst u st w.dst ((List.range 16).map v) on (s.tailOk u w)) u st w
     (∀ p ∈ ([(.mov u st, 0, 1, x), (.lrot u st, 0, 2, fun l => x ((l + w.imm) % 16)), (.lbc u st, 0, 3, fun _ => x (w.imm % 16)),
         (.ptoi u st, 0, 4, fun l => if g.p w.psel l then 1 else 0),
         (.iadd u st, 2, 0, fun l => x l + y l), (.isub u st, 2, 1, fun l => x l - y l), (.imul u st, 2, 2, fun l => x l * y l),
         (.imin u st, 2, 3, fun l => if (x l).toInt < (y l).toInt then x l else y l),
         (.imax u st, 2, 4, fun l => if (x l).toInt < (y l).toInt then y l else x l),
         (.stageAnd u st, 2, 5, fun l => x l &&& y l), (.stageOr u st, 2, 6, fun l => x l ||| y l), (.stageXor u st, 2, 7, fun l => x l ^^^ y l),
         (.stageShl u st, 2, 8, fun l => x l <<< ((y l).toNat % 32)), (.stageShr u st, 2, 9, fun l => x l >>> ((y l).toNat % 32)),
         (.stageSar u st, 2, 10, fun l => (x l).sshiftRight ((y l).toNat % 32)),
         (.sel u st, 5, 8, fun l => if g.p w.psel l then x l else y l)] : List (Instr × Nat × Nat × (Nat → Word32))),
       StandsAt s u st w p.2.1 p.2.2.1 → exec p.1 s = .next (put p.2.2.2)) ∧
     (StandsAt s u st w 0 0 → exec (.nop u st) s = .next (issued s s u st w)) ∧
     (StandsAt s u st w 7 4 → exec (.isum u st) s = .next (put fun _ =>
       (List.range 16).foldl (fun a l => if lget on l false then a + x l else a) 0)) ∧
     (StandsAt s u st w 7 5 → exec (.pcount u st) s = .next (put fun _ => BitVec.ofNat 32 ((List.range 16).countP fun l => g.p w.psel l))) ∧
     (StandsAt s u st w 8 1 →
       let src := if w.fs = 8 then 8 else 0
       let a := fun l => mget dW32 g.acc (w.s1 % 4 * 16 + l)
       (w.fd = src → exec (.aread u st) s = .next (put a)) ∧
       (w.fd ≠ src →
         let r := s.overLanes u on fun l lf =>
           let d := draw (s.num u w.rm) lf
           let e := elemOf d.1 w.fd (elemVal src (a l).toNat)
           (BitVec.ofNat 32 e.1, e.2, d.2)
         exec (.aread u st) s = .next (issued s (r.1.writeDst u st w.dst r.2 on (s.tailOk u w)) u st w)))) ∧
  (∀ (s : State) (u : Fin 16896) (st : Fin 4) (w : SW),
     let g := (s.cu u).stage st
     let x := s.src1 u st w
     let y := s.src2 u st w
     let v := fun l => elemVal w.fs (x l).toNat
     let z := fun l => elemVal w.fs (y l).toNat
     let i := w.imm % 8
     ∀ p ∈ ([(.itop u st, 0, 5, fun l => decide (x l ≠ 0)),
         (.fcmpeq u st, 5, 0, fun l => decide ((v l).cmp (z l) = some 0)), (.fcmplt u st, 5, 1, fun l => decide ((v l).cmp (z l) = some (-1))),
         (.fcmple u st, 5, 2, fun l => decide ((v l).cmp (z l) = some (-1) ∨ (v l).cmp (z l) = some 0)),
         (.fcmpun u st, 5, 3, fun l => decide (v l = .nan ∨ z l = .nan)),
         (.icmpeq u st, 5, 4, fun l => decide (x l = y l)), (.icmplt u st, 5, 5, fun l => decide ((x l).toInt < (y l).toInt)),
         (.icmpltu u st, 5, 6, fun l => decide ((x l).toNat < (y l).toNat)),
         (.pand u st, 5, 9, fun l => g.p w.psel l && g.p i l), (.por u st, 5, 10, fun l => g.p w.psel l || g.p i l),
         (.pxor u st, 5, 11, fun l => xor (g.p w.psel l) (g.p i l)), (.pnot u st, 5, 12, fun l => !g.p w.psel l)] :
         List (Instr × Nat × Nat × (Nat → Bool))),
       StandsAt s u st w p.2.1 p.2.2.1 →
         exec p.1 s = .next (issued s (if w.pdw then s.writePred u st w.pd ((List.range 16).map p.2.2.2) (s.lanesOn u st w) else s) u st w))

/-- Table 03.6, class 1, with R44, R46, R47 and R79: each element of an active lane (a pair of 16-bit values, or one value) is
computed exactly from FMT_S and rounded once to FMT_D; flags gather, and SR draws once an element where the word rounds. That FABS and
FNEG into another format round without flags, and that of a pair only the low element goes to a 32-bit result, are the model's choices
(log entry 10). -/
def Obligations.FloatWordsComplete : Prop :=
  ∀ (s : State) (u : Fin 16896) (st : Fin 4) (w : SW) (fs : Fmt), fmtOf w.fs = some fs →
    let once := fun (c : RCtx) (v : FVal × Flags) => ((elemOf c w.fd v.1).1, (elemOf c w.fd v.1).2 ||| v.2)
    let bare := fun (c : RCtx) (v : FVal) => ((elemOf { c with ftz := false } w.fd v).1, (0 : Flags))
    let d := fs.decode
    ∀ p ∈ ([(.stageFadd u st, 0, true, fun c x y _ => once c ((d x).add (d y))), (.stageFsub u st, 1, true, fun c x y _ => once c ((d x).add (d y).neg)),
        (.stageFmul u st, 2, true, fun c x y _ => once c ((d x).mul (d y))), (.stageFfma u st, 3, true, fun c x y z => once c ((d x).fma (d y) (d z))),
        (.stageFmin u st, 4, false, fun c x y _ => elemOf c w.fd (FVal.minmax false (d x) (d y))),
        (.stageFmax u st, 5, false, fun c x y _ => elemOf c w.fd (FVal.minmax true (d x) (d y))),
        (.fabs u st, 6, false, fun c x _ _ => bare c (d x).abs), (.fneg u st, 7, false, fun c x _ _ => bare c (d x).neg),
        (.stageFdiv u st, 8, true, fun c x y _ => quotOf c w.fd (d x) (d y))] :
        List (Instr × Nat × Bool × (RCtx → Nat → Nat → Nat → Nat × Flags))),
      StandsAt s u st w 1 p.2.1 →
        let r := s.overLanes u (s.lanesOn u st w) fun l lf =>
          let e := pairwise (decide (fmtBits w.fs = 16 ∧ fmtBits w.fd ≤ 16)) (s.num u w.rm) lf (s.src1 u st w l) (s.src2 u st w l)
            (s.src3 u st w l) p.2.2.2
          (e.1, e.2.1, if p.2.2.1 = true ∨ w.fs ≠ w.fd then e.2.2 else lf)
        exec p.1 s = .next (issued s (r.1.writeDst u st w.dst r.2 (s.lanesOn u st w) (s.tailOk u w)) u st w)

/-- Table 03.6, classes 3 and 8: the words that update an accumulator in the active lanes only. Rests also on the model's
choices of log entries 132 and 134. R50, R86: DOTMX adds a group's exact sum to the block partial; with IMM[1] the scaled partial enters the accumulator with one
rounding and is cleared, and without it the accumulator stays. -/
def Obligations.AccumulatorWordsComplete : Prop :=
  (∀ (s : State) (u : Fin 16896) (st : Fin 4) (w : SW),
     let on := s.lanesOn u st w
     let x := s.src1 u st w
     let a := fun l => lget (s.pairOperand u st w w.s1) l 0
     let b := fun l => lget (s.pairOperand u st w w.s2) l 0
     let half := w.imm % 2 = 1
     let round := fun v => BitVec.ofNat 32 (Fmt.fp32.ofVal { RCtx.rne with ftz := (s.num u 0).ftz } v).1
     let upd := fun (fl : Flags) (f : Nat → Word32 → Word32) => issued s ((s.updAcc u st w.dst on f).flag u fl) u st w
     (StandsAt s u st w 8 0 → exec (.azero u st) s = .next (issued s (s.updAcc u st w.dst on fun _ _ => 0) u st w)) ∧
     (StandsAt s u st w 8 2 → exec (.awrite u st) s = .next (issued s (s.updAcc u st w.dst on fun l _ => x l) u st w)) ∧
     (StandsAt s u st w 8 3 → w.fs = 8 → exec (.aadd u st) s = .next (issued s (s.updAcc u st w.dst on fun l v => v + x l) u st w)) ∧
     (StandsAt s u st w 8 3 → w.fs ≠ 8 → ∃ fl, exec (.aadd u st) s = .next (upd fl fun l v =>
       round ((Fmt.fp32.decode v.toNat).add (Fmt.fp32.decode (x l).toNat)).1)) ∧
     (StandsAt s u st w 3 0 → ∃ fl, exec (.dotf u st) s = .next (upd fl fun l _ =>
       round ((groupDot elemVal w.fs w.fd (a l) (b l) half).1.add (Fmt.fp32.decode (lget (s.accVals u st w.dst) l 0).toNat)).1)) ∧
     (StandsAt s u st w 3 1 → exec (.doti u st) s = .next (upd
       (if ∃ l, l < 16 ∧ lget on l false = true ∧
           (let e := (lget (s.accVals u st w.dst) l 0).toInt + groupDotI w.fs w.fd (a l) (b l) half; e < -2 ^ 31 ∨ 2 ^ 31 ≤ e)
         then Flags.overflow else 0)
       fun l _ => BitVec.ofInt 32 ((lget (s.accVals u st w.dst) l 0).toInt + groupDotI w.fs w.fd (a l) (b l) half)))) ∧
  (∀ (s : State) (u : Fin 16896) (st : Fin 4) (w : SW), StandsAt s u st w 3 2 →
     let g := (s.cu u).stage st
     let cell := fun l => w.dst % 4 * 16 + l
     let part := fun l => ((mget dPart g.part (cell l)).add (groupDot (fun c v => (mxOf c).decode v) w.fs w.fd
       (lget (s.pairOperand u st w w.s1) l 0) (lget (s.pairOperand u st w w.s2) l 0) (w.imm % 2 = 1)).1).1
     let sc := fun l => (lget (s.operand u st w w.s3) l 0).toNat
     let ea := fun l => sc l % 256
     let eb := fun l => sc l / 256 % 256
     ∃ b, exec (.dotmx u st) s = .next (issued s b u st w) ∧
       b = { s with csr := b.csr, arr := { s.arr with cus := b.arr.cus } } ∧ (∀ v, v ≠ u.val → b.cu v = s.cu v) ∧
       (∀ r i j, r ≠ .CU_FLAGS → b.rd r i j = s.rd r i j) ∧
       let g' := (b.cu u).stage st
       g'.t = g.t ∧ g'.pred = g.pred ∧ (∀ k, k ≠ st.val → (b.cu u).stage k = (s.cu u).stage k) ∧
       (∀ n l, n < 4 → l < 16 → n ≠ w.dst % 4 → mget dPart g'.part (n * 16 + l) = mget dPart g.part (n * 16 + l) ∧
         mget dW32 g'.acc (n * 16 + l) = mget dW32 g.acc (n * 16 + l)) ∧
       ∀ l, l < 16 →
       if lget (s.lanesOn u st w) l false then
         (w.imm / 2 % 2 = 0 → mget dPart g'.part (cell l) = part l ∧ mget dW32 g'.acc (cell l) = mget dW32 g.acc (cell l)) ∧
         (w.imm / 2 % 2 = 1 → mget dPart g'.part (cell l) = .num false 0 0 ∧ mget dW32 g'.acc (cell l) =
           BitVec.ofNat 32 (Fmt.fp32.ofVal { RCtx.rne with ftz := (s.num u 0).ftz }
             ((if ea l = 255 ∨ eb l = 255 then FVal.nan else FVal.scale ((ea l : Int) + eb l - 254) (part l)).add
               (Fmt.fp32.decode (mget dW32 g.acc (cell l)).toNat)).1).1)
       else mget dPart g'.part (cell l) = mget dPart g.part (cell l) ∧ mget dW32 g'.acc (cell l) = mget dW32 g.acc (cell l))

/-- Table 03.6, classes 4, 6 and 7: conversions, MX scales and elements, shared functions (R56), and the reductions (R87). Rests
also on the model's choices of log entries 11, 14 and 133. R56, Table 02.5: the special values of the shared functions, whatever the free candidate. R93, R94: COMPRESS packs the selected active lanes in lane order; EXPAND gives them out again. -/
def Obligations.ConversionAndFunctionWordsComplete : Prop :=
  (∀ (s : State) (u : Fin 16896) (st : Fin 4) (w : SW),
     let on := s.lanesOn u st w
     let x := s.src1 u st w
     let y := s.src2 u st w
     let put := fun (r : State × List Word32) => issued s (r.1.writeDst u st w.dst r.2 on (s.tailOk u w)) u st w
     let conv := fun (a : State) (f : Nat → RCtx → Nat × Flags) => a.overLanes u on fun l lf =>
       let e := f l (draw (s.num u w.rm) lf).1
       (BitVec.ofNat 32 e.1, e.2, (draw (s.num u w.rm) lf).2)
     let opt := (List.range 16).map fun l => if lget on l false then some (x l) else none
     (StandsAt s u st w 4 0 → exec (.cvt u st) s = .next (put (conv s fun l c => elemOf c w.fd (elemVal w.fs (x l).toNat)))) ∧
     (StandsAt s u st w 4 1 → exec (.mxsc u st) s = .next (put (s, List.replicate 16 (BitVec.ofNat 32 (mxScale (mxOf w.fd)
       ((s.operand u st w w.s1 ++ s.operand u st w w.s2).map fun v => elemVal w.fs v.toNat)))))) ∧
     (StandsAt s u st w 4 2 → exec (.mxq u st) s = .next (put (conv s fun l c =>
       if elemVal w.fs (x l).toNat = .nan ∧ (w.fd = 5 ∨ w.fd = 6 ∨ w.fd = 7)
       then (Config.nanElem w.fd c.mode.code ((y l).toNat % 256) % 2 ^ fmtBits w.fd, Flags.invalid)
       else mxQuant (mxOf w.fd) c ((y l).toNat % 256) (elemVal w.fs (x l).toNat)))) ∧
     (StandsAt s u st w 4 3 → exec (.mxdq u st) s = .next (put (conv s fun l c =>
       elemOf c w.fd (mxValue (mxOf w.fs) ((y l).toNat % 256) ((x l).toNat % 2 ^ fmtBits w.fs))))) ∧
     (∀ p ∈ ([(.exp2 u st, 0, SFun.exp2), (.log2 u st, 1, SFun.log2), (.rcp u st, 2, SFun.rcp), (.rsqrt u st, 3, SFun.rsqrt),
         (.tanh u st, 4, SFun.tanh), (.sigm u st, 5, SFun.sigm)] : List (Instr × Nat × SFun)),
       StandsAt s u st w 6 p.2.1 → exec p.1 s = .next (put (s.overLanes u on fun l lf =>
         let r := sfEval p.2.2 (s.num u 0).ftz (Config.special p.2.1 (x l)) (x l)
         (r.1, r.2, lf)))) ∧
     (StandsAt s u st w 7 2 → exec (.lsum u st) s = .next (issued s ((s.writeDst u st w.dst
       (List.replicate 16 (laneSum (s.num u 0).ftz opt).1) on (s.tailOk u w)).flag u (laneSum (s.num u 0).ftz opt).2) u st w)) ∧
     (StandsAt s u st w 7 3 → exec (.lmax u st) s = .next (issued s ((s.writeDst u st w.dst
       (List.replicate 16 (laneMax (s.num u 0).ftz opt).1) on (s.tailOk u w)).flag u (laneMax (s.num u 0).ftz opt).2) u st w)) ∧
     (StandsAt s u st w 8 4 →
       let src := if w.fs = 8 then 8 else 0
       let r := if w.fd = src then (s, s.accVals u st w.s1)
         else conv s fun l c => elemOf c w.fd (elemVal src (lget (s.accVals u st w.s1) l 0).toNat)
       exec (.areadz u st) s = .next (issued s
         ((r.1.updAcc u st w.s1 on fun _ _ => 0).writeDst u st w.dst r.2 on (s.tailOk u w)) u st w))) ∧
  (∀ (ftz : Bool) (c : Word32),
     (∀ p ∈ ([(.exp2, 0x7F800000, 0x7F800000), (.exp2, 0xFF800000, 0), (.exp2, 0, 0x3F800000), (.log2, 0x7F800000, 0x7F800000),
         (.log2, 0xFF800000, 0x7FC00000), (.log2, 0, 0xFF800000), (.log2, 0xBF800000, 0x7FC00000), (.rcp, 0, 0x7F800000), (.rcp, 0x80000000, 0xFF800000),
         (.rcp, 0x7F800000, 0), (.rcp, 0xFF800000, 0x80000000), (.rsqrt, 0, 0x7F800000), (.rsqrt, 0x80000000, 0xFF800000), (.rsqrt, 0x7F800000, 0),
         (.rsqrt, 0xBF800000, 0x7FC00000), (.tanh, 0x7F800000, 0x3F800000), (.tanh, 0xFF800000, 0xBF800000), (.tanh, 0x80000000, 0x80000000),
         (.sigm, 0x7F800000, 0x3F800000), (.sigm, 0xFF800000, 0), (.sigm, 0, 0x3F000000)] : List (SFun × Word32 × Word32)),
       (sfEval p.1 ftz c p.2.1).1 = p.2.2) ∧
     ∀ (f : SFun) (x : Word32), Fmt.fp32.decode x.toNat = .nan → sfEval f ftz c x = (0x7FC00000, 0)) ∧
  (∀ (s : State) (u : Fin 16896) (st : Fin 4) (w : SW),
     let g := (s.cu u).stage st
     let on := s.lanesOn u st w
     let picks := fun l => lget on l false && g.p w.psel l
     (StandsAt s u st w 7 0 →
       let new := ((List.range 16).filter picks).map fun l => lget (s.operand u st w w.s1) l 0
       let buf := g.pack ++ new
       let full := decide (16 ≤ buf.length)
       let a := s.setCu u ((s.cu u).setStage st { g with pack := if full then buf.drop 16 else buf, packed := g.packed + new.length })
       exec (.compress u st) s = .next (issued s (if full then a.writeDst u st w.dst (buf.take 16) (List.replicate 16 true) (List.replicate 16 true)
         else a) u st w)) ∧
     (StandsAt s u st w 7 1 →
       let need := (List.range 16).countP picks
       let more := !g.expBad && decide (g.exp.length < need)
       let s0 := if more then s.expandNext u st w else s
       let pool := if more then g.exp ++ s0.expandGroup u st w else g.exp
       let cut := g.expBad || (more && decide ((s0.expandGroup u st w).length < 16))
       let used := (g.expOn || more) && decide (pool.length ≤ need) && !cut
       let s1 := if used then s0.expandAdv u st w else s0
       let s2 := s1.setCu u ((s1.cu u).setStage st { (s1.cu u).stage st with
         exp := pool.drop need, expBad := cut, expOn := (g.expOn || more) && !used })
       let s3 := if pool.length < need then s2.wrF .CU_STATUS u 0 9 9 1 else s2
       let rank := fun l => (List.range l).countP picks
       let vals := (List.range 16).map fun l =>
         if picks l = true ∧ rank l < pool.length then lget pool (rank l) 0 else lget (s.operand u st w w.s2) l 0
       exec (.expand u st) s = .next (movesOn s ((s3.writeDst u st w.dst vals on (s.tailOk u w)).consume u st w [w.s1]) u st w)))

/-- R80, R71, R72: what a lane result does to each kind of destination. -/
def Obligations.LaneResultsReachTheDestination : Prop :=
  ∀ (s : State) (u st dst : Nat) (vals : List Word32) (on tl : List Bool),
    let t := s.writeDst u st dst vals on tl
    let g := (s.cu u).stage st
    let g' := (t.cu u).stage st
    (dst < 16 → (∀ n l, l < 16 → mget dNone g'.t (n * 16 + l) =
        if n = dst ∧ lget on l false = true then some (lget vals l 0) else mget dNone g.t (n * 16 + l)) ∧
      g'.acc = g.acc ∧ g'.pred = g.pred ∧ (∀ k, k ≠ st → (t.cu u).stage k = (s.cu u).stage k) ∧ t.csr = s.csr ∧ t.mem = s.mem ∧
      (∀ v, v ≠ u → t.cu v = s.cu v) ∧ ∀ i, t.tile i = s.tile i) ∧
    (16 ≤ dst → dst < 20 → (∀ n l, l < 16 → mget dW32 g'.acc (n * 16 + l) =
        if n = dst - 16 ∧ lget on l false = true then lget vals l 0 else mget dW32 g.acc (n * 16 + l)) ∧
      g'.t = g.t ∧ g'.pred = g.pred ∧ (∀ k, k ≠ st → (t.cu u).stage k = (s.cu u).stage k) ∧ t.csr = s.csr ∧ t.mem = s.mem ∧
      (∀ v, v ≠ u → t.cu v = s.cu v) ∧ ∀ i, t.tile i = s.tile i) ∧
    (dst = 0x18 → lget on 0 false = false → t = s) ∧
    (dst = 0x18 → lget on 0 false = true → t = s.send (cuInst u) 0x12 (.scalar (lget vals 0 0))) ∧
    (dst = 0x19 → g'.down = g.down ++ [.grp ((List.range 16).map fun l => if lget on l false then lget vals l 0 else 0)
      ((tl.takeWhile id).length)])

/-- R91, R92, R104: a word of a stage that meets end of section aborts the task with PASS_TRUNCATED (0x0102); one that finds no data or
no credit waits a cycle, which its stall counter counts, and no part of it issues; a stage that stands at another word, or is in no
pass, does nothing. Rests also on the model's choices of log entries 5 and 12. -/
def Obligations.StageWordsWaitOrAreCutShort : Prop :=
  ∀ (s : State) (u : Fin 16896) (st : Fin 4), ∀ p ∈ stageWords u st,
    (s.curWord u st = none → exec p.1 s = .next s) ∧ ∀ w : SW, s.curWord u st = some w →
      (w.cls ≠ p.2.1 ∨ w.op ≠ p.2.2 → exec p.1 s = .next s) ∧
      (w.cls = p.2.1 → w.op = p.2.2 →
      (s.truncated u st w = true → exec p.1 s = .next (s.taskFault (cuInst u) 0x0102 (errRec 0x0102 sevTransient 0 u 0))) ∧
      (s.truncated u st w = false → s.inputsReady u st w = false → Gives p.1 s fun t =>
        t = { s with csr := t.csr } ∧ t.rd .CU_STALL_IN u 0 = s.rd .CU_STALL_IN u 0 + 1 ∧ t.rdF .CU_STATUS u 0 2 0 = 2) ∧
      (s.truncated u st w = false → s.inputsReady u st w = true → s.outputsReady u st w = false → Gives p.1 s fun t =>
        t = { s with csr := t.csr } ∧ t.rd .CU_STALL_OUT u 0 = s.rd .CU_STALL_OUT u 0 + 1 ∧
          t.rd .LNK_CREDIT_STALL (cuInst u) 0 = s.rd .LNK_CREDIT_STALL (cuInst u) 0 + 1 ∧ t.rdF .CU_STATUS u 0 2 0 = 3))

/-- R89, R90, R91: a pass begins at word 0 with its limits, and one with a limit of 0 ends at once; a limit above 65,536 aborts the task
with CHAIN_LIMIT (0x0101); a stage that finds end of section on every input ends its run. R89: after an issue the word repeats REP times, then the loop it closes goes back to TARGET until its limit, then the next word
follows. -/
def Obligations.PassesRunsAndSequencer : Prop :=
  (∀ (s : State) (u : Fin 16896) (st : Fin 4),
     let k := s.cu u
     let g := k.stage st
     let lims := [1, 2, 3].map fun L => if L ∈ s.loopLevels u st then s.loopLimit u st L else 1
     let mode := s.cuMode u
     let open_ := s.nwords u st ≠ 0 ∧ (mode = 1 ∨ mode = 2) ∧ (s.tile (cuInst u)).aborting = false ∧ g.inPass = false
     let begun := (s.setCu u (k.setStage st { g with inPass := true, w := 0, rep := 0, cnt := [0, 0, 0], lim := lims })).cuState u 1
     (open_ → g.ended = false → s.stageEos u st = false → (∀ x ∈ lims, x ≠ 0 ∧ x ≤ 65536) → exec (.passStart u st) s = .next begun) ∧
     (open_ → g.ended = false → s.stageEos u st = false → (∀ x ∈ lims, x ≤ 65536) → (∃ x ∈ lims, x = 0) →
       exec (.passStart u st) s = .next (begun.endPass u st)) ∧
     (open_ → g.ended = false → s.stageEos u st = false → (∃ x ∈ lims, 65536 < x) →
       exec (.passStart u st) s = .next (s.taskFault (cuInst u) 0x0101 (errRec 0x0101 sevTransient 0 u 0))) ∧
     (open_ → g.ended = true → exec (.thresherRunEnd u st) s = .next (s.takeEos u st)) ∧
     (open_ → g.ended = false → s.stageEos u st = true → k.mtile = [] →
       let a := (s.takeEos u st).popUp u st
       let stopped := a.setCu u ((a.cu u).setStage st { (a.cu u).stage st with ended := true })
       let outs := if mode = 2 then [0x10, 0x11]
         else (([0, 1].filter fun n => s.portEn u (4 + n)).map (0x10 + ·) ++ (if bit (s.rd .CU_PORTBIND u 0) 54 then [0x12] else []))
       (mode = 1 → st.val ≠ s.lastStage u → g.down.length < s.downRoom u st →
         exec (.thresherRunEnd u st) s = .next ((stopped.pushDown u st .eos).cuState u 4)) ∧
       (mode = 1 → st.val ≠ s.lastStage u → s.downRoom u st ≤ g.down.length → exec (.thresherRunEnd u st) s = .next (s.stallOut u)) ∧
       (mode = 2 ∨ st.val = s.lastStage u → (∀ c ∈ outs, s.canSend (cuInst u) c = true) →
         exec (.thresherRunEnd u st) s = .next (((outs.foldl (fun b c => b.send (cuInst u) c .eos) stopped).cuState u 5).foldFlags u)) ∧
       (mode = 2 ∨ st.val = s.lastStage u → (∃ c ∈ outs, s.canSend (cuInst u) c = false) →
         exec (.thresherRunEnd u st) s = .next (s.stallOut u)))) ∧
  (∀ (s : State) (u st : Nat) (w : SW),
     let g := (s.cu u).stage st
     let L := w.loop
     let c := lget g.cnt (L - 1) 0
     let at' := fun (t : State) => (t.cu u).stage st
     (g.rep < w.rep → at' (s.advance u st w) = { g with rep := g.rep + 1 }) ∧
     (w.rep ≤ g.rep → L = 0 → g.w + 1 < s.nwords u st → at' (s.advance u st w) = { g with rep := 0, w := g.w + 1 }) ∧
     (w.rep ≤ g.rep → L ≠ 0 → c + 1 < lget g.lim (L - 1) 0 → w.target < s.nwords u st →
       at' (s.advance u st w) = { g with rep := 0, cnt := lset g.cnt (L - 1) (c + 1), w := w.target }) ∧
     (w.rep ≤ g.rep → L ≠ 0 → lget g.lim (L - 1) 0 ≤ c + 1 → g.w + 1 < s.nwords u st →
       at' (s.advance u st w) = { g with rep := 0, cnt := lset g.cnt (L - 1) 0, w := g.w + 1 }) ∧
     (∀ v, v ≠ u → g.w + 1 < s.nwords u st → w.target < s.nwords u st → (s.advance u st w).cu v = s.cu v))

/-- R92, R96 to R101: a MATRIX word works through the chunks of its tile and captures it at the last; end of section on a port it reads
aborts the task, and so does a KB above 65,535; readout converts a captured tile once and sends its beats alternately on VO0 and VO1. -/
def Obligations.MatrixModeCompletes : Prop :=
  ∀ (s : State) (u : Fin 16896) (w : SW),
    let k := s.cu u
    let kb := if k.mkb = 0 then s.matrixKb u w else k.mkb
    let s0 := s.setCu u { k with mkb := kb }
    (s.matrixWord u = some w → w.cls = 0xF → kb ≠ 0 → kb ≤ 65535 → s.matrixCut u w = false → k.mtile.length < 2 →
      (k.mq + 1 = kb * (32 / groupLen w.fs) → ∀ c, s.chunk u k.mq w = some c →
        let a := ((s0.chunkMac u k.mq w c).chunkPop u k.mq w).inc .CU_ISSUE_CYC u 0 4
        exec (.matrixWord u) s = .next (((a.setCu u { a.cu u with
          mq := 0, mkb := 0, mtile := (a.cu u).mtile ++ [⟨a.tileVals u, false, [], w.imm / 2 ^ 24 % 16, w.rm⟩] }).cuState u 1).advance u 0 w)) ∧
      (k.mq + 1 ≠ kb * (32 / groupLen w.fs) → ∀ c, s.chunk u k.mq w = some c →
        let a := ((s0.chunkMac u k.mq w c).chunkPop u k.mq w).inc .CU_ISSUE_CYC u 0 4
        (a.setCu u { a.cu u with mq := k.mq + 1 }).chunk u (k.mq + 1) w = none →
        exec (.matrixWord u) s = .next (((a.setCu u { a.cu u with mq := k.mq + 1 }).cuState u 2).inc .CU_STALL_IN u 0 1)) ∧
      (s.chunk u k.mq w = none → exec (.matrixWord u) s = .next ((s0.cuState u 2).inc .CU_STALL_IN u 0 1))) ∧
    (s.matrixWord u = some w → w.cls = 0xF → kb ≠ 0 → kb ≤ 65535 → s.matrixCut u w = true →
      exec (.matrixWord u) s = .next (s.taskFault (cuInst u) 0x0102 (errRec 0x0102 sevTransient 0 u 0))) ∧
    (s.matrixWord u = some w → w.cls = 0xF → 65535 < kb →
      exec (.matrixWord u) s = .next (s.taskFault (cuInst u) 0x0101 (errRec 0x0101 sevTransient 0 u 0))) ∧
    (s.matrixWord u = some w → w.cls = 0xF → kb = 0 → exec (.matrixWord u) s = .next ((s.cuState u 1).advance u 0 w)) ∧
    (s.matrixWord u = some w → w.cls = 0 → w.op = 0 →
      exec (.matrixWord u) s = .next (((s.cuState u 1).inc .CU_ISSUE_CYC u 0 1).advance u 0 w)) ∧
    (∀ b bs, (s.tile (cuInst u)).aborting = false → k.mtile = b :: bs →
      let int := ((List.range (s.nwords u 0)).map (s.progWord u 0)).any fun w => decide (w.cls = 0xF ∧ w.s3 ≠ 0x17) && isIntFmt w.fs
      let v := s.readoutVals u int b
      let begun := if b.started then (s, b.beats) else (v.1.setCu u { v.1.cu u with voT := mput dNat (v.1.cu u).voT 0 0 }, tileBeats b.fmt v.2)
      let r := sendTile 256 begun.1 u begun.2
      exec (.matrixTileReadout u) s = .next (r.1.setCu u { r.1.cu u with
        mtile := if r.2 = [] then bs else { b with started := true, beats := r.2 } :: bs })) ∧
    (∀ b bs x, (s.tile (cuInst u)).aborting = false → k.mtile = b :: bs → b.started = true → b.beats = [x] →
      let port := mget dNat k.voT 0 % 2
      s.canSend (cuInst u) (0x10 + port) = true → Gives (.matrixTileReadout u) s fun t => (t.cu u).mtile = bs ∧
        mget dNat (t.cu u).voT 0 = (port + 1) % 2 ∧
        t.arr.tiles = ((s.setCu u { k with voT := mput dNat k.voT 0 ((port + 1) % 2) }).sendVo u port x.1 x.2).arr.tiles)

/-! ### Binders: the command unit -/

/-- R231, R232, R236, R237: accepting the next command, its completion reaching the core, the acceptance time-out, and resuming a
halted queue. Rests also on the model's choices of log entry 146. -/
def Obligations.CommandUnitRowsComplete : Prop :=
  ∀ (s : State) (c : Fin 64) (m : Cmd),
    let k := s.core c
    (k.cmds.find? (fun x => decide (x.phase = 0)) = some m → k.cqHalt = false →
      (∀ x ∈ k.cmds.takeWhile fun x => decide (x.ticket ≠ m.ticket), x.code ≠ 8) →
      let free := m.eref = true → ∀ x ∈ k.cmds, x.ticket = m.ref → x.settled = true
      (k.cmdBad m = false → free → s.cmdDenied c m = false → exec (.commandAccept c) s = .next (s.setCmd c { m with phase := 1, sub := s.time })) ∧
      (k.cmdBad m = true → exec (.commandAccept c) s = .next ((s.finish c m 0x0505).haltQueue c m.ticket)) ∧
      (k.cmdBad m = false → free → s.cmdDenied c m = true → exec (.commandAccept c) s = .next ((s.finish c m 2).haltQueue c m.ticket)) ∧
      (k.cmdBad m = false → ¬ free → exec (.commandAccept c) s = .next s)) ∧
    (k.cmds.find? (fun x => decide (x.phase = 1) && !x.accepted) = some m →
      (s.pwr.hold = true → m.target = 1 ∨ m.target = 2 ∨ m.target = 3 ∨ 20000 ≤ m.target) →
      exec (.acceptTimeout c) s = .next ((s.finish c m 0x0502).haltQueue c m.ticket)) ∧
    (∀ n w ps, k.arriving = (n, w) :: ps → k.monitor = true →
      let done' := if 64 < (k.nextTicket + 65536 - n) % 65536 then k.done else k.done ++ [(n, w)]
      (k.state = .running → Gives (.commandCompletion c) s fun t => t = { s with cores := t.cores } ∧ (∀ i, i ≠ c.val → t.core i = s.core i) ∧
        t.core c = ({ k with arriving := ps, done := done' }).setCc 4 (k.ccr 4 ||| 1)) ∧
      (k.state = .await → k.awaitTicket = n → Gives (.commandCompletion c) s fun t =>
        RegsAfter s t c k.awaitReg w ∧ (t.core c).pc = (k.pc + 4) % 0x20000 ∧ (t.core c).state = .running ∧
          (t.core c).arriving = ps ∧ (t.core c).done = done' ∧ (t.core c).ccr 4 = k.ccr 4 ||| 1)) ∧
    (k.monitor = true → k.cqHalt = true → exec (.cqResume c) s = .next (s.setCore c { k with cqHalt := false }))

/-- R231: what finishing a command does: it leaves flight, and its completion word is on its way with the ticket in [63:48], the
configuration epoch in [39:32] and the status in [15:0]. R237: halting the queue at a ticket leaves no later command that is not yet accepted; each such command has CMD_FLUSHED (0x0507) on
its way; the other commands and the registers stay. -/
def Obligations.CommandQueuesFinishAndHalt : Prop :=
  (∀ (s : State) (c status : Nat) (m : Cmd), m ∈ (s.core c).cmds → m.ticket < 65536 → status < 65536 →
     let t := s.finish c m status
     t = { s with cores := t.cores } ∧ (∀ i, i ≠ c → t.core i = s.core i) ∧
       (t.core c).cmds = (s.core c).cmds.filter (fun x => decide (x.ticket ≠ m.ticket)) ∧ ∃ w : Word, fld w 63 48 = m.ticket ∧ fld w 39 32 = m.epoch.toNat ∧
       fld w 15 0 = status ∧ (t.core c).arriving = (s.core c).arriving ++ [(m.ticket, w)]) ∧
  (∀ (s : State) (c n : Nat),
     let t := s.haltQueue c n
     let late := fun (m : Cmd) => m.accepted = false ∧ ticketAfter m.ticket n = true
     (t.core c).cqHalt = true ∧ (∀ m ∈ (t.core c).cmds, ¬ late m ∧ m ∈ (s.core c).cmds) ∧
       (∀ m ∈ (s.core c).cmds, (∀ x ∈ (s.core c).cmds, late x → x.ticket ≠ m.ticket) → m ∈ (t.core c).cmds) ∧
       (∀ m ∈ (s.core c).cmds, late m → (m.ticket, complWord m.ticket 0 0x0507 none) ∈ (t.core c).arriving) ∧
       (∀ n, (t.core c).reg n = (s.core c).reg n) ∧ t.mem = s.mem ∧ t.csr = s.csr ∧ ∀ i, i ≠ c → t.core i = s.core i)

/-- Table 07.7: CANCEL, SIGNAL and WAIT act. Rests also on the model's choices of log entry 23. -/
def Obligations.CancelSignalAndWaitCommandsComplete : Prop :=
  ∀ (s : State) (c : Fin 64) (m : Cmd) (u : Nat),
    let hand := (s.core c).hand
    (s.inHand c 6 = some m → s.cmdUnit m = some u → s.plotOf (muInst u) = some m.ctx → exec (.streamCancel c) s = .next
      ((s.cancelGen u (fld (m.arg 0) 17 16) 0x0501).finish c { m with epoch := (s.tile (muInst u)).epoch } 0)) ∧
    (hand (fun x => decide (x.code = 7 ∧ x.flags = 0)) = some m → s.cmdUnit m = some u → ∀ a, s.injectToken u (.plot (plotFin m.ctx)) ((m.arg 1).setWidth 16) = some (a, 0) →
      exec (.signalToken c) s = .next (a.finish c m 0)) ∧
    (hand (fun x => decide (x.code = 7 ∧ x.flags = 1)) = some m → exec (.signalEvent c) s = .next
      ((s.event (fld (m.arg 0) 5 0) (m.arg 1 &&& 0xFFFFFFFFFFFFFF00)).finish c m 0)) ∧
    (s.waiting c 0 = some m → (∀ x ∈ (s.core c).cmds, x.ticket ≠ m.ref) → exec (.waitTicket c) s = .next (s.finish c m 0)) ∧
    (s.waiting c 1 = some m → (∃ l, (s.core c).cmds = m :: l) → exec (.waitAll c) s = .next (s.finish c m 0)) ∧
    (s.waiting c 2 = some m → s.cmdUnit m = some u → (m.arg 1).toNat ≤ (s.rd .LNK_SIGNALS (muInst u) 0).toNat →
      exec (.waitSignals c) s = .next (s.finish c m 0)) ∧
    ((s.core c).cmds.find? (fun x => decide (x.phase = 1 ∧ x.code = 8)) = some m → m.arg 2 ≠ 0 →
      exec (.waitTimeout c) s = .next ((s.finish c m 0x0506).haltQueue c m.ticket))

/-! ### The seeder -/

/-- R189, R190, R193, R197, R234, R235, R238: LOAD, ARM, CLOSE, BCAST, ISSUE and MATRIX act. Rests also on the model's choices
of log entries 123 and 138. -/
def Obligations.SeederCommandsComplete : Prop :=
  ∀ (s : State) (c : Fin 64) (m : Cmd),
    let r : CmdRef := ⟨c, m.ticket⟩
    (s.inHand c 1 = some m → ∀ t e, s.takeLoad m.ctx r (m.arg 0).toNat (fld (m.arg 1) 6 0) (m.flags % 2 = 1) (2 ≤ m.flags) = .taken t e →
      exec (.load c) s = .next (t.setCmd c { m with phase := 2, epoch := e }) ∧ e = (s.plot m.ctx).lastEpoch + 1 ∧ (t.plot m.ctx).lastEpoch = e) ∧
    (s.inHand c 2 = some m → ∀ l, (s.plot m.ctx).loads.find? (fun x => decide (x.cmd = ⟨c, m.ref⟩)) = some l → l.armed = false → exec (.arm c) s = .next
      (((s.setPlot m.ctx { s.plot m.ctx with loads := (s.plot m.ctx).loads.map fun y => if y.epoch = l.epoch then { y with armed := true } else y }).addRun
        m.ctx l r).setCmd c { m with phase := 2, epoch := l.epoch })) ∧
    (s.inHand c 3 = some m →
      let e := if m.eref then (s.core c).epochOf m.ref else s.newestEpoch m.ctx
      exec (.close c) s = .next ((s.closeRun m.ctx e).finish c { m with epoch := e } 0)) ∧
    (s.inHand c 4 = some m →
      let first := fld (m.arg 0) 5 0
      let n := fld (m.arg 0) 14 8
      ∀ vs : List Word32, (m.flags = 1 ∧ n ≤ 12 ∧ vs = ((List.range n).map fun k => BitVec.ofNat 32 (fld (m.arg (1 + k / 2)) (k % 2 * 32 + 31) (k % 2 * 32))) ∨
        m.flags ≠ 1 ∧ ∃ a, sramAddr (m.arg 1) (4 * n) = some a ∧ vs = (List.range n).map fun k => BitVec.ofNat 32 (s.loadNat .csram (a + 4 * k) 4)) →
      0 < n → first + n ≤ 64 → s.armedWaits m.ctx = false →
        let t := (s.bcastSend m.ctx (c * 65536 + m.ticket) first vs).setCmd c { m with phase := 2 }
        exec (.bcast c) s = .next (if t.bcastBusy (c * 65536 + m.ticket) then t else t.finish c m 0)) ∧
    (s.inHand c 5 = some m → ∀ t u, s.cmdUnit m = some u →
      let e := if m.eref then some ((s.core c).epochOf m.ref) else none
      s.takeIssue m.ctx (fld (m.arg 0) 13 0) (fld (m.arg 0) 17 16) (fld (m.arg 0) 23 20) e
        (if m.flags = 1 then some (fld (m.arg 1) 59 0) else none) r = .taken t →
      exec (.issue c) s = .next (t.setCmd c { m with phase := 2, epoch := e.getD (s.tile (muInst u)).epoch })) ∧
    (s.matrixInHand c = some m → (sramAddr (m.arg 0) 256 = none ∨ ∃ a, sramAddr (m.arg 0) 256 = some a ∧ s.matrixBad m a = true) →
      exec (.matrix c) s = .next ((s.finish c m 0x0505).haltQueue c m.ticket)) ∧
    (s.matrixInHand c = some m → ∀ a, sramAddr (m.arg 0) 256 = some a → s.matrixBad m a = false →
      let h := s.tmplWord a 8
      (m.phase = 1 → s.armedWaits m.ctx = false → exec (.matrix c) s = .next
        (((s.bcastSend m.ctx (c * 65536 + m.ticket) (fld h 5 0) [BitVec.ofNat 32 (fld (m.arg 5) 15 0)]).bcastSend m.ctx (c * 65536 + m.ticket)
          (fld h 13 8) [BitVec.ofNat 32 (fld (m.arg 5) 31 16)]).setCmd c { m with phase := 2, sub := 1 })) ∧
      (m.phase = 2 → m.sub = 1 → s.bcastBusy (c * 65536 + m.ticket) = false → ∀ t e,
        s.takeLoad m.ctx r (s.tmplWord a 0).toNat 0 true true = .taken t e → exec (.matrix c) s = .next (t.setCmd c { m with sub := 2, epoch := e })) ∧
      (∀ j x, m.phase = 2 → m.sub = 2 + j → j < fld h 19 16 →
        let w := s.tmplWord a (0x10 + 16 * j)
        let base : Int := fld (m.arg (fld w 26 24)) 59 0
        s.takeIssue m.ctx (fld w 13 0) (fld w 17 16) (fld w 23 20) (some m.epoch) (if fld w 26 24 = 0 then none
          else some ((base + (s.tmplWord a (0x18 + 16 * j)).toInt) % 2 ^ 60).toNat) ⟨64 + c, m.ticket⟩ = .taken x →
        exec (.matrix c) s = .next (x.setCmd c { m with sub := m.sub + 1 })) ∧
      (m.phase = 2 → m.sub = 2 + fld h 19 16 → exec (.matrix c) s = .next ((s.setCmd c { m with sub := 100 }).closeRun m.ctx m.epoch)))

/-- R187, R190, R194, R195, R197, R199: configurations land, tiles switch, bins send end of section, and an abort drains. Rests
also on the model's choices of log entries 12 and 143. -/
def Obligations.SectionRowsComplete : Prop :=
  ∀ (s : State) (p : Fin 16) (i : Fin 33792) (u : Fin 16896),
    let x := s.plot p
    (∀ e xs j (ecc : Ecc), (s.tile i).incoming = e :: xs → s.plotOf i = some p.val → (s.tile i).shadow = none → (s.tile i).cfgLeft = [] →
      (i.val % 2 = 1 ∨ mget dNat s.chf.tests (i / 2) = 0) → ringGrant s.cfgRing s.arr.cfgPtr s.cfgAsks = some j →
      (s.cfgRing[j]? = some p.val → (∀ g, ecc ≠ .lasting g) → Gives (.shadowLoadComplete i ecc) s fun t =>
        (t.tile i).shadow = some (if e.2 then { e.1 with cfg := (s.tile i).active } else e.1) ∧ (t.tile i).incoming = xs ∧
          (t.tile i).active = (s.tile i).active ∧ (∀ j, j ≠ i.val → t.tile j = s.tile j) ∧ t.arr.cfgPtr = (j + 1) % s.cfgRing.length ∧
          t.mem = s.mem ∧ (ecc = .clean → t.csr = s.csr)) ∧
      (s.cfgRing[j]? ≠ some p.val → s.rdF .SEED_CTL 0 0 8 8 = 1 → i.val % 2 = 1 → e.1.cfg.record ≠ [] →
        exec (.shadowLoadComplete i ecc) s = .next (s.setTile i { s.tile i with cfgLeft := List.range 8 }))) ∧
    (∀ sh, s.plotOf i = some p.val → (s.tile i).shadow = some sh → s.shadowArmed p i = true → s.tileDone i = true → s.preHeld p i = false →
      s.pwrHeld p i = false → Gives (.tileSwitch i) s fun t =>
        (t.tile i).active = sh.cfg ∧ (t.tile i).epoch = sh.epoch ∧ (t.tile i).shadow = none ∧ (t.tile i).eosDone = [] ∧ (t.tile i).eosSent = [] ∧
          (∀ o, o < 18 → t.rdF .LNK_CRED i o 5 0 = lget sh.cfg.depth o 0 % 64) ∧ ∀ j, j ≠ i.val → t.tile j = s.tile j) ∧
    (s.plotOf i = some p.val → s.cfgWaits p i = true → exec (.tileSwitch i) s = .next (s.inc .SEED_PLOT_CFGWAIT p 0 1)) ∧
    (∀ r, x.runs.find? (fun r => decide (r.status ≠ 0)) = some r → (∀ j ∈ s.plotTiles p, (s.tile j).aborting = true → s.tileDrained j = true) →
      ∃ a, exec (.abortDrainComplete p) s = .next (State.complete a r.cmd r.epoch.toNat r.status none) ∧
        (a.plot p).runs = x.runs.filter (fun q => decide (q.epoch ≠ r.epoch)) ∧
        ∀ j ∈ s.plotTiles p, (s.tile j).aborting = true → (a.tile j).drained = true) ∧
    (s.plotOf (muInst u) = some p.val → (s.tile (muInst u)).aborting = false →
      (∃ r ∈ x.runs, r.epoch = (s.tile (muInst u)).epoch ∧ r.closed = true) → Gives (.binSendEos u) s fun t => ∀ o, o < 18 →
        let k := s.tile (muInst u)
        let src := s.osel (muInst u) o
        let reads := src = 0x10 ∧ s.readPending u o = false ∧ o ∉ k.eosSent ∧ 0 < s.credits (muInst u) o
        let injects := src = 0x14 ∧ k.queue 34 = [] ∧ injectDone ∉ k.eosSent ∧ s.canSend (muInst u) 0x14 = true
        if reads ∨ injects then
          (if src = 0x10 then o else injectDone) ∈ (t.tile (muInst u)).eosSent ∧ t.credits (muInst u) o = s.credits (muInst u) o - 1 ∧
            ∃ y, mget dNil (t.tile (muInst u)).flight o = mget dNil k.flight o ++ [y] ∧ y.pay = .eos ∧ y.ep = k.ep
        else mget dNil (t.tile (muInst u)).flight o = mget dNil k.flight o ∧ t.credits (muInst u) o = s.credits (muInst u) o)

/-- R200 to R202, R207 to R212, R215: bounds, remaps, pre-emption and interference windows. Rests also on the model's choices of
log entries 61, 63, 64 and 123. -/
def Obligations.PlotRowsComplete : Prop :=
  ∀ (s : State) (w : Agent) (p : Fin 16) (v : BitVec 64),
    let x := s.plot p
    let go := fun (op : Nat) => setFld (setFld v 63 63 1) 59 58 op
    (Allowed s w .SEED_PLOT_BOUNDS p 0 → s.hasp.wrq = [] → s.boundsBad p v = false →
      (s.boundsHeld p v = false → Gives (.seedPlotBoundsWrite w p v) s fun t =>
        t.rd .SEED_PLOT_BOUNDS p 0 = v ∧ t.rstat = 0 ∧ ∀ q, q < 16 → q ≠ p.val → t.rd .SEED_PLOT_BOUNDS q 0 = s.rd .SEED_PLOT_BOUNDS q 0) ∧
      (s.boundsHeld p v = true → x.runs ≠ [] → exec (.seedPlotBoundsWrite w p v) s = .next
        (((okStat s).setHasp { s.hasp with wrq := [⟨Reg.idx .SEED_PLOT_BOUNDS, p, 0, v, BitVec.allOnes 64, writerOf w⟩] }).abortAll p 2))) ∧
    (Allowed s w .SEED_PLOT_PREEMPT p 0 → (s.rd .SEED_PLOT_PREEMPT p 0).getLsbD 63 = false →
      exec (.preemptSave w p v) s = .next (((okStat s).wr .SEED_PLOT_PREEMPT p 0 (go 1 &&& 0x8C000000FFFFFFFF)).preSave p (fld v 31 0)) ∧
      exec (.preemptRestore w p v) s = .next (((okStat s).wr .SEED_PLOT_PREEMPT p 0 (go 2 &&& 0x8C000000FFFFFFFF)).preRestore p)) ∧
    (Allowed s w .SEED_PLOT_PREEMPT p 0 → (s.rd .SEED_PLOT_PREEMPT p 0).getLsbD 63 = true → x.pre = 1 → x.preStat = 0 →
      Gives (.preemptWithdraw w p v) s fun t => (t.plot p).pre = 0 ∧ (t.plot p).bound = none ∧ (t.rd .SEED_PLOT_PREEMPT p 0).getLsbD 63 = false ∧
        t.mem = s.mem ∧ t.cores = s.cores) ∧
    (Allowed s w .SEED_LOAD_FAULT 0 0 → exec (.seedLoadFaultClear w) s = .next ((okStat s).wr .SEED_LOAD_FAULT 0 0 0)) ∧
    (x.remapPending = true → x.preStat = 0 → x.ended = none → x.forced = false → Gives (.remapForced p) s fun t =>
      (t.plot p).forced = true ∧ (t.plot p).pstatus = 0x0404 ∧ (t.plot p).bound = none) ∧
    ((∀ q, q < 16 → s.remapReady q = true) → s.remapTarget ≠ s.rd .SEED_REMAP 0 0 → Gives .remapApply s fun t =>
      t.rd .SEED_REMAP 0 0 = s.remapTarget ∧ ∀ q, q < 16 → (t.plot q).remapPending = false ∧
        ((s.plot q).remapPending = true → (t.plot q).remapped = true ∧ (t.plot q).forced = false)) ∧
    (∀ r, x.ended = some r →
      x.preStat = 0 → (∀ j ∈ s.plotTiles p, (s.tile j).epoch = r.epoch ∧ s.tileDone j = true ∧
        (j % 2 = 1 → ∀ g, g < 4 → (s.gen (j / 2) g).reqs = [])) →
      let a := s.discardShadows p
      ∀ d, a.readRanges r.live = some d → ∀ b,
        let img := saveImage (saveHeader p (r.cp - 1) r.secId r.epoch d.length) (if r.kLive then a.kBank p else []) d
        img.length ≤ a.areaSize p → a.put (.plot p) (a.areaBase p) img false = .ok b → Gives (.plotHeldSave p) s fun t =>
          t.mem = b.mem ∧ (t.plot p).preStat = 5 ∧ (t.plot p).sheaf = r.sheaf ∧ (t.plot p).pre = if x.pre = 1 then 2 else 0) ∧
    (x.preStat = 5 → Gives (.saveComplete p) s fun t => (t.plot p).preStat = 6 ∧ (t.plot p).pre = 0 ∧ (t.plot p).bound = none ∧
      (t.plot p).pstatus = 0 ∧ (x.pre = 2 → t.rdF .SEED_PLOT_PREEMPT p 0 63 63 = 0)) ∧
    (x.preStat = 7 → ∀ rs kb d, s.areaContent p = some (rs, kb, d) → Gives (.restoreComplete p) s fun t =>
      t.mem = (s.writeRanges rs d).mem ∧ (t.plot p).preStat = 0 ∧ (t.plot p).pre = 0 ∧ (t.plot p).pstatus = 0 ∧
        t.rdF .SEED_PLOT_PREEMPT p 0 63 63 = 0) ∧
    (x.preStat = 7 → s.areaContent p = none → exec (.restoreComplete p) s = .next (s.preEnd p 0x0405)) ∧
    (x.pre = 1 → x.deadline ≠ 0 → x.preStat = 0 → x.ended = none → ∃ a, exec (.preemptForced p) s = .next
      (State.raise ((s.preEnd p 0x0403).abortAll p 0x0201) a) ∧ a.code = 0x0403 ∧ a.sev = 1) ∧
    (Gives .interferenceWindowEnd s fun t =>
      let d := fun (r : Reg) (k : Nat) => (s.rd r p 0).toNat - mget dNat x.intf k
      let ppm := fun (r : Reg) (k : Nat) => (if d .SEED_PLOT_RUNCYC 0 = 0 then 0 else d r k * 1000000 / d .SEED_PLOT_RUNCYC 0) % 2 ^ 20
      t.rdF .SEED_PLOT_PPM0 p 0 19 0 = ppm .SEED_PLOT_STALL_SILO 1 ∧ t.rdF .SEED_PLOT_PPM0 p 0 39 20 = ppm .SEED_PLOT_STALL_CWY 2 ∧
        t.rdF .SEED_PLOT_PPM0 p 0 59 40 = ppm .SEED_PLOT_STALL_GRN 3 ∧ t.rdF .SEED_PLOT_PPM1 p 0 19 0 = ppm .SEED_PLOT_STALL_HAY 4 ∧
        t.rdF .SEED_PLOT_PPM1 p 0 39 20 = ppm .SEED_PLOT_STALL_WIN 5 ∧ t.mem = s.mem ∧ t.cores = s.cores)

/-! ### Bins -/

/-- R107 to R109, R111 to R113, R115, R119, R120, R126, R131, R135, R140: streams advance, elements move between banks and links,
epochs and faults. An element is loaded from, or stored to, its bytes of the bin, tail bytes apart; it leaves with its beat; a visit
ends with its tag set; a generator that loses its bank, or lacks credit, waits. Rests also on the model's choices of log entries
12 and 125. R123: cancelling discards what the generator holds, advances its epoch, and leaves its requests outstanding, to be discarded
when they answer. -/
def Obligations.StreamRowsComplete : Prop :=
  (∀ (s : State) (u : Fin 16896) (g : Fin 4) (p : Fin 16) (x : Stream) (rivals : List BankReq),
     let k := s.gen u g
     let d : Desc := x.desc
     let b := d.binByte x.pos
     let i := muInst u
     let v := s.slotAt u (b / 64)
     let last := x.pos + 1 = d.total
     let nxt := s.slotAt u (d.binByte (x.pos + 1) / 64)
     let bs := x.packB ++ readBytes d x.pos (s.load .bin (u * 0x40000 + b) d.esize)
     let vb := if x.packBad then x.packV else x.packV + validBytes d x.pos
     let leaves := d.scalar = true ∨ x.packB.length + d.esize = 64 ∨ d.runEnd x.pos = true ∨ last
     let beat := match x.taken with
       | some (bt, n) => (natToBytes 64 bt.toNat, n)
       | none => payloadBytes d (((s.tile i).head (21 + d.dir + (if d.scalar then 4 else 0))).getD .eos)
     let used := if x.taken = none then 0 else x.packV
     let writes := used < beat.2 ∧ ∃ j, j < d.esize ∧ d.tailByte x.pos j = false
     let moves := k.active = some x ∧ (s.tile i).aborting = false ∧ s.throttled = false ∧ x.pos < d.total
     (k.active = none → k.queued = some x → exec (.streamActivate u g) s = .next
       (s.setGen u g { k with active := some x, queued := none, st := 1, ttl := 0 })) ∧
     (moves → d.kind = 0 → (leaves → s.canRead u d = true) → d.whole x.pos = false → s.tagCheck u v false = .go →
       s.bankWins u (bankOf b) g rivals = true → (∀ q, q < d.esize / 4 → mget dFalse s.mem.pBin (u * 0x10000 + b / 4 + q) = false) →
       Gives (.readElement u g .clean rivals) s fun t => t.mem = s.mem ∧
         (¬ last → ∃ y, (t.gen u g).active = some y ∧ y.desc = x.desc ∧ y.pos = x.pos + 1 ∧ (leaves → y.packB = [] ∧ y.packV = 0) ∧
           (¬ leaves → y.packB = bs ∧ y.packV = vb)) ∧
         (last → (t.gen u g).active = none) ∧
         (v ≠ 0 → (last ∨ nxt ≠ v) → 2 ≤ (s.buf u (visitBuf v)).mode → t.tag u v = false) ∧
         (¬ leaves → ∀ o, mget dNil (t.tile i).flight o = mget dNil (s.tile i).flight o) ∧
         (leaves → ∃ z, mget dNil (t.tile i).flight d.out = mget dNil (s.tile i).flight d.out ++ [z] ∧
           z.pay = if d.scalar then .scalar (BitVec.ofNat 32 (bytesToNat bs)) else .beat (BitVec.ofNat 512 (bytesToNat bs)) (validCount d.pw vb))) ∧
     (moves → d.kind = 0 → d.whole x.pos = false → (leaves → s.canRead u d = true) → s.tagCheck u v false = .go →
       s.bankWins u (bankOf b) g rivals = false → ∀ e, exec (.readElement u g e rivals) s = .next (s.bankLoss u g (bankOf b))) ∧
     (moves → d.kind = 1 → (x.taken ≠ none ∨ (s.tile i).headData (21 + d.dir + (if d.scalar then 4 else 0)) = true) →
       (writes → s.tagCheck u v true = .go ∧ s.bankWins u (bankOf b) g rivals = true) →
       Gives (.writeElement u g rivals) s fun t =>
         (¬ last → ∃ y, (t.gen u g).active = some y ∧ y.desc = x.desc ∧ y.pos = x.pos + 1 ∧
           (d.scalar = true ∨ 64 ≤ used + d.esize ∨ d.runEnd x.pos = true → y.taken = none)) ∧
         (last → (t.gen u g).active = none) ∧
         (v ≠ 0 → (last ∨ nxt ≠ v) → 2 ≤ (s.buf u (visitBuf v)).mode → t.tag u v = true) ∧
         ∀ sp a, t.byteAt sp a =
           let j := a - (u * 0x40000 + b)
           if sp = .bin ∧ u * 0x40000 + b ≤ a ∧ j < d.esize ∧ used < beat.2 ∧ d.tailByte x.pos j = false then lget beat.1 (used + j) 0
           else s.byteAt sp a) ∧
     ((∀ r ∈ k.reqs, (k.epoch - r.epoch).toNat < 4) → exec (.epochReuseRelease u g) s = .next
       ((s.setGen u g { k with reuse := false }).enterHeldGen u (s.tile i).epoch g)) ∧
     (k.st = 2 → s.slotLimit u ≤ k.ttl → exec (.slotTimeout u g) s = .next
       ((s.setGen u g { k with st := 6, ttl := 0 }).taskFault i 0x0202 (errRec 0x0202 sevTransient 1 u 0))) ∧
     (∀ f fs, (s.plot p).faults = f :: fs → exec (.taskAbort p) s = .next
       ((s.setPlot p { s.plot p with faults := fs }).abortRun p (BitVec.ofNat 8 f) (f / 256)))) ∧
  (∀ (s : State) (u g status : Nat),
     let k := s.gen u g
     let t := s.cancelGen u g status
     (t.gen u g).active = none ∧ (t.gen u g).queued = none ∧ (t.gen u g).epoch = k.epoch + 1 ∧ (t.gen u g).reqs = k.reqs ∧
       ((t.gen u g).reuse = (k.reuse || k.reqs.any fun r => decide (4 ≤ (k.epoch + 1 - r.epoch).toNat))) ∧ t.mem = s.mem ∧
       (∀ h, h ≠ g → t.gen u h = s.gen u h) ∧ (∀ v h, v ≠ u → t.gen v h = s.gen v h) ∧ ∀ i, t.tile i = s.tile i)

/-- R107, R108, R116, R117, R120, R124, R128, R130: FETCH requests and their responses, FLUSH writes and their acknowledgements.
Rests also on the model's choices of log entries 125, 137 and 159. -/
def Obligations.FetchAndFlushRowsComplete : Prop :=
  ∀ (s : State) (u : Fin 16896) (g : Fin 4) (x : Stream) (req : Nat) (e : Byte) (r : BinReq) (res : Resp) (rivals : List BankReq),
    let k := s.gen u g
    let d : Desc := x.desc
    let i := muInst u
    let plot := Who.plot (s.streamPlot u)
    let ga := d.globalAddr x.pos
    let la := ga % 2 ^ 48
    let v := s.ringVisit u d.buf true
    let dest := s.visitWord u v * 64 + x.vbytes
    let n := mergeCount d x.pos (s.slotBytes u d.buf - x.vbytes)
    let len := (n - 1) * d.esize + d.realLen (x.pos + n - 1)
    let fetches := k.active = some x ∧ d.kind = 2 ∧ (s.tile i).aborting = false ∧ x.pos < d.total ∧
      (x.visit ≠ 0 ∨ s.tagCheck u v true = .go)
    let asked := fun (t : State) (m : Nat) => (t.gen u g).reqs = k.reqs ++ [⟨m, k.epoch, ga, len, dest, v, false, x.pos, n, [], 0, none⟩] ∧
      (∃ y, (t.gen u g).active = some y ∧ y.pos = x.pos + n ∧ y.desc = x.desc) ∧ (t.mu u).nextReq = m + 1
    let found := k.reqs.find? (fun q => decide (q.id = req ∧ q.epoch = e ∧ q.data = [])) = some r
    let brings := fun (bs : List Byte) => r.answer res = .data bs ∨ (r.answer res = .ok ∧ r.addr / 2 ^ 48 = s.chip ∧
      s.streamWindow u r.addr r.len false = none ∧ ∃ l, s.locate plot (r.addr % 2 ^ 48) r.len = .ok l ∧
        s.media (r.addr % 2 ^ 48) l r.len false = 0 ∧ bs = s.readLoc (r.addr % 2 ^ 48) l r.len)
    let src := s.visitWord u (s.ringVisit u d.buf false) * 64 + x.vbytes
    let runs := runsOf ((List.range d.esize).filter fun j => !d.tailByte x.pos j)
    let sent := k.reqs.find? (fun q => decide (q.id = req ∧ q.epoch = e ∧ q.data ≠ [])) = some r
    (fetches → d.whole x.pos = false → k.reqs.length < 1024 → ga / 2 ^ 48 = s.chip → ∀ l, s.resolve plot la len false false true = .ok l →
      Gives (.fetchRequest u g) s fun t => asked t (s.mu u).nextReq ∧
        t.rd .MU_FETCH_REQ_BYTES u 0 = s.rd .MU_FETCH_REQ_BYTES u 0 + BitVec.ofNat 64 len ∧ t.mem = s.mem) ∧
    (fetches → d.whole x.pos = false → k.reqs.length < 1024 → ga / 2 ^ 48 ≠ s.chip →
      ∀ s0, s.gwSend (s.streamPlot u) u g (s.mu u).nextReq ga len none = .ok (some s0) →
        Gives (.fetchRequest u g) s fun t => asked t (s0.mu u).nextReq ∧ t.mem = s0.mem) ∧
    (fetches → d.whole x.pos = true → Gives (.fetchRequest u g) s fun t => (x.pos + 1 < d.total → ∃ y, (t.gen u g).active = some y ∧
      y.pos = x.pos + 1) ∧ ∀ sp a, t.byteAt sp a = if sp = .bin ∧ u * 0x40000 + dest ≤ a ∧ a < u * 0x40000 + dest + d.esize then 0
        else s.byteAt sp a) ∧
    (found → e ≠ k.epoch → ∀ bs, r.answer res = .data bs →
      exec (.fetchResponse u g req e res rivals) s = .next ((s.dropReq u g req).inc .MU_DISCARD_BYTES u 0 r.len)) ∧
    (found → e = k.epoch → k.active = some x → r.repeated = false → ∀ bs, brings bs →
      (∀ b ∈ banksOf r.dest (r.n * d.esize), s.bankWins u b 4 rivals = true) →
      Gives (.fetchResponse u g req e res rivals) s fun t => (∀ sp a, t.byteAt sp a =
        let o := a - (u * 0x40000 + r.dest)
        if sp = .bin ∧ u * 0x40000 + r.dest ≤ a ∧ o < r.n * d.esize
          then (if d.tailByte (r.k0 + o / d.esize) (o % d.esize) then 0 else lget bs o 0) else s.byteAt sp a) ∧
        (t.gen u g).reqs = k.reqs.filter (fun q => decide (q.id ≠ req)) ∧
        t.rd .MU_FETCH_LAND_BYTES u 0 = s.rd .MU_FETCH_LAND_BYTES u 0 + BitVec.ofNat 64 r.len) ∧
    (found → e = k.epoch → k.active = some x → ∀ bs b, brings bs →
      (banksOf r.dest (r.n * d.esize)).find? (fun c => !s.bankWins u c 4 rivals) = some b →
      exec (.fetchResponse u g req e res rivals) s = .next (s.inc .MU_CONFLICT u b 1)) ∧
    (found → e = k.epoch → r.answer res = .error → r.repeated = false →
      exec (.fetchResponse u g req e res rivals) s = .next (s.repeatReq u g r)) ∧
    (found → e = k.epoch → r.answer res = .error → r.repeated = true →
      exec (.fetchResponse u g req e res rivals) s = .next ((s.reqFailed u g r 0x0201 sevLasting).siloRepair r sevLasting)) ∧
    (k.active = some x → d.kind = 3 → (s.tile i).aborting = false → s.throttled = false → x.pos < d.total →
      (x.visit ≠ 0 ∨ s.tagCheck u (s.ringVisit u d.buf false) false = .go) → k.reqs.length + runs.length ≤ 1024 →
      s.bankWins u (bankOf src) g rivals = true → ga / 2 ^ 48 = s.chip → la + d.esize ≤ 0xA000000000 →
      (∀ q, q < d.esize / 4 → mget dFalse s.mem.pBin (u * 0x10000 + src / 4 + q) = false) →
      (∀ p ∈ runs, s.siloOk plot (la + p.1) p.2 true false = true ∧ s.media (la + p.1) (.silo (la + p.1)) p.2 true = 0) →
      Gives (.flushWrite u g .clean rivals) s fun t => (∀ sp b, t.byteAt sp b =
        if sp = .silo ∧ la ≤ b ∧ b < la + d.esize ∧ d.tailByte x.pos (b - la) = false then s.byteAt .bin (u * 0x40000 + src + (b - la))
        else s.byteAt sp b) ∧ (t.gen u g).reqs.length = k.reqs.length + runs.length ∧
        (x.pos + 1 < d.total → ∃ y, (t.gen u g).active = some y ∧ y.pos = x.pos + 1)) ∧
    (sent → e ≠ k.epoch → exec (.flushAck u g req e res) s = .next (s.dropReq u g req)) ∧
    (sent → e = k.epoch → r.repeated = false → r.nack = 0 → r.answer res = .ok →
      exec (.flushAck u g req e res) s = .next ((s.dropReq u g req).reapVisits u g false)) ∧
    (sent → e = k.epoch → r.repeated = false → r.nack = 0 → r.answer res = .error →
      exec (.flushAck u g req e res) s = .next (s.repeatReq u g r)) ∧
    (sent → e = k.epoch → r.nack = 0 → ∀ st, r.answer res = .refused st →
      exec (.flushAck u g req e res) s = .next (s.reqFailed u g r st.toNat sevTransient))

/-- R144 to R147, Table 04.12: the checks of a remote window, in order, and what an access, a close and a cleared fault do. R151 to R155, R164 to R170: transfers, credits, joins and tokens. A transfer waits while a unit on its way, or at its end, stands in another epoch (R196). -/
def Obligations.RemoteWindowAndLinkRowsComplete : Prop :=
  (∀ (s : State) (w : Agent) (u : Fin 16896) (q : Sender) (n : Fin 8) (gen : BitVec 16) (off : BitVec 18) (bs : List Byte) (k : Nat) (rv : List BankReq),
     let x := s.rd .MU_WIN u n
     let inside := fun (len : Nat) => fld x 11 0 * 64 ≤ off.toNat ∧ off.toNat + len ≤ (fld x 11 0 + fld x 27 16 + 1) * 64
     let open_ := s.senderOk u q = true ∧ x.getLsbD 63 = true ∧ gen.toNat = fld x 47 32
     (open_ → inside bs.length → x.getLsbD 62 = true → exec (.remoteWindowAccess u q n gen off (.write bs) rv) s = .next
       { s.setMu u { s.mu u with wins := (s.mu u).wins ++ [⟨n, off.toNat, bs⟩] } with rstat := 0 }) ∧
     (open_ → inside k → x.getLsbD 61 = true → k ≤ 8 → (∀ b ∈ banksOf off.toNat k, s.bankWins u b 5 rv = true) →
       Gives (.remoteWindowAccess u q n gen off (.read k) rv) s fun t => t.rstat = 0 ∧
       t.rdata = BitVec.ofNat 64 (bytesToNat (s.load .bin (u * 0x40000 + off.toNat) k)) ∧ t.mem = s.mem ∧ t.csr = s.csr) ∧
     (open_ → inside k → x.getLsbD 61 = true → ∀ b, (banksOf off.toNat k).find? (fun c => !s.bankWins u c 5 rv) = some b →
       exec (.remoteWindowAccess u q n gen off (.read k) rv) s = .next (s.inc .MU_CONFLICT u b 1)) ∧
     (∀ (acc : WinAcc) (len : Nat) (perm : Bool), (acc = .write bs ∧ len = bs.length ∧ perm = x.getLsbD 62) ∨
         (acc = .read k ∧ len = k ∧ perm = x.getLsbD 61) →
       (s.senderOk u q = true → (x.getLsbD 63 = false ∨ gen.toNat ≠ fld x 47 32 ∨ ¬ inside len) →
         exec (.remoteWindowAccess u q n gen off acc rv) s = .next { s.inc .MU_WIN_NACKS u 0 1 with rstat := 0x0204, rdata := 0 }) ∧
       ((s.senderOk u q = false ∨ (open_ ∧ inside len ∧ perm = false)) → exec (.remoteWindowAccess u q n gen off acc rv) s = .next
         ({ s.inc .MU_WIN_NACKS u 0 1 with rstat := stProt, rdata := 0 }.raiseProt 1 u (s.binAddr u off.toNat)))) ∧
     (Allowed s w .MU_WIN u n → x.getLsbD 63 = true → Gives (.windowClose w u n) s fun t =>
       (t.rd .MU_WIN u n).getLsbD 63 = false ∧ t.rdF .MU_WIN u n 47 32 = (fld x 47 32 + 1) % 65536 ∧ (t.mu u).closing = (s.mu u).closing ++ [⟨n.val, writerOf w⟩] ∧
         t.mem = s.mem) ∧
     (∀ b, (s.mu u).wins = [⟨n, off.toNat, bs⟩] → (s.mu u).closing = [⟨n.val, b⟩] → Gives (.windowCloseComplete u n) s fun t =>
       (t.mu u).wins = [] ∧ (t.mu u).closing = [] ∧ ∀ sp a, t.byteAt sp a =
         if sp = .bin ∧ u * 0x40000 + off.toNat ≤ a ∧ a < u * 0x40000 + off.toNat + bs.length then lget bs (a - (u * 0x40000 + off.toNat)) 0
         else s.byteAt sp a) ∧
     (Allowed s w .MU_SLOTFAULT u 0 → exec (.muSlotfaultClear w u) s = .next ((okStat s).wr .MU_SLOTFAULT u 0 0))) ∧
  (∀ (s : State) (i : Fin 33792) (o : Fin 18) (j : Fin 2),
     let t := s.tile i
     let dq := 30 + 2 * j.val
     (∀ x xs e q thru toks, mget dNil t.flight o = x :: xs → s.routeOf i o = ⟨[(e, q)], toks, thru⟩ → (s.tile e).aborting = false →
       (s.tile e).ep = x.ep → (∀ h ∈ thru, (s.tile h.1).ep = x.ep) → x.pay ≠ .eos → (∀ p, s.plotOf i = some p → (s.plot p).runs = []) →
       Gives (.linkTransfer i o) s fun a =>
         mget dNil (a.tile i).flight o = xs ∧ mget dNat (a.tile i).owed x.seq = 1 ∧ (a.tile e).queue q = (s.tile e).queue q ++
           [{ x with pay := if (e, q) ∈ toks ∨ q = 17 ∨ q = 31 ∨ q = 33 then x.pay.asToken else x.pay }] ∧
           ∀ k, k ≠ i.val → k ≠ e → a.tile k = s.tile k) ∧
     (∀ x xs, mget dNil t.flight o = x :: xs → (∃ h ∈ (s.routeOf i o).thru ++ (s.routeOf i o).ends, (s.tile h.1).ep ≠ x.ep) →
       exec (.linkTransfer i o) s = .next s) ∧
     (0 < mget dNat t.credBack o → t.queue 34 = [] → (∀ p, s.plotOf i = some p → (s.plot p).runs = []) → s.credits i o < 63 →
       Gives (.creditReturn i o) s fun a => mget dNat (a.tile i).credBack o = mget dNat t.credBack o - 1 ∧ a.credits i o = s.credits i o + 1 ∧
         a.mem = s.mem) ∧
     (o.val < 12 → s.onLink i o ≠ [] → exec (.linkResend i o false) s = .next
       ((s.inc .LNK_RETRIES i 0 1).raise (errRec 0x0302 sevTransient 2 i 4))) ∧
     (∀ d k, s.joinEn i j = true → t.aborting = false → t.head dq = some d → d ≠ .eos → t.head (dq + 1) = some (.token k) → k.getLsbD 15 = false →
       k.getLsbD 14 = true → mget dNat t.jcount j < fld k 11 0 → t.queue 34 = [] → Gives (.joinPair i j) s fun a =>
         a.rd .LNK_JOIN_DROPS i j = s.rd .LNK_JOIN_DROPS i j + 1 ∧ a.rd .LNK_JOIN_PAIRS i j = s.rd .LNK_JOIN_PAIRS i j + 1 ∧
           (a.tile i).queue dq = (t.queue dq).tail ∧ (a.tile i).queue (dq + 1) = t.queue (dq + 1) ∧
           mget dNat (a.tile i).jcount j = mget dNat t.jcount j + 1) ∧
     (∀ k, s.joinEn i j = true → t.aborting = false → t.head (dq + 1) = some (.token k) → k.getLsbD 15 = true ∨ t.head dq = some .eos →
       exec (.joinPair i j) s = .next (s.taskFault i 0x0301 (errRec 0x0301 sevTransient 2 i 0))) ∧
     (∀ k, t.head 17 = some (.token k) → k.getLsbD 15 = true → Gives (.signalTokenAtSink i) s fun a =>
       a.rd .LNK_SIGNALS i 0 = s.rd .LNK_SIGNALS i 0 + 1 ∧ a.rd .LNK_LASTSIG i 0 = (k.setWidth 64 &&& 0x7FFF) ∧ (a.tile i).queue 17 = (t.queue 17).tail))

/-! ### Steering, the cartway, crossings -/

/-- R18, R48, R61, R75, R103, R170, R173, R179: tokens from the cartway, packets, crossings, seeds, broadcast values and flags. R155: a send takes one credit of each origin output it leaves on, and no other output's; a send waits unless every one holds a
credit (R160). -/
def Obligations.CartwayRowsComplete : Prop :=
  (∀ (s : State) (u : Fin 16896) (g : Fin 4) (p : Fin 16) (q : Sender) (k : BitVec 16) (path : Fin 17) (node : BitVec 16) (h : BitVec 256)
     (l : List (BitVec 256)) (req : Nat) (r : BinReq),
     let i := muInst u
     let pk : CwPkt := ⟨h, l⟩
     let way := fun inp => hdrBad h = false ∧ s.cwInput h node.toNat = some inp ∧ l.length = hdrFlits h ∧ s.cwBound h = true
     (s.senderOk u q = true → ((s.tile i).queue 34).length < 8 → (s.tile i).aborting = false → s.outputsOf i 0x14 = [] → s.joinQs i 0x14 = [] →
       Gives (.tokenInjection u q k) s fun t =>
         (∃ x, (t.tile i).queue 34 = (s.tile i).queue 34 ++ [x] ∧ x.pay = .token k) ∧ t.csr = s.csr ∧ t.rstat = 0 ∧ ∀ v, v ≠ i → t.tile v = s.tile v) ∧
     (s.senderOk u q = false → exec (.tokenInjection u q k) s = .next { s.raiseProt 1 u (s.binAddr u 0) with rstat := stProt }) ∧
     (hdrBad h = true → isResponse h = true → ∀ corr, Gives (.cartwayPacketArrival node h l corr 0) s fun t =>
       (∀ n, t.cwQueue n = if ∃ inp, s.cwInput h node.toNat = some inp ∧ n = cwKey h node.toNat inp then (s.cwQueue n).erase pk else s.cwQueue n) ∧
         t = { s with arr := { s.arr with cwy := t.arr.cwy } }) ∧
     (∀ inp corr, way inp → node.toNat = hdrSrc h → s.cwRoom (cwKey h node.toNat inp) pk = true → s.cwQueue (cwKey h node.toNat inp) ≠ [] →
       pk ∉ s.cwQueue (cwKey h node.toNat inp) → Gives (.cartwayPacketArrival node h l corr 0) s fun t =>
         ∀ n, t.cwQueue n = if n = cwKey h node.toNat inp then s.cwQueue n ++ [pk] else s.cwQueue n) ∧
     (∀ inp corr rest, way inp → s.cwQueue (cwKey h node.toNat inp) = pk :: rest →
       let out := cwOut (isResponse h) node.toNat (hdrDst h)
       let dst := cwKey h (cwNext node.toNat out) (cwSide out)
       out ≠ 0 → s.cwRoom dst pk = true → s.cwHeads node.toNat (hdrPlane h) (isResponse h).toNat = [(inp, pk)] →
       Gives (.cartwayPacketArrival node h l corr 0) s fun t => t.cwQueue (cwKey h node.toNat inp) = rest ∧ t.cwQueue dst = s.cwQueue dst ++ [pk] ∧
         ∀ n, n ≠ cwKey h node.toNat inp → n ≠ dst → t.cwQueue n = s.cwQueue n) ∧
     (∀ inp corr x rest, way inp → s.cwQueue (cwKey h node.toNat inp) = x :: rest → pk ≠ x → pk ∈ rest →
       Gives (.cartwayPacketArrival node h l corr 0) s fun t => ∀ n, t.cwQueue n = s.cwQueue n) ∧
     ((s.gen u g).reqs.find? (fun x => decide (x.id = req)) = some r → r.epoch = (s.gen u g).epoch → r.repeated = false → r.data = [] →
       r.addr / 2 ^ 48 = s.chip → Gives (.cartwayTimeout u g req) s fun t =>
         (t.gen u g).reqs = (s.gen u g).reqs.filter (fun x => decide (x.id ≠ req)) ++
           [{ r with id := (s.mu u).nextReq, repeated := true, nack := 0, ans := none }] ∧
         t.rd .LNK_CWY_TIMEOUTS 0 0 = s.rd .LNK_CWY_TIMEOUTS 0 0 + 1 ∧ t.mem = s.mem) ∧
     (∀ v x b xs, mget dNil s.arr.cross path = .seed v x b :: xs → Gives (.crossingDelivery path) s fun t =>
       mget dNil t.arr.cross path = xs ∧ mget dNil t.arr.seeds v = mget dNil s.arr.seeds v ++ [x]) ∧
     (∀ c b xs, mget dNil s.arr.cross path = .event c b :: xs → Gives (.crossingDelivery path) s fun t =>
       mget dNil t.arr.cross path = xs ∧ ((t.core c).ccr 4 &&& b) = b) ∧
     (∀ x xs, mget dNil s.arr.seeds u = x :: xs → Gives (.srSeedWrite u false) s fun t => t.rd .CU_SR_SEED u 0 = x.setWidth 64 ∧
       (∀ lane, lane < 16 → (t.cu u).lf lane = if x ^^^ BitVec.ofNat 32 (lane * 0x01010101) = 0 then 1 else x ^^^ BitVec.ofNat 32 (lane * 0x01010101)) ∧
       mget dNil t.arr.seeds u = xs) ∧
     (∀ n v tag xs, mget dNil s.arr.kwr u = .kval u n v tag :: xs → Gives (.broadcastWriteArrival u false) s fun t =>
       mget dW32 (t.cu u).kStg n = v ∧ (t.cu u).kAct = (s.cu u).kAct ∧ mget dNil t.arr.kwr u = xs) ∧
     (∀ a as, (s.plot p).runs = a :: as → a.flagMode = true → a.flagsSeen = false → a.started = true → a.closed = false →
       (∀ j ∈ s.plotTiles p, j % 2 = 0 → (s.tile j).epoch = a.epoch + 1 ∧ (s.tile j).holds a.epoch = false) → Gives (.sectionFlagsVisible p) s fun t =>
         t.rd .SEED_PLOT_FLAGS p 0 = BitVec.ofNat 64 (a.epoch.toNat * 2 ^ 32 + 256 + a.flags.toNat) ∧
           (t.plot p).runs = { a with flagsSeen := true } :: as)) ∧
  (∀ (s : State) (i code : Nat) (p : Payload) (o : Nat), o < 18 →
     let t := s.send i code p
     (s.osel i o = code → s.canSend i code = true → t.credits i o + 1 = s.credits i o ∧
       ∃ x, mget dNil (t.tile i).flight o = mget dNil (s.tile i).flight o ++ [x] ∧ x.ep = (s.tile i).ep ∧ (o < 8 → x.pay = p)) ∧
     (s.osel i o ≠ code → t.credits i o = s.credits i o ∧ mget dNil (t.tile i).flight o = mget dNil (s.tile i).flight o) ∧
     (∀ k, k ≠ i → t.tile k = s.tile k) ∧ t.mem = s.mem ∧ ∀ q, q < 30 → (t.tile i).queue q = (s.tile i).queue q)

/-! ### The hopper -/

/-- R249, R252, R262: enabling, disabling, reassigning, posting a completion and freeing staging slots. Rests also on the
model's choices of log entries 26 and 148. -/
def Obligations.QueuePairControlRowsComplete : Prop :=
  ∀ (s : State) (w : Agent) (q : Fin 16384) (v : BitVec 64),
    let x := s.qp q
    let own := fun (t : State) => ∀ p, p < 16384 → p ≠ q.val → t.qp p = s.qp p ∧ t.qpState p = s.qpState p
    (Allowed s w .HOP_QP_CTL q 0 → s.rdF .HOP_QP_OWNER q 0 63 63 = 1 → s.qpState q = 0 → s.isFatal = false →
      s.qpCfgOk q (s.rd .HOP_QP_CFG q 0) (s.rd .HOP_QP_SQBASE q 0).toNat (s.rd .HOP_QP_CQBASE q 0).toNat = true →
      (s.qpClass q = 1 → s.stageOk q (s.rdF .HOP_QP_STAGEBASE q 0 24 12 * 4096) = true) → Gives (.qpEnable w q) s fun t =>
        t.qpState q = 1 ∧ t.rd .HOP_QP_PTRS q 0 = 0 ∧ t.rdF .HOP_QP_CFG q 0 15 0 = (if x.reassigned then 0x0607 else 0) ∧
          (t.qp q).ents = x.ents.filter (·.det) ∧ (t.qp q).phase = true ∧ t.mem = s.mem ∧ own t) ∧
    (Allowed s w .HOP_QP_CTL q 0 → s.qpState q ≠ 0 → (∀ e ∈ x.ents, 2 ≤ e.st → e.det = true) → Gives (.qpDisable w q) s fun t =>
      t.qpState q = 0 ∧ (∀ e ∈ (t.qp q).ents, e.det = true) ∧ t.mem = s.mem ∧ own t) ∧
    (Allowed s w .HOP_QP_CTL q 0 → s.qpState q ≠ 0 → (∃ e ∈ x.ents, 2 ≤ e.st ∧ e.det = false) → Gives (.qpDisable w q) s fun t =>
      t.qpState q = s.qpState q ∧ (t.qp q).stopping = true ∧ (t.qp q).ents = x.ents.filter (fun e => decide (2 ≤ e.st)) ∧ t.csr = s.csr ∧ own t) ∧
    (Allowed s w .HOP_QP_OWNER q 0 → s.hasp.wrq = [] → fld v 58 56 ≤ 4 → Gives (.qpOwnerWrite w q v) s fun t =>
      t.rd .HOP_QP_OWNER q 0 = v &&& Reg.mask .HOP_QP_OWNER [.RW] ∧ t.mem = s.mem ∧ own t ∧
        (s.qpState q ≠ 0 → (fld v 58 56 ≠ s.qpClass q ∨ fld v 54 48 ≠ s.qpFunc q) → t.qpState q = 0 ∧ (t.qp q).reassigned = true ∧
          ∀ e ∈ (t.qp q).ents, e.det = true)) ∧
    (∀ e, Allowed s w .HOP_QP_CPOST1 q 0 → x.ents.find? (fun e => decide (e.st = 2 ∧ e.cls = 1 ∧ e.cid = fld v 15 0)) = some e →
      exec (.cpost w q v) s = .next ((okStat s).qpFinish q e.id (fld v 31 16) (s.rd .HOP_QP_CPOST0 q 0).toNat)) ∧
    (Allowed s w .HOP_QP_STAGEHEAD q 0 → Gives (.stageheadWrite w q v) s fun t => t.rdF .HOP_QP_STAGEHEAD q 0 5 0 = fld v 5 0 ∧
      (t.qp q).stUsed = x.stUsed - (fld v 5 0 + 64 - s.rdF .HOP_QP_STAGEHEAD q 0 5 0) % 64 ∧ (t.qp q).ents = x.ents ∧ t.mem = s.mem)

/-- R253, R254, R277, R555: an index that a doorbell may take moves its pointer; one that it may not puts the queue pair or ring in
error with DOORBELL_BAD (0x0602); a doorbell to a queue pair that is not ACTIVE only counts. Rests also on the model's choices
of log entries 19, 20 and 129. -/
def Obligations.DoorbellRowsComplete : Prop :=
  ∀ (s : State) (w : Agent) (f : Fin 128) (q : Fin 16384) (r : Fin 64) (i : BitVec 16),
    let n := s.sqSize q
    let m := s.cqSize q
    let new := (i.toNat + n - s.sqTail q % n) % n
    let used := (s.sqTail q + n - s.sqHead q % n) % n
    let live := s.qpVisible f q = true ∧ s.qpState q = 1 ∧ (s.qp q).stopping = false ∧ s.isFatal = false ∧ s.isReady = true
    let N := s.ringSize .pm r
    let p := s.rd .SILO_PMQ_PTRS r 0
    (live → s.pwr.idle ≠ 2 → i.toNat < n → new + used + 1 ≤ n → exec (.sqTail f q i) s = .next (s.wrF .HOP_QP_PTRS q 0 31 16 i.toNat)) ∧
    (live → (n ≤ i.toNat ∨ n < new + used + 1) → Gives (.sqTail f q i) s fun t => t.qpState q = 2 ∧ t.rdF .HOP_QP_CFG q 0 15 0 = 0x0602 ∧
      t.rd .HOP_QP_PTRS q 0 = s.rd .HOP_QP_PTRS q 0) ∧
    (live → s.pwr.idle ≠ 2 → i.toNat < m → (i.toNat + m - s.cqHead q % m) % m ≤ (s.cqTail q + m - s.cqHead q % m) % m →
      exec (.cqHead f q i) s = .next (s.wrF .HOP_QP_PTRS q 0 63 48 i.toNat)) ∧
    (live → (m ≤ i.toNat ∨ (s.cqTail q + m - s.cqHead q % m) % m < (i.toNat + m - s.cqHead q % m) % m) → Gives (.cqHead f q i) s fun t =>
      t.qpState q = 2 ∧ t.rdF .HOP_QP_CFG q 0 15 0 = 0x0602) ∧
    (s.qpVisible f q = true → s.qpState q ≠ 1 → exec (.sqTail f q i) s = .next (s.inc .HOP_QP_DBIGNORE q 0 1) ∧
      exec (.cqHead f q i) s = .next (s.inc .HOP_QP_DBIGNORE q 0 1)) ∧
    (Allowed s w .SILO_PMQ_DB r 0 → s.ringOn .pm r = true → i.toNat < N → ringDist i.toNat (fld p 31 16) N + ringDist (fld p 31 16) (fld p 15 0) N + 1 ≤ N →
      exec (.pmqTailDoorbell w r i) s = .next ((okStat s).wrF .SILO_PMQ_PTRS r 0 31 16 i.toNat)) ∧
    (Allowed s w .SILO_PMQ_DB r 0 → s.ringOn .pm r = true → i.toNat < N → ringDist i.toNat (fld p 63 48) N ≤ ringDist (fld p 47 32) (fld p 63 48) N →
      exec (.pmqHeadDoorbell w r i) s = .next ((okStat s).wrF .SILO_PMQ_PTRS r 0 63 48 i.toNat)) ∧
    (Allowed s w .SILO_PMQ_DB r 0 → s.ringOn .pm r = true → N ≤ i.toNat →
      ∀ c ∈ [Instr.pmqTailDoorbell w r i, .pmqHeadDoorbell w r i], exec c s = .next ((okStat s).wrF .SILO_PMQ_ERR r 0 15 0 0x0602)) ∧
    (∀ k : Fin 16, ∀ c ∈ ([(.winRingDoorbell w k (i.setWidth 64), .win, .WIN_Q_DB, .WIN_Q_PTRS), (.hayRingDoorbell w k (i.setWidth 64), .hay, .HAY_Q_DB, .HAY_Q_PTRS)] :
        List (Instr × RingKind × Reg × Reg)), Allowed s w c.2.2.1 k 0 → s.ringOn c.2.1 k = true →
      let M := s.ringSize c.2.1 k
      let z := s.rd c.2.2.2 k 0
      i.toNat < M → ringDist i.toNat (fld z 31 16) M + ringDist (fld z 31 16) (fld z 15 0) M + 1 ≤ M →
        exec c.1 s = .next ((okStat s).wrF c.2.2.2 k 0 31 16 i.toNat))

/-- R247, R249, R250, R252, R256 to R259: grants, entries fetched, staged and refused, completions and interrupts. Rests also on
the model's choices of log entries 23, 24 and 28. -/
def Obligations.FetchAndCompletionRowsComplete : Prop :=
  ∀ (s : State) (q : Fin 16384) (e : QEnt) (bs : List Byte) (good : Bool),
    let x := s.qp q
    let a := (s.rd .HOP_QP_SQBASE q 0).toNat + 64 * s.sqHead q
    (s.hop.live = [q.val] → s.eligible q = true → s.isFatal = false → s.rdF .HOP_LINK 0 0 2 0 ≠ 0 → s.rdF .HOP_LINK 0 0 8 8 = 0 → s.pwr.idle = 0 →
      Gives .fetchGrant s fun t => ∃ es, (t.qp q).ents = x.ents ++ es ∧ es.length = min (s.rdF .HOP_QP_OWNER q 0 2 0 + 1)
        (min (s.qpAvail q) (s.cqSize q - 1 - s.qpHeld q)) ∧ (∀ y ∈ es, y.st = 0 ∧ y.fn = s.qpFunc q ∧ y.cls = s.qpClass q) ∧ t.csr = s.csr ∧ t.mem = s.mem) ∧
    (x.ents.find? (fun e => decide (e.st < 2)) = some e → e.bad = false → s.isFatal = false → s.fetch (.func e.fn) a 64 true = .ok bs →
      x.cut = none → opcOk e.cls (le bs 0 1) = true → e.cls ≠ 1 → (e.cls = 2 → s.holdsModel e.fn (le bs 4 4) = true) → s.sqSize q ≤ 65536 →
      (nbit (le bs 1 1) 0 = false ∨ ∀ y ∈ x.ents, y.st < 2 ∨ y.det = true) → Gives (.entryFetched q) s fun t => t.sqHead q = (s.sqHead q + 1) % s.sqSize q ∧ t.rd .HOP_QP_FETCHED q 0 = s.rd .HOP_QP_FETCHED q 0 + 1 ∧
        (t.qp q).ents = x.ents.map (fun y => if y.id = e.id then { e with bytes := bs, st := 2, head := (s.sqHead q + 1) % s.sqSize q, order := s.hop.no } else y) ∧
        t.mem = s.mem) ∧
    (x.ents.find? (fun e => decide (e.st < 2)) = some e → e.bad = false → e.cls = 1 → s.isFatal = false → s.fetch (.func e.fn) a 64 true = .ok bs →
      x.cut = none → opcOk 1 (le bs 0 1) = true → (nbit (le bs 1 1) 0 = false ∨ ∀ y ∈ x.ents, y.st < 2 ∨ y.det = true) →
      Gives (.entryFetched q) s fun t => (t.qp q).stUsed = x.stUsed + 1 ∧ (t.qp q).stTail = (x.stTail + 1) % 64 ∧
        ((t.core (s.rdF .HOP_QP_OWNER q 0 37 32)).ccr 4 &&& 2) = 2 ∧ ∀ sp b, t.byteAt sp b =
          let o := s.rdF .HOP_QP_STAGEBASE q 0 24 12 * 4096 + 64 * x.stTail
          if sp = .csram ∧ o ≤ b ∧ b < o + 64 then lget bs (b - o) 0 else s.byteAt sp b) ∧
    (x.ents.find? (fun e => decide (e.st < 2)) = some e → e.bad = false → e.det = false → s.isFatal = false →
      s.fetch (.func e.fn) a 64 true = .ok bs → x.cut = none → (nbit (le bs 1 1) 0 = false ∨ ∀ y ∈ x.ents, y.st < 2 ∨ y.det = true) →
      ∀ st, (opcOk e.cls (le bs 0 1) = false ∧ st = 0x0603) ∨
          (opcOk e.cls (le bs 0 1) = true ∧ e.cls = 2 ∧ s.holdsModel e.fn (le bs 4 4) = false ∧ st = 2) →
        Gives (.entryFetched q) s fun t => (∃ y ∈ (t.qp q).ents, y.id = e.id ∧ y.st = 3 ∧ y.status = st) ∧ t.mem = s.mem) ∧
    (s.nextCpl q = some e → ∀ b, (s.setQp q { x with ents := x.ents.filter fun y => decide (y.id ≠ e.id) }).put (.func e.fn)
        ((s.rd .HOP_QP_CQBASE q 0).toNat + 16 * s.cqTail q) (cplBytes e.result e.head e.cid e.status x.phase) true = .ok b → x.cut = none →
      x.stopping = false → s.cqSize q ≤ 65536 → Gives (.completionWrite q) s fun t => t.mem = b.mem ∧ t.cqTail q = (s.cqTail q + 1) % s.cqSize q ∧
        t.rd .HOP_QP_CPL_WRITTEN q 0 = s.rd .HOP_QP_CPL_WRITTEN q 0 + 1 ∧ (t.qp q).ents = x.ents.filter (fun y => decide (y.id ≠ e.id)) ∧
        (t.qp q).phase = if (s.cqTail q + 1) % s.cqSize q = 0 then !x.phase else x.phase) ∧
    (x.pend ≠ 0 → s.rdF .HOP_QP_MOD q 0 9 0 ≠ 0 → s.rdF .HOP_QP_CFG q 0 59 59 = 1 → exec (.interruptTimer q) s = .next
      ((s.setQp q { x with pend := 0, pendErr := false }).sendMsix (s.qpFunc q) (s.rdF .HOP_QP_CFG q 0 58 48))) ∧
    (∀ (f : Fin 128) (v : Fin 1032), v.val < (if f.val = 0 then 1032 else 8) → Gives (.msixVectorUnmask f v) s fun t =>
      mget dFalse t.hop.unmasked (f.val * 2048 + v.val) = true ∧ mget dFalse t.hop.pba (f.val * 2048 + v.val) = false ∧ t.csr = s.csr ∧
        (mget dFalse s.hop.pba (f.val * 2048 + v.val) = true → s.rdF .HOP_LINK 0 0 2 0 ≠ 0 →
          mget dNat t.hop.sent (f.val * 2048 + v.val) = mget dNat s.hop.sent (f.val * 2048 + v.val) + 1)) ∧
    (s.hostReader q = some e → e.bad = false → exec (.hostMemoryReadResponse (.queue q) good) s = .next
      (s.setEnt q (if good then { e with st := if e.st = 0 then 1 else e.st } else { e with bad := true })) ∧
      exec (.pcieCompletionTimeout (.queue q)) s = .next (s.setEnt q { e with bad := true })) ∧
    (s.hostReader q = some e → e.bad = true → e.st = 0 → s.qpState q = 1 → Gives (.pcieCompletionTimeout (.queue q)) s fun t =>
      t.qpState q = 2 ∧ t.rdF .HOP_QP_CFG q 0 15 0 = 0x0606) ∧
    (∀ p, Gives (.hostMemoryReadResponse (.page p) good) s (fun t => mget dNat t.hop.hostBad p =
        (if good then 0 else max (mget dNat s.hop.hostBad p) (min 2 (mget dNat s.hop.hostBad p + 1))) ∧ t.mem = s.mem ∧ t.csr = s.csr) ∧
      exec (.pcieCompletionTimeout (.page p)) s = exec (.hostMemoryReadResponse (.page p) false) s)

/-- R250: the admin and bulk commands: their effect, and their status with the entry. Rests also on the model's choices of log
entries 18, 25, 65, 66 and 67. -/
def Obligations.AdminAndBulkCommandsComplete : Prop :=
  ∀ (s : State) (q : Fin 16384) (e : QEnt),
    let t := e.arg 0 % 16384
    let cfg : Word := BitVec.ofNat 64 (e.arg 3)
    let done := fun (a : State) (st res : Nat) => a.qpFinish q e.id st res
    (s.entFirst q 1 = some e → e.cls = 0 → s.adminOwns e t = true → s.qpState t = 0 → s.qpCfgOk t cfg (e.arg 1) (e.arg 2) = true →
      (s.qpClass t = 1 → s.stageOk t (e.arg 5) = true) → exec (.createQp q) s = .next (done
        (let a := (((s.wr .HOP_QP_SQBASE t 0 (BitVec.ofNat 64 (e.arg 1))).wr .HOP_QP_CQBASE t 0
          (BitVec.ofNat 64 (e.arg 2))).wr .HOP_QP_CFG t 0 (cfg &&& Reg.mask .HOP_QP_CFG [.RW])).wr .HOP_QP_MOD t 0
          (BitVec.ofNat 64 (e.arg 4) &&& Reg.mask .HOP_QP_MOD [.RW])
        ((if s.qpClass t = 1 then (a.wr .HOP_QP_STAGEBASE t 0 (BitVec.ofNat 64 (e.arg 5))).wr .HOP_QP_STAGEHEAD t 0 0 else a).qpStart
          t).moderate t) 0 0)) ∧
    (s.entFirst q 1 = some e → e.cls = 0 → s.adminOwns e t = false → exec (.createQp q) s = .next (done s 2 0)) ∧
    (s.entFirst q 1 = some e → e.cls = 0 → s.adminOwns e t = true → s.qpState t ≠ 0 → exec (.createQp q) s = .next (done s 0x0601 0)) ∧
    (s.entFirst q 2 = some e → e.cls = 0 → e.sub ≠ 1 → s.adminOwns e t = true → s.qpState t = 1 → t ≠ q.val → exec (.deleteQp q) s = .next
      ((s.setEnt q { e with sub := 1 }).qpDisable t)) ∧
    (s.entFirst q 2 = some e → e.cls = 0 → e.sub ≠ 1 → s.adminOwns e t = true → s.qpState t = 1 → t = q.val → Gives (.deleteQp q) s fun a =>
      (a.qp q).cut = some e.id ∧ a.mem = s.mem ∧ ∀ y ∈ (a.qp q).ents, y.id ≠ e.id → y.det = false → 2 ≤ y.st →
        y ∈ (s.qp q).ents.takeWhile fun z => decide (z.id ≠ e.id)) ∧
    (s.entFirst q 2 = some e → e.cls = 0 → e.sub = 1 → s.qpState t = 0 → exec (.deleteQp q) s = .next (done s 0 0)) ∧
    (s.entFirst q 3 = some e → e.cls = 0 → s.adminOwns e t = true → exec (.setMod q) s = .next
      (done ((s.wr .HOP_QP_MOD t 0 (BitVec.ofNat 64 (e.arg 1) &&& Reg.mask .HOP_QP_MOD [.RW])).moderate t) 0 0)) ∧
    (s.entFirst q 4 = some e → e.cls = 0 → ∀ b, ({ s with free := s.free + 1 }).put (.func e.fn) (e.arg 0 / 64 * 64)
        ((List.range 4096).map fun k => Config.freeByte s.free k) true = .ok b → exec (.identify q) s = .next (done b 0 0)) ∧
    (s.entOf q 0x10 = some e → e.cls = 3 → e.bad = false → e.arg 2 = 4 → e.arg 0 % 65536 ≤ 65532 → e.arg 1 % 65536 ≤ 65532 → ∀ bs b,
      s.fetch (.func e.fn) (e.arg 0) 4 true = .ok bs → s.put (.func e.fn) (e.arg 1) bs true = .ok b → exec (.copy q) s = .next
        (done (b.countAt (e.arg 0) 4) 0 4)) ∧
    (s.entOf q 0x10 = some e → e.cls = 3 → e.bad = false → e.arg 2 = 4 → e.arg 0 % 65536 ≤ 65532 → e.arg 1 % 65536 ≤ 65532 → ∀ st,
      s.fetch (.func e.fn) (e.arg 0) 4 true = .error st → exec (.copy q) s = .next (done (s.noteRefusal st 5 q (e.arg 0)) st 0)) ∧
    (s.entOf q 0x11 = some e → e.cls = 3 → e.arg 2 = 4 → e.arg 0 % 65536 ≤ 65532 → ∀ b,
      s.put (.func e.fn) (e.arg 0) ((natToBytes 8 (e.arg 1)).take 4) true = .ok b → exec (.fill q) s = .next (done b 0 4))

/-- R251: messages are delivered to the oldest waiting receiver, or end after 10 ms. R241, R245, R260, R261: the link, the BAR4 window, and what a function reset does to queue pairs and vectors. -/
def Obligations.MessageLinkAndFunctionRowsComplete : Prop :=
  (∀ (s : State) (q qr : Fin 16384) (e r : QEnt),
     let a := r.arg 0 / 64 * 64
     let bs := natToBytes 2 e.fn ++ natToBytes 2 e.cid ++ List.replicate 12 0 ++ (e.bytes.drop 0x10).take 48
     (s.entOf q 0x20 = some e → oldestMsg (s.msgs 0x21 fun y => decide (y.fn = e.arg 0 % 256)) = some (qr.val, r) → ∀ b, s.put (.func r.fn) a bs true = .ok b →
       exec (.send q) s = .next ((b.qpFinish q e.id 0 0).qpFinish qr r.id 0 (e.fn + e.cid * 65536))) ∧
     (s.entOf q 0x21 = some r → oldestMsg (s.msgs 0x20 fun y => decide (y.arg 0 % 256 = r.fn)) = some (qr.val, e) →
       oldestMsg (s.msgs 0x21 fun y => decide (y.fn = r.fn)) = some (q.val, r) → ∀ b, s.put (.func r.fn) a bs true = .ok b →
       exec (.recv q) s = .next ((b.qpFinish qr e.id 0 0).qpFinish q r.id 0 (e.fn + e.cid * 65536))) ∧
     (s.entOf q 0x20 = some e → e.arg 0 % 256 ≠ 0x80 → s.msgs 0x21 (fun y => decide (y.fn = e.arg 0 % 256)) = [] → exec (.msgNoReceiver q) s = .next (s.qpFinish q e.id 0x0605 0)) ∧
     (∀ y st res, y ∈ (s.qp q).ents → y.st ≠ 3 → y.det = false → (∀ z ∈ (s.qp q).ents, z.id = y.id → z = y) →
       let t := s.qpFinish q y.id st res
       (t.qp q).ents = (s.qp q).ents.map (fun z => if z.id = y.id then { y with st := 3, status := st, result := res, doneAt := s.hop.no } else z) ∧
         t.csr = s.csr ∧ t.mem = s.mem ∧ ∀ p, p ≠ q.val → t.qp p = s.qp p)) ∧
  (∀ (s : State) (f : Fin 128) (off : BitVec 36) (rate : Fin 7) (width : Fin 5) (bs : List Byte) (n : Nat),
     let a := s.rdF .HOP_FN_BAR4 f 0 47 30 * 2 ^ 30 + off.toNat
     let off_ := fun (t : State) (g : Nat) => (∀ q ∈ s.hop.live, s.qpFunc q = g → q < 16384 → t.qpState q = 0) ∧
       ∀ v, v < 2048 → mget dFalse t.hop.unmasked (g * 2048 + v) = false
     (rate.val ≠ 0 → exec (.pcieLinkUp rate width) s = .next (s.wr .HOP_LINK 0 0
       (BitVec.ofNat 64 ((if 4 ≤ rate.val ∧ width.val ≤ 2 then 0 else 256) + width.val * 16 + rate.val)))) ∧
     (Gives .pcieLinkDown s fun t => t.rd .HOP_LINK 0 0 = 0 ∧ ∀ g : Fin 128, off_ t g) ∧
     (Gives .hotReset s fun t => (∀ g : Fin 128, off_ t g) ∧ t.rd .HOP_LINK 0 0 = s.rd .HOP_LINK 0 0) ∧
     (Gives (.functionLevelReset f) s fun t => off_ t f) ∧ (Gives (.d3hotEntry f) s fun t => off_ t f) ∧
     (off.toNat < s.bar4Size f → bs ≠ [] → a + bs.length ≤ 0xA000000000 → ∀ b, s.put (.func f) a bs true = .ok b →
       exec (.bar4Access f off (.write bs)) s = .next b) ∧
     (s.bar4Size f ≤ off.toNat → ∀ acc, exec (.bar4Access f off acc) s = .next s) ∧
     (off.toNat < s.bar4Size f → bs ≠ [] → 0xA000000000 < a + bs.length → exec (.bar4Access f off (.write bs)) s = .next (s.raiseProt 5 f a)) ∧
     (off.toNat < s.bar4Size f → n ≠ 0 → a + n ≤ 0xA000000000 → ∀ b, s.fetch (.func f) a n true = .ok b → exec (.bar4Access f off (.read n)) s = .next
       (State.countSilo { s with rdata := BitVec.ofNat 64 (bytesToNat (b.take 8)) } .SILO_RD_BYTES a n)) ∧
     (off.toNat < s.bar4Size f → n ≠ 0 → a + n ≤ 0xA000000000 → s.fetch (.func f) a n true = .error 2 → Gives (.bar4Access f off (.read n)) s fun t =>
       t = { s with rdata := BitVec.allOnes 64, chf := t.chf }))

/-! ### The storage tiers -/

/-- R266, R271 to R276: line accesses, patrol scrub, refresh slots and row repair. Rests also on the model's choices of log
entries 12, 68, 145 and 156. -/
def Obligations.SiloRowsComplete : Prop :=
  ∀ (s : State) (addr : BitVec 40) (bs : List Byte) (n : Nat) (k : Fin 8) (b : Fin 65536) (line : Fin 10737418240) (row : Fin 671088640)
    (first again : List (Fin 36)) (plot : Option (Fin 16)) (rv : List Rival),
    let a := addr.toNat
    let z := a / 65536 % 8
    let asks := fun i => decide (i = intakeOf a) || rv.any fun r => decide (r.idx % 128 = i)
    let free := fun (len : Nat) => 0 < len ∧ a + len ≤ 0xA000000000 ∧ a % 64 + len ≤ 64 ∧ s.rowBusy a len = false
    let within := fun (len : Nat) => free len ∧ s.intakeGrant z asks = some (intakeOf a)
    let poison := mget dFalse s.mem.pSilo (a / 64)
    let whole := a % 64 = 0 ∧ bs.length = 64
    let dup := fun (l : List (Fin 36)) => l.eraseDups.length
    let rd := fun f g => Instr.siloIntakeAccess addr (.read n) f g plot rv
    (within n → a / 65536 ∉ s.mem.retired → poison = false → Gives (rd [] again) s fun t =>
      t = { s with csr := t.csr, tier := t.tier, rstat := 0, rdata := BitVec.ofNat 64 (s.loadNat .silo a (min n 8)) } ∧
        mget dNat t.tier.siloPtr z = (intakeOf a + 1) % 128 ∧
        t.rd .SILO_RD_BYTES z 0 = s.rd .SILO_RD_BYTES z 0 + BitVec.ofNat 64 n ∧
        (dup first = 1 → exec (rd first again) s = .next (t.siloCorrected (a / 64))) ∧
        (2 ≤ dup first → dup again ≤ 1 → ∃ q, exec (rd first again) s = .next ((t.inc .SILO_UE z 0 1).raise q) ∧ q.code = 0x0704 ∧ q.sev = 1) ∧
        (2 ≤ dup first → 2 ≤ dup again → Gives (rd first again) s fun t => t.rstat = 0x0704 ∧ t.rdata = 0)) ∧
    (within n → a / 65536 ∉ s.mem.retired → poison = true → Gives (rd first again) s fun t =>
      t.mem = s.mem ∧ t.rstat = 0x0704 ∧ t.rdata = 0 ∧ t.rd .SILO_UE z 0 = s.rd .SILO_UE z 0 + 2) ∧
    (within bs.length → a / 65536 ∉ s.mem.retired → (poison = false ∨ whole) → Gives (.siloIntakeAccess addr (.write bs) first again plot rv) s fun t =>
      (∀ sp x, t.byteAt sp x = if sp = .silo ∧ a ≤ x ∧ x < a + bs.length then lget bs (x - a) 0 else s.byteAt sp x) ∧ t.rstat = 0 ∧
        mget dFalse t.mem.pSilo (a / 64) = false ∧
        mget dFalse t.mem.dirty (a / 65536) = true ∧ t.rd .SILO_WR_BYTES z 0 = s.rd .SILO_WR_BYTES z 0 + BitVec.ofNat 64 bs.length) ∧
    (within bs.length → a / 65536 ∉ s.mem.retired → poison = true → ¬ whole →
      Gives (.siloIntakeAccess addr (.write bs) first again plot rv) s fun t => t.mem = s.mem ∧ t.rstat = 0x0704) ∧
    (within n → within bs.length → a / 65536 ∈ s.mem.retired → ∀ c ∈ [rd first again, .siloIntakeAccess addr (.write bs) first again plot rv],
      Gives c s fun t => t.mem = s.mem ∧ t.rstat = 0x0702) ∧
    (∀ w, free n → s.intakeGrant z asks = some w → w ≠ intakeOf a → exec (rd first again) s = .next
      (s.waitFor .SEED_PLOT_STALL_SILO (plot.map Fin.val) ((rv.find? fun r => decide (r.idx % 128 = w)).bind Rival.plotNo))) ∧
    (s.rowBusy a n = true → exec (rd first again) s = .next s) ∧
    (s.rdF .SILO_SCRUB 0 0 8 8 = 1 → mget dFalse s.mem.pSilo line = false → line.val / 1024 ∉ s.mem.retired → s.rowBusy (line * 64) 64 = false →
      Gives (.patrolScrubRead line [] again false) s (fun t => t.mem = s.mem ∧ t.chf = s.chf ∧
        (mget dNat s.tier.scrubbed (line.val / 1024 % 8) < 1342177280 →
          mget dNat t.tier.scrubbed (line.val / 1024 % 8) = (mget dNat s.tier.scrubbed (line.val / 1024 % 8) + 1) % 1342177280)) ∧
      (2 ≤ dup first → 2 ≤ dup again → Gives (.patrolScrubRead line first again false) s fun t =>
        mget dFalse t.mem.pSilo line = true ∧ ∀ sp y, t.byteAt sp y = s.byteAt sp y) ∧
      exec (.patrolScrubRead line first again true) s = .next s) ∧
    (Gives (.bankRefresh b) s fun t =>
      t.rd .SILO_RH_TREFS (b / 64 % 8) 0 = s.rd .SILO_RH_TREFS (b / 64 % 8) 0 + BitVec.ofNat 64 (s.tier.hot.filter fun r => decide (r % 65536 = b.val)).length ∧
        t.tier.hot = s.tier.hot.filter (fun r => decide (r % 65536 ≠ b.val)) ∧ mget dNat t.tier.openRow b = 0 ∧ t.mem = s.mem ∧ t.chf = s.chf) ∧
    (row.val ∈ s.tier.fixing → Gives (.rowRepairComplete row) s fun t =>
      t.tier.fixing = s.tier.fixing.filter (· ≠ row.val) ∧ mget dNat t.tier.spares (row % 65536) = mget dNat s.tier.spares (row % 65536) + 1 ∧
        mget dNat t.tier.rowMap row = mget dNat s.tier.spares (row % 65536) + 1 ∧
        (∀ l ∈ s.tier.bad, l / 16 = row → mget dFalse t.mem.pSilo l = true) ∧ (∀ sp x, t.byteAt sp x = s.byteAt sp x) ∧
        t.rd .SILO_REPAIRS (row / 64 % 8) 0 = s.rd .SILO_REPAIRS (row / 64 % 8) 0 + 1) ∧
    (s.rdF .SILO_STATUS k 0 1 1 = 0 → s.rdF .SILO_SCRUB 0 0 8 8 = 1 → ∃ q, exec (.scrubPassBehind k) s = .next
      (State.raise (s.wrF .SILO_STATUS k 0 1 1 1) q) ∧ q.code = 0 ∧ q.sev = 1 ∧ q.src = 6 ∧ q.inst = k)

/-- R277 to R287, R303 to R307, R589: the page-mover rings, the operations they start and perform piece by piece, and the cache
directory. Rests also on the model's choices of log entries 69, 121 and 160. -/
def Obligations.MoverRowsComplete : Prop :=
  ∀ (s : State) (w : Agent) (r : Fin 64) (v : BitVec 64) (k piece line : Nat) (first again : List (Fin 36)) (dies : List Nat) (rv : List Rival),
    let p := s.rd .SILO_PMQ_PTRS r 0
    let N := s.ringSize .pm r
    let x := s.ring .pm r
    (Allowed s w .SILO_PMQ_CFG r 0 → s.hasp.wrq = [] → fld v 62 61 ≠ 3 → fld v 53 50 ≤ 8 →
      ((s.rd .SILO_PMQ_CFG r 0).getLsbD 63 = false → s.rdF .SILO_PMQ_ERR r 0 16 16 = 0 → Gives (.pmqEnable w r v) s fun t =>
        t.rd .SILO_PMQ_CFG r 0 = setFld v 63 63 1 &&& Reg.mask .SILO_PMQ_CFG [.RW] ∧ t.rd .SILO_PMQ_PTRS r 0 = 0 ∧ t.rd .SILO_PMQ_ERR r 0 = 0 ∧
          (t.ring .pm r).ents = [] ∧ t.mem = s.mem ∧ t.rstat = 0) ∧
      ((s.rd .SILO_PMQ_CFG r 0).getLsbD 63 = true → fld v 62 54 = s.rdF .SILO_PMQ_CFG r 0 62 54 → fld v 53 50 = s.rdF .SILO_PMQ_CFG r 0 53 50 →
        fld v 47 12 = s.rdF .SILO_PMQ_CFG r 0 47 12 → Gives (.pmqDisable w r v) s fun t =>
        t.rd .SILO_PMQ_CFG r 0 = setFld v 63 63 0 &&& Reg.mask .SILO_PMQ_CFG [.RW] ∧
          t.rdF .SILO_PMQ_ERR r 0 16 16 = (if x.ents = [] then 0 else 1) ∧ (t.ring .pm r) = x ∧ t.mem = s.mem ∧ t.rstat = 0)) ∧
    (s.ringOn .pm r = true → s.isFatal = false → N ≤ 65536 → fld p 31 16 ≠ fld p 15 0 → s.ringHeld .pm r < N - 1 → x.ents = [] → ∀ bs,
      s.fetch (s.ringOwner .pm r) (s.ringBase .pm r + 64 * fld p 15 0) 64 false = .ok bs → (∀ e : QEnt, e.bytes = bs → e.pmMalformed = false) →
        Gives (.pmqEntryFetch r) s fun t => (∃ e, (t.ring .pm r).ents = [e] ∧ e.bytes = bs ∧ e.sub = 0) ∧
          t.rdF .SILO_PMQ_PTRS r 0 15 0 = (fld p 15 0 + 1) % N ∧ t.mem = s.mem) ∧
    (∀ o ∈ ([(.pmCopy r, 1), (.gather r, 2), (.scatter r, 3), (.convert r, 4), (.pmFill r, 5), (.dirtyGet r, 6), (.writeback r, 7)] : List (Instr × Nat)),
      ∀ e l, s.ringReady .pm r = some e → e.opc = o.2 →
        (e.pmBad = true → exec o.1 s = .next (s.ringDone .pm r e.id 0x0703 0)) ∧
        (e.pmBad = false → (if o.2 = 2 ∨ o.2 = 3 then s.fetch e.owner (e.arg 0) (8 * e.npages) false = .ok l else l = []) →
          let e1 := { e with bytes := e.bytes ++ l, sub := 1 }
          (o.2 = 2 ∨ o.2 = 3 → ∀ j, j < e.npages → e1.listed j % 65536 = 0) → (6 ≤ o.2 → e.arg 0 + 65536 * e.npages ≤ 0xA000000000) →
          (∀ y ∈ e1.ranges, s.rangeBad e.owner y.1 y.2.1 y.2.2 = 0) → e1.pieces ≠ 0 → exec o.1 s = .next (s.setRingEnt .pm r e1))) ∧
    (∀ e, (x.ents.filter fun e => decide (0 < e.sub ∧ e.opc < 0x10))[k]? = some e → s.isFatal = false →
      e.nextOn (e.die piece) = some piece → s.pieceWaits e piece = false →
      let src := e.srcOf piece
      let dst := e.dst piece
      let n := if e.opc = 1 then dst.2 else 65536
      let inSilo := 0 < src.2 ∧ src.1 + src.2 ≤ 0xA000000000
      let fin := fun (t : State) (units : Nat) =>
        let e1 := { e with done := e.done ++ [piece], result := e.result + units }
        if e.pieces ≤ e1.done.length then t.ringDone .pm r e.id 0 e1.result else t.setRingEnt .pm r e1
      let go := fun f => Instr.pmPieceDone r k piece line [] again f dies
      (1 ≤ e.opc → e.opc ≤ 3 → ∀ bs t, State.readAt e.owner 16 s src.1 n = .ok bs →
        State.writeAt e.owner 16 (s.countAt src.1 n) dst.1 bs = (0, t) → exec (go none) s = .next (fin t (if e.opc = 1 then n else 1))) ∧
      (e.opc = 5 → ∀ t, State.writeAt e.owner 16 s dst.1
          ((List.range dst.2).map fun k => lget (natToBytes 8 (e.arg 5)) ((dst.1 - e.arg 1 + k) % 8) 0) = (0, t) →
        exec (go none) s = .next (fin t dst.2)) ∧
      (∀ t units, (e.opc = 4 ∧ s.convPiece e piece = (0, t) ∧ units = e.convElems (e.convBlocks piece).1 (e.convBlocks piece).2) ∨
        (e.opc = 6 ∧ s.dirtyGet e piece = (0, t, units)) ∨ (e.opc = 7 ∧ s.writeback e piece = (0, t, units)) →
          exec (go none) s = .next (fin t units)) ∧
      (∀ st : BitVec 16, st ≠ 0 → exec (go (some st)) s = .next (s.pmStop r e piece st.toNat dies)) ∧
      (∀ f, inSilo → 2 ≤ first.eraseDups.length → 2 ≤ again.eraseDups.length →
        exec (.pmPieceDone r k piece line first again f dies) s = .next
          ((s.siloErr (src.1 / 64 + line % ((src.2 + 63) / 64)) (.lasting 0)).pmStop r e piece 0x0704 dies))) ∧
    (∀ e f, (x.ents.filter fun e => decide (0 < e.sub ∧ e.opc < 0x10))[k]? = some e → s.isFatal = false →
      (e.nextOn (e.die piece) ≠ some piece ∨ s.pieceWaits e piece = true) →
        exec (.pmPieceDone r k piece line first again f dies) s = .next s) ∧
    (∀ e, s.ringReady .pm r = some e → e.pmBad = false → e.opc = 0x10 →
      let c := nbits (e.arg 3) 19 16
      s.rdF .SILO_CACHE c 0 63 63 = 1 →
      let hit := (s.regionFrames c).find? fun p => decide (!p.2.stale ∧ p.2.obj = e.arg 1 % 2 ^ 32 ∧ p.2.page = e.arg 1 / 2 ^ 32 ∧ p.2.ver = e.arg 2 % 2 ^ 32)
      (∀ n f, hit = some (n, f) → let t := s.setFrame n (some { f with pins := f.pins + 1, used := s.time })
        exec (.clookup r rv) s = .next (if f.filling then t.setRingEnt .pm r { e with sub := n + 1 } else t.ringDone .pm r e.id 0 (s.frameAddr n))) ∧
      (hit = none → s.pagesFull false = false → (∀ t, s.takeFrame c = (none, t) → exec (.clookup r rv) s = .next (s.ringDone .pm r e.id 0x0705 0)) ∧
        ∀ n t, s.takeFrame c = (some n, t) →
          let g : WPage := ⟨0, e.fn, 16, n, false, e.arg 0, t.frameAddr n, e.arg 1 % 2 ^ 32, e.arg 1 / 2 ^ 32, e.arg 2 % 2 ^ 32, e.arg 2 / 2 ^ 32, true, 0, [], false⟩
          t.pageRefused g (e.arg 3 % 4096) true = 0 →
            (∀ u, t.winIntake g rv = (true, u) → exec (.clookup r rv) s = .next
              (((u.setFrame n (some ⟨g.obj, g.page, g.ver, true, false, 1, t.time⟩)).setRingEnt .pm r { e with sub := n + 1, result := 2 ^ 63 }).pageBegin g
                (e.arg 3 % 4096))) ∧
            (∀ u, t.winIntake g rv = (false, u) → exec (.clookup r rv) s = .next (s.winIntake g rv).2))) ∧
    (∀ e n f, s.ringReady .pm r = some e → e.pmBad = false → e.opc = 0x11 → s.frameAt (e.arg 0) = some (n, f) → f.pins ≠ 0 →
      exec (.cunpin r) s = .next ((s.setFrame n (if f.stale = true ∧ f.pins = 1 ∧ f.filling = false then none else some { f with pins := f.pins - 1 })).ringDone
        .pm r e.id 0 (f.pins - 1))) ∧
    (∀ e, s.ringReady .pm r = some e → e.pmBad = false → e.opc = 0x12 →
      let fs := (s.regionFrames (nbits (e.arg 3) 19 16)).filter fun p => decide (!p.2.stale ∧ p.2.obj = e.arg 1 % 2 ^ 32 ∧ p.2.ver = e.arg 2 % 2 ^ 32)
      exec (.cinval r) s = .next ((fs.foldl (fun a p => a.setFrame p.1 (if p.2.pins = 0 then none else some { p.2 with stale := true })) s).ringDone
        .pm r e.id 0 fs.length)) ∧
    (∀ g t f, (s.win.pages.filter fun p => decide (p.ring = 16))[k]? = some g → s.inbound g 0 = (some 0, t) → t.frame g.ent = some f →
      exec (.cacheFillDone k 0) s = .next ((t.setFrame g.ent (some { f with filling := false })).fillEnds g.ent 0)) ∧
    (∀ g t st, (s.win.pages.filter fun p => decide (p.ring = 16))[k]? = some g → st ≠ 0 → ∀ m : BitVec 16, s.inbound g m.toNat = (some st, t) →
      exec (.cacheFillDone k m) s = .next ((t.setFrame g.ent none).fillEnds g.ent st)) ∧
    (∀ e status result b, x.ents.find? (fun y => decide (y.id = e.id)) = some e → N ≤ 65536 →
      (s.setRing .pm r { x with ents := x.ents.filter fun y => decide (y.id ≠ e.id) }).put e.owner (s.ringBase .pm r + 64 * N + 16 * fld p 47 32)
        (cplBytes result (fld p 15 0) e.cid status x.phase) false = .ok b →
      (s.ringDone .pm r e.id status result).mem = b.mem ∧ (s.ringDone .pm r e.id status result).rdF .SILO_PMQ_PTRS r 0 47 32 = (fld p 47 32 + 1) % N)

/-- R288, R291 to R296: bring-up, groups, requests, responses and time-outs of a granary port. Rests also on the model's choices
of log entries 12, 122 and 161. -/
def Obligations.GranaryRowsComplete : Prop :=
  ∀ (s : State) (w : Agent) (p : Fin 4) (major minor : BitVec 8) (msg : BitVec 16) (dat : BitVec 32) (id : BitVec 64) (cap : BitVec 32) (ctl : List Byte)
    (data : List (List Byte)) (bs : List Byte) (who : Fin 4) (ra : BitVec 56) (units : Fin 16) (tag : Fin 4096)
    (plot : Option (Fin 16)) (rv : List Rival),
    let x := s.gport p
    let st := s.rdF .GRN_PORT_STATUS p 0 2 0
    let grant := ringGrant s.grnSlots (mget dNat s.tier.grnPtr p) fun w => decide (w = who.val) || rv.any fun r => decide (r.idx % 4 = w)
    let wins := ∃ i, grant = some i ∧ s.grnSlots[i]? = some who.val
    (s.isFenced 8 (24 + p) = false → st ≤ 1 → Gives (.granaryPortLock p) s fun t => t.rdF .GRN_PORT_STATUS p 0 2 0 = 2 ∧
      (t.gport p).txSeq = 1 ∧ (t.gport p).out = [] ∧ (∃ g, (t.gport p).replay = [g] ∧ groupMsgs g.ctl = [helloMsg]) ∧ t.mem = s.mem) ∧
    (st = 2 → major = 1 → Gives (.helloRsp p major minor msg dat id cap) s fun t => t.rdF .GRN_PORT_STATUS p 0 2 0 = 3 ∧
      t.rdF .GRN_PORT_STATUS p 0 55 48 = min 2 minor.toNat ∧ t.rd .GRN_PORT_ID p 0 = id ∧
      t.gport p = { x with msgCr := msg.toNat, dataCr := dat.toNat, capacity := cap.toNat, advMsg := msg.toNat, advData := dat.toNat }) ∧
    (st = 2 → major ≠ 1 → ∃ q, exec (.helloRsp p major minor msg dat id cap) s = .next (State.raise (s.wrF .GRN_PORT_STATUS p 0 2 0 4) q) ∧ q.code = 0x0805) ∧
    ((st = 2 ∨ st = 3) → groupOk ctl data = false → x.nackSent = false →
      exec (.granaryGroupReceive p ctl data) s = .next (s.setGport p { x with nackSent := true, nackDue := true })) ∧
    ((st = 2 ∨ st = 3) → groupOk ctl data = false → x.nackSent = true → exec (.granaryGroupReceive p ctl data) s = .next (s.gdown p true)) ∧
    ((st = 2 ∨ st = 3) → groupOk ctl data = true → le ctl 2 2 = x.rxSeq → le ctl 6 1 = 0 → nbit (le ctl 7 1) 0 = false → x.rx = [] →
      Gives (.granaryGroupReceive p ctl data) s fun t => t = { s with tier := t.tier, csr := t.csr } ∧
        t.gport p = { x with
          rxSeq := (x.rxSeq + 1) % 65536, nackSent := false, nackDue := false, msgCr := x.msgCr + le ctl 8 4, dataCr := x.dataCr + le ctl 12 4
          replay := x.replay.filter fun g => decide (0 < ringDist g.seq (le ctl 4 2) 65536 ∧ ringDist g.seq (le ctl 4 2) 65536 < 32768) }) ∧
    ((st = 2 ∨ st = 3) → exec (.granaryControlTimeout p) s = .next (s.gdown p false)) ∧
    (st = 3 → x.replay.length < 64 → Gives (.granaryIdleFlit p) s fun t => t.gport p = x.sendGroup [] [] ∧ (t.gport p).replay.length = x.replay.length + 1 ∧
      (t.gport p).txSeq = (x.txSeq + 1) % 65536 ∧ t.csr = s.csr ∧ t.mem = s.mem) ∧
    (st = 3 → x.again = [] → wins → ra.toNat % 256 = 0 → 0 < x.msgCr → x.replay.length < 64 → x.freeTags ≠ [] → units.val + 1 ≤ x.room →
      Gives (.granaryRequestSend p who ra units none plot rv) s fun t => ∃ q, (t.gport p).out = x.out ++ [q] ∧ q.tag ∈ x.freeTags ∧ q.wr = false ∧
        q.raddr = ra.toNat ∧ q.units = units.val + 1 ∧ (t.gport p).msgCr = x.msgCr - 1 ∧ t.mem = s.mem ∧
        t.rdF .GRN_PORT_STATUS p 0 44 32 = (x.out.length + 1 + x.quar.length) % 8192) ∧
    (st = 3 → x.again = [] → wins → ra.toNat % 256 = 0 → 0 < x.msgCr → x.replay.length < 64 → x.freeTags ≠ [] → units.val + 1 ≤ x.dataCr →
      bs.length = 256 * (units.val + 1) → Gives (.granaryRequestSend p who ra units (some bs) plot rv) s fun t =>
        (t.gport p).dataCr = x.dataCr - (units.val + 1) ∧ (∃ q, (t.gport p).out = x.out ++ [q] ∧ q.wr = true ∧ q.tag ∈ x.freeTags) ∧
        ∀ sp y, t.byteAt sp y = if sp = .gran ∧ p * 2 ^ 48 + ra.toNat ≤ y ∧ y < p * 2 ^ 48 + ra.toNat + bs.length
          then lget bs (y - (p * 2 ^ 48 + ra.toNat)) 0 else s.byteAt sp y) ∧
    (∀ i, x.again = [] → ra.toNat % 256 = 0 → grant = some i → s.grnSlots[i]? ≠ some who.val →
      exec (.granaryRequestSend p who ra units none plot rv) s = .next
        (s.waitFor .SEED_PLOT_STALL_GRN (plot.map Fin.val) ((rv.find? fun r => s.grnSlots[i]? = some (r.idx % 4)).bind Rival.plotNo))) ∧
    (∀ q, st = 3 → x.out.find? (fun r => decide (r.tag = tag.val)) = some q →
      (q.again = false → q.wr = true → Gives (.granaryResponse p tag 0 bs) s fun t => (t.gport p).out = x.out.filter (fun r => decide (r.tag ≠ tag.val)) ∧
        t.rstat = 0 ∧ t.mem = s.mem ∧ t.rd .GRN_TAG_FREE p 0 = s.rd .GRN_TAG_FREE p 0 + 1) ∧
      (q.again = false → Gives (.granaryResponse p tag 2 bs) s fun t => (t.gport p).again = x.again ++ [{ q with again := true }] ∧ t.mem = s.mem) ∧
      (q.again = true → Gives (.granaryResponse p tag 2 bs) s fun t => (t.gport p).again = x.again ∧ t.rstat = 0x0802 ∧ t.mem = s.mem)) ∧
    (∀ q, x.out.find? (fun r => decide (r.tag = tag.val)) = some q → x.quar.length < 1024 → q.again = false →
      Gives (.granaryTimeout p tag) s fun t => (t.gport p).quar = x.quar ++ [tag.val] ∧ (t.gport p).again = x.again ++ [{ q with again := true }] ∧
        (t.gport p).out = x.out.filter (fun r => decide (r.tag ≠ tag.val)) ∧ t.mem = s.mem) ∧
    (Allowed s w .GRN_PORT_CTL p 0 → s.isFenced 8 (24 + p) = false → Gives (.granaryRetrain w p) s fun t => t.rdF .GRN_PORT_STATUS p 0 2 0 = 1 ∧
      t.gport p = GrnPort.reset ∧ t.rd .GRN_TAG_FREE p 0 = s.rd .GRN_TAG_FREE p 0 + BitVec.ofNat 64 (x.out.length + x.quar.length) ∧ t.mem = s.mem)

/-! ### The winnower -/

/-- R308 to R311, R322, R323, R327, R329 to R332, R334 to R338, R340: page operations, loads, switches and bindings. Rests also
on the model's choices of log entries 12 and 120. -/
def Obligations.WinnowerRowsComplete : Prop :=
  ∀ (s : State) (r : Fin 16) (e : QEnt) (k j : Nat) (base : Option (BitVec 24)) (bs : List Byte) (rv : List Rival),
    let m := e.arg 1 % 256
    let x := s.wmodel m
    let at' := fun (op : Nat) => s.ringReady .win r = some e ∧ e.winBad = false ∧ e.opc = op
    let priv := fun (op : Nat) => at' op ∧ s.ownerPl1 e.fn = true
    let pg : WPage := ⟨0, e.fn, r, e.id, false, e.arg 0, e.arg 1, e.arg 2 % 2 ^ 32, e.arg 2 / 2 ^ 32, e.arg 3 % 2 ^ 32, e.arg 3 / 2 ^ 32, nbit (e.arg 4) 16, 0, [], false⟩
    let pgOut : WPage := { pg with out := true, lower := e.arg 1, silo := e.arg 0, slen := 0, wcode := nbits (e.arg 4) 25 24 }
    (∀ o ∈ ([(.openPage r rv, 1, pg), (.sealPage r rv, 2, pgOut)] : List (Instr × Nat × WPage)), at' o.2.1 → s.pagesFull o.2.2.out = false →
      (s.pageRefused o.2.2 (e.arg 4 % 4096) false = 0 →
        (∀ t, s.winIntake o.2.2 rv = (true, t) → exec o.1 s = .next ((t.setRingEnt .win r { e with sub := 1 }).pageBegin o.2.2 (e.arg 4 % 4096))) ∧
        ∀ t, s.winIntake o.2.2 rv = (false, t) → exec o.1 s = .next t) ∧
      (∀ st, st ≠ 0 → s.pageRefused o.2.2 (e.arg 4 % 4096) false = st → exec o.1 s = .next ((s.noteRefusal st 8 r o.2.2.lower).ringDone .win r e.id st 0))) ∧
    (∀ g, (s.win.pages.filter fun p => decide (p.ring < 16 ∧ !p.out))[k]? = some g →
      (∀ t, s.inbound g 0 = (some 0, t) → exec (.inboundPageVerified k 0) s = .next (t.ringDone .win g.ring g.ent 0 65536)) ∧
      (∀ t, s.inbound g 0 = (none, t) → exec (.inboundPageVerified k 0) s = .next t) ∧
      (∀ t st, st ≠ 0 → s.inbound g 0 = (some st, t) → exec (.inboundPageVerified k 0) s = .next (t.ringDone .win g.ring g.ent st 0))) ∧
    (∀ g st n t, (s.win.pages.filter fun p => decide (p.ring < 16 ∧ p.out))[k]? = some g → s.outbound g 0 = (st, n, t) →
      exec (.outboundPageDone k 0) s = .next (t.ringDone .win g.ring g.ent st n)) ∧
    ((∀ y ∈ s.win.models, ¬ (y.2.op = 2 ∧ y.2.wants = true ∧ y.2.ring = r.val)) → priv 0x10 → ∀ man, s.manifest e.fn (e.arg 0) 0 = .ok man →
      (x.op ≠ 0 ∨ (x.rets ≠ [] ∧ nbit e.flags 1 = false) → exec (.switch r base) s = .next (s.ringDone .win r e.id 0x0906 0)) ∧
      (x.op = 0 → (x.rets = [] ∨ nbit e.flags 1 = true) → (∃ w ∈ x.cur.toList ++ x.rets, s.rdF .WIN_WS_A w 0 63 32 = manVersion man) →
        exec (.switch r base) s = .next (s.ringDone .win r e.id 0x0905 0)) ∧
      (x.op = 0 → (x.rets = [] ∨ nbit e.flags 1 = true) → (∀ w ∈ x.cur.toList ++ x.rets, s.rdF .WIN_WS_A w 0 63 32 ≠ manVersion man) →
        (nbit e.flags 1 = true → x.cur.toList ++ x.rets ≠ [] → exec (.switch r base) s = .next (((s.setRingEnt .win r { e with sub := 1 }).setWModel m
          { x with op := 2, ring := r, ent := e.id, fn := e.fn, man := man, bcast := e.arg 2, closing := true }).glnDue m)) ∧
        (nbit e.flags 1 = false ∨ x.cur.toList ++ x.rets = [] →
          (∀ t, ((s.countAt (e.arg 0) man.length).setWModel m { x with op := 1, ring := r, ent := e.id, fn := e.fn, closed := 0 }).takeImage false e.fn r e.id m 0 (e.arg 2) man
            (base.map BitVec.toNat) = .ok t → exec (.switch r base) s = .next (t.setRingEnt .win r { e with sub := 1 })) ∧
          (∀ st, ((s.countAt (e.arg 0) man.length).setWModel m { x with op := 1, ring := r, ent := e.id, fn := e.fn, closed := 0 }).takeImage false e.fn r e.id m 0 (e.arg 2) man
            (base.map BitVec.toNat) = .error st → exec (.switch r base) s = .next (s.ringDone .win r e.id st 0))))) ∧
    (priv 0x11 → ∀ man t, s.manifest e.fn (e.arg 0) 1 = .ok man → (s.countAt (e.arg 0) man.length).takeImage true e.fn r e.id m (e.arg 1 / 2 ^ 32) (e.arg 2) man (base.map BitVec.toNat) = .ok t →
      exec (.adapterLoad r base) s = .next (t.setRingEnt .win r { e with sub := 1 })) ∧
    (priv 0x12 → (s.binding m (e.arg 1 / 2 ^ 32)).isSome = true → exec (.adapterUnbind r) s = .next
      (((s.setRingEnt .win r { e with sub := 1 }).setWModel m { x with pbinds := x.pbinds ++ [(e.arg 1 / 2 ^ 32, 0, r.val, e.id)] }).glnDue m)) ∧
    (priv 0x12 → s.binding m (e.arg 1 / 2 ^ 32) = none → (∀ b ∈ x.pbinds, b.1 ≠ e.arg 1 / 2 ^ 32) →
      exec (.adapterUnbind r) s = .next (s.ringDone .win r e.id 0 0)) ∧
    (priv 0x13 → x.op = 0 → exec (.unload r) s = .next
      (((s.setRingEnt .win r { e with sub := 1 }).setWModel m { x with op := 3, ring := r.val, ent := e.id, fn := e.fn, closing := true }).glnDue m)) ∧
    (∀ op, at' op → s.ownerPl1 e.fn = false → ∀ o ∈ ([(.adapterLoad r base, 0x11), (.adapterUnbind r, 0x12), (.unload r, 0x13)] : List (Instr × Nat)), o.2 = op →
      exec o.1 s = .next ((s.raiseProt 8 r 0).ringDone .win r e.id 2 0)) ∧
    (∀ l h, s.win.loads[k]? = some l → l.live.find? (fun h => decide (h.idx = j)) = some h →
      (l.isBcast = false → exec (.shardComplete k j false) s = .next ((s.shardAttempt l h).2.shardEnds l h (s.shardAttempt l h).1)) ∧
      (l.isBcast = true → l.reads h.idx = true → h.attempt = 0 → ∀ bs, s.shardBytes l h = .ok bs →
        let s0 := s.setHay { s.hay with msgs := s.hay.msgs ++ [⟨3, nbits l.bcast 15 10, nbits l.bcast 5 2, [l.id, h.idx], bs⟩] }
        exec (.shardComplete k j false) s = .next ((s0.shardAttempt l h).2.shardEnds l h (s0.shardAttempt l h).1)) ∧
      (l.isBcast = false → exec (.shardComplete k j true) s = .next (s.shardEnds l h 0x0902)) ∧
      exec (.shardTimeout k j) s = .next (s.shardEnds l h 0x0902) ∧
      (h.attempt = 0 → l.reads h.idx = false → exec (.broadcastShardReceive k j bs) s = .next
        (s.setLoad { l with live := l.live.map fun x => if x.idx = h.idx then { h with got := some bs } else x })) ∧
      (l.failed = 0 → h.attempt = 0 → s.shardEnds l h 0x0902 = (s.inc .WIN_SHARD_REREAD 0 0 1).setLoad { l with
        live := l.live.map fun x => if x.idx = h.idx then ⟨h.idx, 1, s.time, none, h.fails ++ [0x0902]⟩ else x })) ∧
    (∀ l, s.win.loads[k]? = some l → l.failed = 0 → l.live = [] → manNshard l.man ≤ l.next →
      let t := s.setWin { s.win with loads := s.win.loads.filter fun x => decide (x.id ≠ l.id) }
      exec (.loadComplete k) s = .next (if l.adapter then (t.setWModel l.model { s.wmodel l.model with
          pbinds := (s.wmodel l.model).pbinds ++ [(l.aid, l.slot + 1, l.ring, l.ent)] }).glnDue l.model
        else (t.setWModel l.model { s.wmodel l.model with ready := true }).glnDue l.model))

/-! ### The gleaner and the sieve -/

/-- R343 to R347, R354 to R357, R359, R369, R371 to R373: requests, prefix handles, outputs and histograms. Rests also on the
model's choices of log entries 36, 43 and 45. -/
def Obligations.RequestRowsComplete : Prop :=
  ∀ (s : State) (q : Fin 16384) (k : Fin 65536) (w : Agent) (c : Fin 16) (v : BitVec 64) (fail : BitVec 16),
    (∀ o ∈ ([(.submit q, 0x30, false), (.prefixCreate q, 0x32, true)] : List (Instr × Nat × Bool)), ∀ e, s.glnEnt q o.2.1 = some e →
      (∀ st, s.submitCheck q e o.2.2 = .error st → exec o.1 s = .next ((if st = 2 then s.raiseProt 9 q (e.arg 0) else s).qpFinish q e.id st 0)) ∧
      (∀ d, s.submitCheck q e o.2.2 = .ok d → (∃ i, i < 65536 ∧ (s.req i).st = 0) → Gives o.1 s fun t => ∃ i, i < 65536 ∧ (s.req i).st = 0 ∧
        (t.req i).st = 1 ∧ (t.req i).q = q ∧ (t.req i).ent = e.id ∧ (t.req i).fn = e.fn ∧ (t.req i).model = e.handle ∧ (t.req i).cls = le d 0 1 ∧
        (t.req i).desc = d ∧ (t.req i).acceptAt = s.time ∧ (∀ n, n ≠ i → t.req n = s.req n) ∧ t.rd .GLN_RQ_ACCEPT 0 0 = s.rd .GLN_RQ_ACCEPT 0 0 + 1 ∧
        (t.gmodel e.handle).due = true ∧ t.mem = s.mem) ∧
      (∀ d, s.submitCheck q e o.2.2 = .ok d → (∀ i, i < 65536 → (s.req i).st ≠ 0) → Gives o.1 s fun t => t.gln = s.gln ∧ t.mem = s.mem ∧
        t.rd .GLN_CLS_REJECTED (le d 0 1) 0 = s.rd .GLN_CLS_REJECTED (le d 0 1) 0 + 1)) ∧
    (∀ o ∈ ([(.cancel q, 0x31), (.prefixRelease q, 0x33), (.prefixPin q, 0x34)] : List (Instr × Nat)), ∀ e, s.glnEnt q o.2 = some e → Gives o.1 s fun t =>
      (t.gmodel e.handle).waits = (s.gmodel e.handle).waits ++ [⟨q, e.id, o.2, s.mStep e.handle⟩] ∧ (t.gmodel e.handle).due = true ∧ t.mem = s.mem ∧ t.csr = s.csr) ∧
    ((s.req k).st = 1 → exec (.qwaitExpiry k) s = .next (s.glnDue (s.req k).model)) ∧
    (∀ o, s.gln.out.find? (fun o => decide (o.req = k.val)) = some o → s.isFatal = false →
      exec (.outputWrite k) s = .next (State.doOut { s with gln := { s.gln with out := s.gln.out.erase o } } o)) ∧
    (let r := s.req k
     let ok := r.copying = true ∧ s.isFatal = false ∧ s.rdF .SILO_PMQ_CFG (s.rdF .GLN_CTL 0 0 37 32) 0 63 61 = 5
     (ok → fail ≠ 0 → exec (.prefixCopyDone k fail) s = .next ((s.setReq k { r with copying := false, copyBad := fail.toNat }).glnDue r.model)) ∧
     (ok → s.mPPB r.model = 1 → ∀ h bs t, r.lender = some h →
       s.fetch .gleaner (s.pageAddr (lget ((s.pfx h).pages.drop r.shared) 0 0)) 65536 false = .ok bs →
       s.put .gleaner (s.pageAddr (lget (r.pages.drop r.shared) 0 0)) bs false = .ok t →
       exec (.prefixCopyDone k 0) s = .next ((t.setReq k { r with copying := false }).glnDue r.model))) ∧
    (Allowed s w .GLN_CLS_HCTL c 0 → v.getLsbD 0 = true →
      (s.anyStep = false → Gives (.histogramSwap w c v) s fun t => mget dNat t.gln.bank c = 1 - mget dNat s.gln.bank c ∧
        mget dFalse t.gln.swap c = false ∧ (∀ kind b, kind < 3 → b < 128 → mget dNat t.gln.hist (histKey c kind (1 - mget dNat s.gln.bank c) b) = 0) ∧
        t.csr = s.csr ∧ t.mem = s.mem) ∧
      (s.anyStep = true → Gives (.histogramSwap w c v) s fun t => mget dFalse t.gln.swap c = true ∧ t.gln.bank = s.gln.bank ∧ t.gln.hist = s.gln.hist))

/-- R359, R362 to R366, R381 to R384, R400, R405: boundaries, commits, plans received, and the sieve's phases. Rests also on the
model's choices of log entries 12, 48 and 153. -/
def Obligations.StepRowsComplete : Prop :=
  ∀ (s : State) (core : Fin 64) (mf : Fin 256) (no : Nat) (retry : Bool) (segs : List PlanSeg) (recs : List MemRec) (status : BitVec 16) (w : Agent)
    (node : Fin 64) (v : BitVec 64) (ok last : Bool),
    let m := mf.val
    let st := (s.gmodel m).step
    s.isFatal = false →
    (2 ≤ st.stage → exec (.stepBoundary mf) s = .next (s.boundary m false)) ∧
    (st.stage = 0 → (s.gmodel m).due = true → exec (.idleBoundary mf) s = .next (s.boundary m true)) ∧
    (∀ c, s.inHand core 11 = some c → (c.arg 0).toNat = m → s.mCore m = core.val →
      ((c.arg 1).toNat ≠ s.mStep m ∨ st.stage ≠ 1 ∨ st.commit.isSome = true → exec (.commit core) s = .next (s.finish core c 0x0A0C)) ∧
      ((c.arg 1).toNat = s.mStep m → st.stage = 1 → st.commit = none → s.mRole m ≠ 2 →
        let a := (s.setCmd core { c with phase := 2 }).setGStep m { st with commit := some (core.val, c.ticket), commitAt := s.time }
        (c.flags % 2 = 1 → exec (.commit core) s = .next (a.abandonStep m 0)) ∧
        (c.flags % 2 = 0 → st.faulted = true → exec (.commit core) s = .next (a.abandonStep m 0x0A40)) ∧
        (c.flags % 2 = 0 → st.faulted = false → exec (.commit core) s = .next a))) ∧
    (st.stage = 1 → st.commit.isSome = true → s.mRole m ≠ 2 →
      (s.commitReady m = true → exec (.commitPoint mf) s = .next (s.commitPoint m) ∧ ((s.commitPoint m).gmodel m).step.stage = 2 ∧
        ((s.commitPoint m).gmodel m).step.commit = none ∧ ((s.commitPoint m).gmodel m).step.segs = []) ∧
      (s.commitReady m = false → exec (.commitWaitExpiry mf) s = .next (s.abandonStep m 0x0A0D) ∧ ((s.abandonStep m 0x0A0D).gmodel m).step.stage = 3 ∧
        ((s.abandonStep m 0x0A0D).gmodel m).step.commit = none)) ∧
    (s.mRole m = 2 → s.mEn m = true → st.stage ≠ 1 → Gives (.planReceived mf no retry segs) s fun t =>
      (t.gmodel m).step.stage = 1 ∧ (t.gmodel m).step.no = no ∧ (t.gmodel m).step.segs.map (·.req) = segs.map (·.req) ∧
        (t.gmodel m).step.commit = none) ∧
    (s.mRole m = 2 → st.stage = 1 →
      (status ≠ 0 → exec (.commitRecordReceived mf status recs) s = .next ((s.abandonStep m status.toNat).setGStep m GStep.reset)) ∧
      (status = 0 → recs ≠ [] → Gives (.commitRecordReceived mf status recs) s fun t => (t.gmodel m).step = GStep.reset)) ∧
    (st.stage = 1 → s.mRole m = 1 →
      (ok = false → exec (.stepReadyReport mf ok last) s = .next (s.abandonStep m 0x0A0D)) ∧
      (ok = true → last = true → exec (.stepReadyReport mf ok last) s = .next (s.setGStep m { st with allReady := true })) ∧
      (ok = true → last = false → exec (.stepReadyReport mf ok last) s = .next s)) ∧
    (st.stage = 1 → s.mCore m = core.val → fld v 31 0 = st.no % 2 ^ 32 → fld v 59 56 ≤ 8 →
      let st1 := if st.phase = 0 then { st with phase := fld v 59 56 + 1 } else { st with phases := st.phases ++ [fld v 59 56] }
      exec (.sivKick (.core core) mf v) s = .next (State.phaseEnd m (st1.phases.length + 1)
        ((s.setGStep m st1).wr .SIV_KICK m 0 (v &&& Reg.mask .SIV_KICK [.RW])))) ∧
    (s.mCore m ≠ core.val → exec (.sivKick (.core core) mf v) s = .next (s.raiseProt 9 m (Reg.addr .SIV_KICK m 0))) ∧
    (∀ g, st.stage = 1 → st.phase = 1 → st.segs = [g] → g.kind = 0 → g.spec = 0 → g.ntok = 1 → g.res.rows = 0 →
      (∀ d mk, s.rowFor st (s.req g.req) 0 g.res.toks g.res.gst = some (d, mk) →
        let x := g.choose (s.req g.req) (bit st.siva 61) 0 d mk
        exec (.rowChoice mf 0 false) s = .next (State.phaseEnd m 16 ((((s.countReads st (s.req g.req) 0).countRow d).setSeg m 0 { g with res := { x with rows := 1, done := true } }).inc
          .SIV_DEADENDS 0 0 (if g.res.fin ≠ 2 ∧ x.fin = 2 then 1 else 0)))) ∧
      exec (.rowChoice mf 0 true) s = .next (State.sieveFault ((State.phaseEnd m 16 ((s.setSeg m 0 { g with res := { g.res with rows := 1, done := true } }).inc
        .SIV_DEADENDS 0 0 0)).noteReads 9 0 (st.rowReads (s.req g.req) 0) true) m)) ∧
    (st.stage = 1 → st.compact = true → let a := s.setGStep m { st with compact := false }
      exec (.kvCompactionDone mf true) s = .next (a.sieveFault m) ∧
      (s.rdF .SILO_PMQ_CFG (s.rdF .GLN_CTL 0 0 37 32) 0 63 61 = 5 → (∀ g ∈ st.segs, g.moves = []) → exec (.kvCompactionDone mf false) s = .next a) ∧
      (s.rdF .SILO_PMQ_CFG (s.rdF .GLN_CTL 0 0 37 32) 0 63 61 = 5 → s.mPPB m = 1 → ∀ g from_ to_ bs u, st.segs = [g] → g.moves = [(from_, to_)] →
        let n := (fld st.siva 9 0 + 1) * 64
        let at' := fun p => s.pageAddr (lget (s.req g.req).pages (p / s.mPT m) 0) + p % s.mPT m * n
        a.fetch .gleaner (at' from_) n false = .ok bs → a.put .gleaner (at' to_) bs false = .ok u →
          exec (.kvCompactionDone mf false) s = .next (u.inc .SIV_COMPACT 0 0 1))) ∧
    (Allowed s w .SIV_TREE m node → ∀ t, (okStat s).treeWrite m node v = some t → exec (.sivTreeWrite w mf node v) s = .next t) ∧
    (Allowed s w .SIV_TREE m node → (okStat s).treeWrite m node v = none → Gives (.sivTreeWrite w mf node v) s fun t =>
      t = { s with chf := t.chf, rstat := 2 }) ∧
    ∀ t, v.getLsbD 63 = false → s.treeWrite m node v = some t → t.rd .SIV_TREE m node = v &&& Reg.mask .SIV_TREE [.RW] ∧
      ∀ k, node.val < k → k < 64 → (t.rd .SIV_TREE m k).getLsbD 63 = false

/-! ### The riddle -/

/-- R407 to R429: jobs accepted or refused, routing, messages, rows, completion and time-outs. Rests also on the model's choices
of log entries 49, 70, 73, 128 and 152. -/
def Obligations.RiddleRowsComplete : Prop :=
  ∀ (s : State) (core : Fin 64) (x : Fin 16) (msg : RdlMsg),
    (∀ c, s.inHand core 10 = some c → c.ctx % 16 = x.val → s.isFatal = false →
      (s.rdF .RDL_CTX_CFG x 0 63 63 = 0 ∨ inCsram (c.arg 0).toNat 128 64 = false → ∀ o ∈ [Instr.route core, .combine core],
        exec o s = .next ((s.wrF .RDL_CTX_STATUS x 0 63 48 0x0B01).finish core c 0x0B01)) ∧
      (s.rdF .RDL_CTX_CFG x 0 63 63 = 1 → inCsram (c.arg 0).toNat 128 64 = true → (s.ctxJobs x).length < 4 →
        let j : RdlJob := ⟨s.rdl.no, x, core, c.ticket, s.load .csram (c.arg 0).toNat 128, 0, [], [], [], [], [], false⟩
        let a := (s.setCmd core { c with phase := 2 }).setRdl { s.rdl with no := s.rdl.no + 1, jobs := s.rdl.jobs ++ [j] }
        (j.op = 1 → a.jobOk j = false → exec (.route core) s = .next (a.jobFail j 0x0B01)) ∧
        (j.op = 1 → a.jobOk j = true → a.gateAll j = none → exec (.route core) s = .next
          ((a.noteReads 10 x ((List.range j.tlocal).map fun i => (.slice x, j.gate + i * j.gateRow, j.gateRow)) false).jobFail j 0x0B04)) ∧
        (j.op = 1 → a.jobOk j = true → ∀ rs, a.gateAll j = some rs →
          let j1 := { j with recs := [(a.rdlMember x, rs)] }
          let b := (State.rdlSend { a.countAt j.gate (j.tlocal * j.gateRow) with free := a.free + j.tlocal * 1024 } x (a.rdlGroup x)
            (jobNums j.ident ++ [a.rdlMember x, rs.length]) (rs.flatMap RRec.bytes)).setJob j1
          exec (.route core) s = .next ((b.stageLed j1 fun l => { l with assign := l.assign + j.tlocal * j.k }).drainEarly j1)) ∧
        (j.op = 2 → a.jobOk j = false → exec (.combine core) s = .next (a.jobFail j 0x0B01)) ∧
        (j.op = 2 → a.jobOk j = true → a.rdl.maps.find? (fun m => decide (m.ctx = x.val ∧ m.job.step = j.step ∧ m.job.layer = j.layer)) = none →
          let me := a.rdlMember x
          let j1 := { j with stage := 1, hdrs := [(me, 0)], rows := mput dNat [] me 0 }
          exec (.combine core) s = .next ((((a.setJob j1).sendHeaders j1 []).drainEarly j1).jobGo j1.no)) ∧
        (j.op = 2 → a.jobOk j = true → ∀ m r n d, a.rdl.maps.find? (fun m => decide (m.ctx = x.val ∧ m.job.step = j.step ∧ m.job.layer = j.layer)) = some m →
          let me := a.rdlMember x
          m.acc = [(r, n)] → m.recs = [(me, [r])] → (a.expertHome x r.e).1 = me →
          let j1 := { j with stage := 1, acc := m.acc, recs := m.recs, hdrs := [(me, 1)], rows := mput dNat [] me 1 }
          let b := (a.setJob j1).sendHeaders j1 [me]
          let y := (b.xtabOf j1 (b.expertHome x r.e).2).2.2 + n * j1.yrowBytes
          b.rowBytes x y j1.yrowBytes = some d →
            exec (.combine core) s = .next ((((b.countAt y j1.yrowBytes).landCombine j1 r.g r.j d).drainEarly j1).jobGo j1.no)))) ∧
    (∀ j0, let all := fun (j : RdlJob) => j.recs ++ j.inbox.filterMap fun m => match m.body with
        | .records _ rs => some (m.member, rs)
        | _ => none
      let full := fun (j : RdlJob) => j.stage = 0 ∧ ∀ m, m < s.rdlMembers x → ∃ p ∈ all j, p.1 = m
      (∃ pre post, s.ctxJobs x = pre ++ j0 :: post ∧ ∀ j ∈ pre, ¬ full j) → full j0 → 2 ≤ s.rdlMembers x →
      let recs := (List.range (s.rdlMembers x)).map fun m => (m, match (all j0).find? (fun p => decide (p.1 = m)) with
        | some p => p.2
        | none => [])
      let rs := recs.flatMap (·.2)
      let acc := (List.range j0.experts).flatMap fun e => acceptedOf (j0.capacity rs.length).2 e rs
      (∀ p ∈ acc, ¬ (j0.tbase ≤ p.1.g ∧ p.1.g < j0.tbase + j0.tlocal)) → Gives (.routingRecordsReceived x) s fun t =>
        t.rdl.maps = s.rdl.maps ++ [⟨x, j0.ident, acc, recs⟩] ∧ ∃ j ∈ t.rdl.jobs, j.no = j0.no ∧ j.stage = 1 ∧ j.acc = acc ∧ j.recs = recs) ∧
    (∀ c e (rs : List RRec), let a := acceptedOf c e rs
      a.length = min c (rs.filter fun r => decide (r.e = e)).length ∧ (∀ p ∈ a, p.1 ∈ rs ∧ p.1.e = e) ∧ a.map (·.2) = List.range a.length) ∧
    (∀ pre j post u m v, s.ctxJobs x = pre ++ j :: post → j.stage = 1 → j.inbox = u ++ m :: v →
      let j1 := { j with inbox := u ++ v }
      let first := fun (k : RdlMsg → Prop) => (∀ i ∈ pre, i.stage ≠ 1 ∨ ∀ y ∈ i.inbox, ¬ k y) ∧ ∀ y ∈ u, ¬ k y
      (∀ n, m.body = .header n → first (fun y => ∃ n, y.body = .header n) → exec (.dispatchHeaderArrival x) s = .next
        ((s.setJob { j1 with hdrs := j1.hdrs ++ [(m.member, n)] }).jobGo j.no)) ∧
      (∀ e r d sc, m.body = .row e r d sc → first (fun y => ∃ e r d sc, y.body = .row e r d sc) → exec (.dispatchRowArrival x) s = .next
        (((s.setJob (j1.landed m.member)).landRow (j1.landed m.member) e r d sc).jobGo j.no)) ∧
      (∀ g c d, m.body = .crow g c d → first (fun y => ∃ g c d, y.body = .crow g c d) → exec (.combineRowArrival x) s = .next
        (((s.setJob (j1.landed m.member)).landCombine (j1.landed m.member) g c d).jobGo j.no))) ∧
    (∀ j, (s.ctxJobs x).find? (fun j => decide (j.op = 1 ∧ j.stage = 2)) = some j → exec (.routeComplete x) s = .next (s.jobEnd j 0)) ∧
    (∀ j, (s.ctxJobs x).find? (fun j => decide (j.stage < 2)) = some j → exec (.rdlPeerTimeout x) s = .next (s.jobFail j 0x0B02)) ∧
    (∀ j status, (s.jobEnd j status).rdl.jobs = s.rdl.jobs.filter (fun y => decide (y.no ≠ j.no)) ∧
      (s.jobEnd j status).rdF .RDL_CTX_STATUS j.ctx 0 63 48 = status % 65536 ∧ (s.jobEnd j status).mem = s.mem) ∧
    (∀ j, (s.ctxJobs x).find? (fun j => j.ident.same msg.job) = some j → msg.clash j = true →
      exec (.riddleMessageArrival x msg) s = .next (s.jobFail j 0x0B03)) ∧
    (∀ j, (s.ctxJobs x).find? (fun j => j.ident.same msg.job) = some j → msg.clash j = false →
      exec (.riddleMessageArrival x msg) s = .next (s.setJob { j with inbox := j.inbox ++ [msg] })) ∧
    ((s.ctxJobs x).find? (fun j => j.ident.same msg.job) = none → let early := mget dNil s.rdl.early x
      ((∃ i ∈ mget dNil s.rdl.ended x, i.same msg.job = true) → exec (.riddleMessageArrival x msg) s = .next (s.inc .RDL_STALE_MSGS x 0 1)) ∧
      ((∀ i ∈ mget dNil s.rdl.ended x, i.same msg.job = false) → early.length < 64 → exec (.riddleMessageArrival x msg) s = .next
        (s.setRdl { s.rdl with early := mput dNil s.rdl.early x (early ++ [msg]) })) ∧
      ((∀ i ∈ mget dNil s.rdl.ended x, i.same msg.job = false) → 64 ≤ early.length → exec (.riddleMessageArrival x msg) s = .next s))

/-! ### The haywain -/

/-- R432 to R444, R463, R587: bring-up of a port, identity, keys, flits and going down. Rests also on the model's choices of log
entries 12, 50, 52, 53 and 150. -/
def Obligations.PortRowsComplete : Prop :=
  ∀ (s : State) (w : Agent) (p : Fin 24) (r flit : List Byte) (c : Nat) (v : BitVec 64) (tx rx : List Byte) (depths : List Nat),
    let x := s.hport p
    let st := s.rdF .HAY_PORT_STATUS p 0 3 0
    let ctl := s.rd .HAY_PORT_CTL p 0
    let e := s.rd .HAY_PORT_EXPECT p 0
    let topo := (s.rd .HAY_TOPO 0 0).toNat
    let stIs := fun (t : State) (n : Nat) => t.rdF .HAY_PORT_STATUS p 0 3 0 = n
    let cause := fun (t : State) => t.rdF .HAY_PORT_STATUS p 0 23 16
    let word := le flit 0 4
    let good := flit.length = 256 ∧ crc32 (flit.take 252) = le flit 252 4
    let got := (s.inc .HAY_PORT_FEC_CORR p 0 c).inc .HAY_PORT_RXFLITS p 0 1
    let mismatch := (bit e 63 = true ∧ (fld e 59 48 ≠ le r 0x10 2 % 4096 ∨ fld e 44 40 ≠ le r 6 1 % 32)) ∨ (topo ≠ 0 ∧ le r 0x18 8 ≠ 0 ∧ topo ≠ le r 0x18 8) ∨
      (fld e 15 0 ≠ 0 ∧ le r 0x12 2 ≠ 0 ∧ fld e 15 0 ≠ le r 0x12 2)
    let pair := fun (q : Nat) => s.rdF .HAY_PORT_STATUS p 0 23 16 = 8 ∧ q ≠ p.val ∧ s.rdF .HAY_PORT_STATUS q 0 3 0 = 3 ∧
      s.rdF .HAY_PORT_STATUS q 0 23 16 = 8 ∧ s.foundFor p q = true ∧ s.foundFor q p = true
    (Allowed s w .HAY_PORT_CTL p 0 → Gives (.portEnable w p true) s fun t =>
      stIs t (if st = 8 then 1 else st) ∧ bit (t.rd .HAY_PORT_CTL p 0) 63 = true ∧ t.mem = s.mem ∧ t.rstat = 0) ∧
    (Allowed s w .HAY_PORT_CTL p 0 → bit ctl 63 = true → exec (.portEnable w p false) s = .next (x.lost.foldl State.downPkt
      (((((okStat s).wrF .HAY_PORT_CTL p 0 63 63 0).setHport p { HPort.reset with light := x.light, lightAt := x.lightAt }).setHstate p 8).setCause p 11))) ∧
    (∀ k, s.downPkt k = if k.cls = 0 then s.originate { Pkt.mk0 4 1 k.slice k.src s.chip 0 [] with tag := k.tag, status := 0x0C03 } else s.mcastCheck k.own) ∧
    (Gives (.lightDetect p) s fun t => (t.hport p).light = true ∧ stIs t (if st = 0 then 1 else st) ∧ t.mem = s.mem) ∧
    (Gives (.lossOfLight p) s fun t => (t.hport p).light = false ∧ t.mem = s.mem ∧
      stIs t (if st = 7 ∨ st = 8 then st else 0) ∧ cause t = (if st = 7 ∨ st = 8 then cause s else 1)) ∧
    (Gives (.laneAlignment p) s fun t => stIs t (if st = 1 ∧ x.light = true then 2 else st) ∧ t.mem = s.mem) ∧
    (Gives (.trainTimeout p) s fun t => stIs t st ∧ cause t = (if st = 1 ∧ x.light = true then 4 else cause s) ∧ t.mem = s.mem) ∧
    (st = 2 ∨ st = 3 → x.replay.length < 1023 → Gives (.identityFlitSend p) s fun t =>
      (∃ f, (t.hport p).replay = x.replay ++ [f] ∧ f.kind = 3 ∧ f.seq = x.txSeq ∧ f.body.take 64 = s.identRecord p) ∧
        (t.hport p).txSeq = (x.txSeq + 1) % 1024 ∧ t.rd .HAY_PORT_TXFLITS p 0 = s.rd .HAY_PORT_TXFLITS p 0 + 1 ∧ t.mem = s.mem ∧
        (st = 3 ∨ x.seen = false → stIs t st) ∧ (st = 2 → x.seen = true → s.identBad p = true → stIs t 3 ∧ cause t = 8) ∧
        (st = 2 → x.seen = true → s.identBad p = false → stIs t (if x.holding then 2 else 5))) ∧
    (st = 2 ∨ st = 3 → le r 0 4 = 0x4E594148 → Gives (.identityFlitReceive p r) s fun t =>
      t.rd .HAY_PORT_PEERA p 0 = BitVec.ofNat 64 (le r 8 8) ∧ t.rdF .HAY_PORT_PEERB p 0 59 48 = le r 0x10 2 % 4096 ∧
        t.rdF .HAY_PORT_PEERB p 0 44 40 = le r 6 1 % 32 ∧ t.rdF .HAY_PORT_PEERB p 0 31 16 = le r 0x12 2 ∧ t.mem = s.mem ∧
        (st = 3 → stIs t 3) ∧ (st = 2 → le r 4 1 ≠ 1 → stIs t 4 ∧ cause t = 9) ∧
        (le r 4 1 = 1 → t.rdF .HAY_PORT_STATUS p 0 63 56 = 1 ∧ t.rdF .HAY_PORT_STATUS p 0 55 48 = min 3 (le r 5 1)) ∧
        (st = 2 → le r 4 1 = 1 → mismatch → stIs t 3 ∧ cause t = 8) ∧
        (st = 2 → le r 4 1 = 1 → ¬ mismatch → stIs t (if nbit (le r 7 1) 0 then 2 else 5))) ∧
    ((st ≠ 2 ∧ st ≠ 3) ∨ le r 0 4 ≠ 0x4E594148 → exec (.identityFlitReceive p r) s = .next s) ∧
    (Allowed s w .HAY_PORT_CTL p 0 → st = 3 → (∀ q, q < 24 → ¬ pair q) → Gives (.accept w p) s fun t => stIs t 5 ∧ t.rstat = 0 ∧ t.mem = s.mem ∧
      t.rdF .HAY_PORT_EXPECT p 0 59 48 = s.rdF .HAY_PORT_PEERB p 0 59 48 ∧ t.rdF .HAY_PORT_EXPECT p 0 44 40 = s.rdF .HAY_PORT_PEERB p 0 44 40 ∧
      (∀ k n, t.rd .HAY_RT k n = s.rd .HAY_RT k n) ∧ (∀ k n, t.rd .HAY_TG k n = s.rd .HAY_TG k n) ∧ ∀ k n, t.rd .HAY_MCG k n = s.rd .HAY_MCG k n) ∧
    (Allowed s w .HAY_PORT_CTL p 0 → st = 3 → ∀ q, q < 24 → pair q → (∀ o, o < q → ¬ pair o) → Gives (.accept w p) s fun t =>
      stIs t 5 ∧ t.rdF .HAY_PORT_STATUS q 0 3 0 = 5 ∧ t.rd .HAY_PORT_EXPECT p 0 = s.rd .HAY_PORT_EXPECT q 0 ∧ t.rd .HAY_PORT_EXPECT q 0 = e ∧
      t.rdF .HAY_TIME_CTL 0 0 12 8 = swapPort p q (s.rdF .HAY_TIME_CTL 0 0 12 8) ∧
      (∀ k n i, k < 16 → n < 1024 → i < 4 → fld (t.rd .HAY_RT k n) (16 * i + 4) (16 * i) = swapPort p q (fld (s.rd .HAY_RT k n) (16 * i + 4) (16 * i))) ∧
      (∀ k, k < 16 → t.rdF .HAY_TG k 0 20 16 = swapPort p q (s.rdF .HAY_TG k 0 20 16) ∧ t.rdF .HAY_TG k 0 28 24 = swapPort p q (s.rdF .HAY_TG k 0 28 24)) ∧
      (∀ k, k < 64 → t.rdF .HAY_MCG k 0 57 53 = swapPort p q (s.rdF .HAY_MCG k 0 57 53) ∧
        ∀ i, i < 24 → bit (t.rd .HAY_MCG k 0) i = bit (s.rd .HAY_MCG k 0) (swapPort p q i))) ∧
    (Allowed s w .HAY_PORT_CTL p 0 → bit ctl 8 = false → st ≠ 8 → Gives (.retrain w p) s fun t => t.mem = s.mem ∧ t.rstat = 0 ∧
      (st = 4 ∨ st = 7 → s.isFenced 8 p = false → stIs t 1) ∧ (st = 4 ∨ st = 7 → s.isFenced 8 p = true → stIs t st ∧ cause t = 12) ∧
      (st ≠ 4 → st ≠ 7 → stIs t st)) ∧
    (Allowed s w .HAY_PORT_EXPECT p 0 → s.hasp.wrq = [] → Gives (.expectWrite w p v) s fun t =>
      t.rd .HAY_PORT_EXPECT p 0 = v &&& Reg.mask .HAY_PORT_EXPECT [.RW] ∧ stIs t (if st = 3 then 2 else st) ∧ t.rstat = 0) ∧
    (st = 5 → Gives (.keyingComplete p (some (tx, rx)) depths) s fun t => stIs t 6 ∧ t.rdF .HAY_PORT_STATUS p 0 8 8 = 1 ∧
      (t.hport p).txKey = tx ∧ (t.hport p).rxKey = rx ∧ (t.hport p).keygen = (x.keygen + 1) % 2 ^ 32 ∧ (t.hport p).replay = [] ∧
      (∀ q, 1 ≤ q → q ≤ 9 → mget dNat (t.hport p).cr q = lget depths (q - 1) 0) ∧
      ∀ q, mget dNil (t.hport p).queues q = (x.sent.map (·.2)).filter (fun k => decide (k.queue = q)) ++ mget dNil x.queues q) ∧
    (st = 5 → exec (.keyingComplete p none depths) s = .next (s.hayDown p 10)) ∧
    (st = 6 → exec (.controlFlitTimeout p) s = .next (s.hayDown p 7)) ∧
    (∀ n, (∀ k ∈ x.lost, k.cls = 0 ∨ k.own.1 = 0) → stIs (s.hayDown p n) 7 ∧ cause (s.hayDown p n) = n % 256 ∧ ((s.hayDown p n).hport p).replay = [] ∧
      ((s.hayDown p n).hport p).queues = [] ∧ (s.hayDown p n).isFenced 8 p = true ∧
      (s.hayDown p n).hay.orig = s.hay.orig ++ (x.lost.filter fun k => decide (k.cls = 0)).map fun k =>
        { Pkt.mk0 4 1 k.slice k.src s.chip 0 [] with tag := k.tag, status := 0x0C03 }) ∧
    (st = 6 → x.replay.length < 1023 → Gives (.controlFlitSend p) s fun t =>
      let iv := beBytes 4 x.keygen ++ beBytes 8 x.txBlock
      let head := natToBytes 4 (x.txSeq * 2 ^ 22 + x.ackSeq * 2 ^ 12 + 2 * 2 ^ 10 + x.nak.toNat * 2 ^ 9)
      (∃ f b, (t.hport p).replay = x.replay ++ [f] ∧ f.kind = 2 ∧ f.seq = x.txSeq ∧
        ((if x.open_ = [] then List.replicate 16 0 else gcmTag x.txKey iv (head ++ b) (gcmCrypt x.txKey iv x.open_.flatten)) ++ b) <+: f.body) ∧
        (t.hport p).owed = [] ∧ (t.hport p).open_ = [] ∧ (t.hport p).txBlock = x.txBlock + (if x.open_ = [] then 0 else 1) ∧
        t.rd .HAY_PORT_TXFLITS p 0 = s.rd .HAY_PORT_TXFLITS p 0 + 1) ∧
    (st ≠ 2 → st ≠ 3 → st ≠ 6 → ∀ lost, exec (.linkFlitReceive p flit c lost) s = .next s) ∧
    (st = 2 ∨ st = 3 → good → exec (.linkFlitReceive p flit c false) s =
      .next (if nbits word 11 10 = 3 then got.identReceive p (((flit.drop 4).take 248).take 64) else got)) ∧
    (st = 6 → good → nbits word 11 10 = 0 → nbit word 9 = false → nbits word 31 22 = x.rxSeq → Gives (.linkFlitReceive p flit c false) s fun t =>
      (t.hport p).rxSeq = (x.rxSeq + 1) % 1024 ∧ (t.hport p).block = x.block ++ [(nbit word 8, (flit.drop 4).take 248)] ∧
        (∀ f ∈ (t.hport p).replay, f ∈ x.replay) ∧ t.rd .HAY_PORT_RXFLITS p 0 = s.rd .HAY_PORT_RXFLITS p 0 + 1 ∧ stIs t 6 ∧
        ∀ q, mget dNat (t.hport p).cr q = mget dNat x.cr q + (if q = nbits word 7 4 ∧ 1 ≤ q ∧ q ≤ 9 then nbits word 3 0 else 0)) ∧
    (st = 6 → good → nbits word 11 10 = 2 → nbit word 9 = false → nbits word 31 22 = x.rxSeq → x.block = [] → nbits word 7 4 = 0 →
      (∀ i, i < 9 → le ((flit.drop 4).take 248) (0x1C + 2 * i) 2 = mget dNat x.crBack (i + 1) % 65536) → Gives (.linkFlitReceive p flit c false) s fun t =>
        (t.hport p).rxSeq = (x.rxSeq + 1) % 1024 ∧ (t.hport p).ackSeq = x.rxSeq ∧ (t.hport p).nak = false ∧ (t.hport p).rxq = x.rxq ∧ stIs t 6) ∧
    (st = 2 ∨ st = 3 ∨ st = 6 → ∀ lost, lost = true ∨ ¬ good →
      (x.badSeq ≠ some x.rxSeq → Gives (.linkFlitReceive p flit c lost) s fun t => (t.hport p).nak = true ∧ (t.hport p).badSeq = some x.rxSeq ∧
        (t.hport p).rxSeq = (x.ackSeq + 1) % 1024 ∧ (t.hport p).block = [] ∧ t.rd .HAY_PORT_CRC_ERR p 0 = s.rd .HAY_PORT_CRC_ERR p 0 + 1) ∧
      (x.badSeq = some x.rxSeq → exec (.linkFlitReceive p flit c lost) s = .next ((got.inc .HAY_PORT_CRC_ERR p 0 1).hayDown p 5)))

/-- R447, R448, R451, R459 to R462, R465 to R470: packets routed, tags, reductions, multicasts and rack time. Rests also on the
model's choices of log entries 12, 54, 55, 154 and 155. -/
def Obligations.FabricRowsComplete : Prop :=
  ∀ (s : State) (w : Agent) (p : Fin 24) (k : Pkt) (ks : List Pkt) (tag : Fin 4096) (q : Fin 16) (e : QEnt) (ph : BitVec 16) (v : BitVec 64) (ref : Bool),
    let g := s.rd .HAY_MCG k.group 0
    let live := s.ringReady .hay q = some e ∧ e.hayBad = false ∧ s.rdF .HAY_MCG (e.arg 3 % 64) 0 63 63 = 1 ∧
      s.rangeBad e.owner (e.arg 0) (e.arg 2) false = 0 ∧ e.arg 0 + e.arg 2 ≤ 0xA000000000 ∧ s.media (e.arg 0) (.silo (e.arg 0)) (e.arg 2) false = 0
    let run := (s.setRingEnt .hay q { e with sub := 1 })
    let ctl := s.rd .HAY_TIME_CTL 0 0
    ((s.hport p).rxq = [] → exec (.packetRoute (some p)) s = .next s.egressAll) ∧
    ((s.hport p).rxq = k :: ks → s.isFatal = true → exec (.packetRoute (some p)) s =
      .next ((if k.tr = true ∧ s.ctxOfSlice k.slice = none then (s.takeRx p).arrivePkt p k else (s.takeRx p).refusePkt (some p.val) k)).egressAll) ∧
    ((s.hport p).rxq = k :: ks → s.isFatal = false → k.tr = false → (k.typ = 7 ∨ k.typ = 8) → exec (.packetRoute (some p)) s = .next s.egressAll) ∧
    ((s.hport p).rxq = k :: ks → s.isFatal = false → (k.tr = true ∨ (k.typ ≠ 7 ∧ k.typ ≠ 8)) →
      exec (.packetRoute (some p)) s = .next ((s.takeRx p).arrivePkt p k).egressAll) ∧
    (s.hay.orig = [] → exec (.packetRoute none) s = .next (s.setHay { s.hay with msgs := s.hay.msgs.drop 1 }).egressAll) ∧
    (s.hay.orig = k :: ks → exec (.packetRoute none) s = .next (State.routePkt (s.setHay { s.hay with orig := ks }) none k).egressAll) ∧
    (k.typ < 6 → k.dst = s.chip → ∀ ing, s.routePkt ing k = s.deliverPkt ing k) ∧
    (k.typ < 6 → k.dst ≠ s.chip → s.ctxOfSlice k.slice = none → ∀ ing, s.routePkt ing k = s.refusePkt ing k) ∧
    (k.typ < 6 → k.dst ≠ s.chip → ∀ x, s.ctxOfSlice k.slice = some x → ∀ ing,
      let r := s.rd .HAY_RT x (k.dst / 4)
      let i := 16 * (k.dst % 4)
      let m := fld r (i + 13) (i + 12)
      (bit r (i + 15) = true → s.routePkt ing k = s.enqPort (fld r (i + 4) i) { k with
        tr := bit r (i + 14), set := decide (m = 2) || (decide (m ≠ 1) && ing.isSome && k.set) }) ∧
      (bit r (i + 15) = false → s.routePkt ing k = s.refusePkt ing k)) ∧
    (s.hay.ctags.find? (fun t => decide (t.tag = tag.val)) = none → exec (.gatewayTagTimeout tag) s = .next
      (s.setHay { s.hay with tags := s.hay.tags.filter fun t => decide (t.tag ≠ tag.val) })) ∧
    (∀ t, s.hay.ctags.find? (fun t => decide (t.tag = tag.val)) = some t → exec (.gatewayTagTimeout tag) s = .next (s.coreAnswer t 4 0x0C03 [])) ∧
    (∀ group rid rop chunk src data, s.hay.blocks.find? (fun b => decide (b.group = group ∧ b.rid = rid)) = none → 16 ≤ s.hay.blocks.length →
      s.redTake group rid rop chunk src data = none) ∧
    (∀ b c src data, s.hay.blocks.find? (fun x => decide (x.group = b.group ∧ x.rid = b.rid)) = some b → b.chunks.find? (fun x => decide (x.idx = c.idx)) = some c →
      c.from_ = [src] → c.vals ≠ [] → c.vals.length = (chunkVals b.rop data).length → ∃ t, t.csr = s.csr ∧ t.mem = s.mem ∧
        s.redTake b.group b.rid b.rop c.idx src data = some (t, some (chunkBytes b.rop ((List.range c.vals.length).map fun i =>
          redOne b.rop (lget c.vals i 0) (lget (chunkVals b.rop data) i 0))))) ∧
    (s.rxHead p 7 = none → exec (.reduceContribution p) s = .next s) ∧ (s.rxHead p 8 = none → exec (.resultArrival p) s = .next s) ∧
    (s.rxHead p 7 = some k → bit g 63 = false ∨ fld g 47 32 ≠ k.slice ∨ nbit (fld g 23 0) p = false →
      exec (.reduceContribution p) s = .next ((s.takeRx p).refusePkt (some p.val) k)) ∧
    (s.rxHead p 8 = some k → bit g 63 = false ∨ fld g 47 32 ≠ k.slice ∨ fld g 57 53 ≠ p.val →
      exec (.resultArrival p) s = .next ((s.takeRx p).refusePkt (some p.val) k)) ∧
    (s.rxHead p 7 = some k → bit g 63 = true → fld g 47 32 = k.slice → nbit (fld g 23 0) p = true →
      (s.redTake k.group k.rid k.rop k.chunk p k.data = none → exec (.reduceContribution p) s = .next s) ∧
      (∀ t, s.redTake k.group k.rid k.rop k.chunk p k.data = some (t, none) → exec (.reduceContribution p) s = .next (t.takeRx p)) ∧
      (∀ t d, s.redTake k.group k.rid k.rop k.chunk p k.data = some (t, some d) →
        exec (.reduceContribution p) s = .next (State.redOut 65536 (t.takeRx p) k.group k.rid k.rop k.chunk d))) ∧
    (s.rxHead p 8 = some k → bit g 63 = true → fld g 47 32 = k.slice → fld g 57 53 = p.val →
      let a := (((s.takeRx p).treePorts k.group).filter (· ≠ p.val)).foldl (fun a q => a.enqPort q k) (s.takeRx p)
      (bit g 62 = false → exec (.resultArrival p) s = .next (a.redSweep k.group k.rid)) ∧
      (bit g 62 = true → ∀ t, a.redWrite k.group k.rid k.chunk k.data = (t, none) → exec (.resultArrival p) s = .next (t.redSweep k.group k.rid)) ∧
      (bit g 62 = true → ∀ t r c, a.redWrite k.group k.rid k.chunk k.data = (t, some (r, c)) → exec (.resultArrival p) s = .next (t.redLocal r c))) ∧
    (live → e.opc = 1 → exec (.mcastSend q) s = .next ((List.range (ceilDiv (e.arg 2) 3936)).foldl (fun a i =>
      let len := min 3936 (e.arg 2 - 3936 * i)
      a.originate { Pkt.mk0 6 2 (s.rdF .HAY_MCG (e.arg 3 % 64) 0 47 32) 0 a.chip len (a.load .silo (e.arg 0 + 3936 * i) len) with
        group := e.arg 3 % 64, addr := e.arg 1 + 3936 * i, own := (q + 1, e.id) }) (run.countSilo .SILO_RD_BYTES (e.arg 0) (e.arg 2)))) ∧
    (s.ringReady .hay q = some e → (e.hayBad = true ∨ s.rdF .HAY_MCG (e.arg 3 % 64) 0 63 63 = 0) → exec (.mcastSend q) s = .next (s.ringDone .hay q e.id 0x0C05 0)) ∧
    ((∀ r ∈ s.hay.reds, r.ring = q.val → r.waits = []) → s.redRetry q = s) ∧
    ((∀ r ∈ s.hay.reds, r.ring = q.val → r.waits = []) → live → e.opc = 2 → s.rangeBad e.owner (e.arg 1) (e.arg 2) true = 0 → e.arg 1 + e.arg 2 ≤ 0xA000000000 →
      let r : RedOp := ⟨q, e.id, e.fn, e.arg 3 % 64, nbits (e.arg 3) 31 16, nbits (e.arg 3) 9 8, e.arg 0, e.arg 1, e.arg 2, [], []⟩
      let a := State.countSilo (run.setHay { run.hay with reds := run.hay.reds ++ [r] }) .SILO_RD_BYTES (e.arg 0) (e.arg 2)
      (s.rdF .HAY_MCG r.group 0 62 62 = 0 → exec (.reduce q) s = .next a) ∧
      (s.rdF .HAY_MCG r.group 0 62 62 = 1 → exec (.reduce q) s = .next ((List.range (min 64 (ceilDiv r.len 3936))).foldl (fun b c => b.redLocal r c) a))) ∧
    (∀ r c, let taken := s.redTake r.group r.rid r.rop c 24 (s.load .silo (r.src + 3936 * c) (min 3936 (r.len - 3936 * c)))
      (∀ t d, taken = some (t, some d) → s.redLocal r c = State.redOut 65536 t r.group r.rid r.rop c d) ∧
      (∀ t, taken = some (t, none) → s.redLocal r c = t) ∧ (taken = none → s.redLocal r c = s.redHold r.group r.rid c)) ∧
    (s.hay.reds.find? (fun r => decide (r.ring = q.val)) = none → exec (.reduceTimeout q) s = .next s) ∧
    (∀ r, s.hay.reds.find? (fun r => decide (r.ring = q.val)) = some r → exec (.reduceTimeout q) s = .next (State.ringDone (s.setHay { s.hay with
      reds := s.hay.reds.filter fun x => decide (x.ent ≠ r.ent ∨ x.ring ≠ q.val)
      blocks := s.hay.blocks.filter fun b => decide (b.group ≠ r.group ∨ b.rid ≠ r.rid) }) .hay q r.ent 0x0C04 0)) ∧
    (fld ctl 1 0 ≠ 0 → exec (.racktickEdge ph) s = .next s) ∧
    (fld ctl 1 0 = 0 → s.hay.edgeAt = 0 ∨ s.rdF .HAY_TIME_STATUS 0 0 1 1 = 1 ∨ (s.hay.edgeAt - 1 + 156250 ≤ s.hay.ref + 4 ∧ s.hay.ref ≤ s.hay.edgeAt - 1 + 156250 + 4) →
      Gives (.racktickEdge ph) s fun t => t.hay.frame = (s.hay.frame + 1) % 2 ^ 48 ∧ t.hay.edgeAt = s.hay.ref + 1 ∧
        t.rdF .HAY_TIME_STATUS 0 0 47 32 = ph.toNat ∧ t.rdF .HAY_TIME_STATUS 0 0 1 1 = 0 ∧ t.mem = s.mem ∧
        t.rdF .HAY_TIME_STATUS 0 0 0 0 = (if s.time = s.hay.frame * 156250 then 1 else 0) ∧
        (s.time + 65536 < s.hay.frame * 156250 → t.time = s.hay.frame * 156250 % 2 ^ 64 ∧ t.hay.dev = 0) ∧
        (s.hay.frame * 156250 ≤ s.time + 65536 → t.time = s.time ∧ t.hay.dev = (s.time : Int) - (s.hay.frame * 156250 : Nat))) ∧
    (fld ctl 1 0 = 0 → s.hay.edgeAt ≠ 0 → (s.hay.ref + 4 < s.hay.edgeAt - 1 + 156250 ∨ s.hay.edgeAt - 1 + 156250 + 4 < s.hay.ref) →
      s.rdF .HAY_TIME_STATUS 0 0 1 1 = 0 → exec (.racktickEdge ph) s = .next (s.inc .HAY_TIME_BADTICKS 0 0 1)) ∧
    (Allowed s w .HAY_TIME_FRAME 0 0 → Gives (.hayTimeFrameWrite w v) s fun t => t.hay.frame = fld v 47 0 ∧ t.time = s.time ∧ t.mem = s.mem ∧ t.rstat = 0) ∧
    (fld ctl 1 0 = 0 → bit ctl 2 = true → s.rdF .HAY_PORT_STATUS (fld ctl 12 8) 0 3 0 = 6 → Gives (.refLoss ref) s fun t =>
      t.rdF .HAY_TIME_CTL 0 0 1 0 = 1 ∧ t.rdF .HAY_TIME_STATUS 0 0 2 2 = 1 ∧ t.rdF .HAY_TIME_STATUS 0 0 3 3 = s.rdF .HAY_TIME_STATUS 0 0 3 3 ∧ t.mem = s.mem) ∧
    (fld ctl 1 0 ≠ 0 → bit ctl 2 = true → Gives (.refLoss true) s fun t => t.rdF .HAY_TIME_CTL 0 0 1 0 = 0 ∧ t.hay = s.hay ∧ t.mem = s.mem) ∧
    (bit ctl 2 = false ∨ (fld ctl 1 0 = 0 ∧ s.rdF .HAY_PORT_STATUS (fld ctl 12 8) 0 3 0 ≠ 6) ∨ (fld ctl 1 0 ≠ 0 ∧ ref = false) → Gives (.refLoss ref) s fun t => t.rdF .HAY_TIME_STATUS 0 0 3 3 = 1 ∧ t.rdF .HAY_TIME_STATUS 0 0 0 0 = 0 ∧
      t.rdF .HAY_TIME_STATUS 0 0 2 2 = 1 ∧ t.rd .HAY_TIME_CTL 0 0 = ctl ∧ t.mem = s.mem) ∧
    (Gives .tickLost s fun t => t.rdF .HAY_TIME_STATUS 0 0 1 1 = 1 ∧ t.rdF .HAY_TIME_STATUS 0 0 0 0 = 0 ∧ t.hay.dev = 0 ∧ t.time = s.time ∧ t.mem = s.mem) ∧
    (Gives .refReturn s fun t => t.rdF .HAY_TIME_STATUS 0 0 3 3 = 0 ∧ t.rdF .HAY_TIME_STATUS 0 0 2 2 = 0 ∧ t.hay = s.hay ∧ t.mem = s.mem)

/-! ### Power and cooling -/

/-- R473 to R477, R479, R480, R482 to R484, R486 to R492, R494, R495: samples, steps, pins, heartbeat, voltage, heat and deep idle.
Rests also on the model's choices of log entries 56, 114 and 115. -/
def Obligations.PowerRowsComplete : Prop :=
  ∀ (s : State) (w : Agent) (watts dyn oth : BitVec 13) (rise : Fin 4) (lv : Fin 8) (mv : BitVec 17) (c : StepChg),
    let p := s.pwr
    let x := s.calPower watts.toNat
    let on := s.loft.off = false ∧ p.tripped = false
    let T := s.rdF .PWR_THERM 0 0 7 0 * 10 + 1000
    let v := s.ladderTemp
    let cal := ((mv.toNat : Int) + s.calOff 3).toNat
    let record := fun (t : State) (src code sev : Nat) => ∃ r ∈ mget dNil t.chf.errq src, r.code = code ∧ r.sev = sev
    (on → Gives (.powerSample watts rise) s fun t =>
      t.pwr.thr = (if 3900 < x then 16 else if p.cap < x then min 16 (p.thr + rise.val + 1)
        else if x * 100 < p.cap * 95 ∧ p.low10 = 9 then max p.least (p.thr - 1) else p.thr) ∧
      t.pwr.cap = max 700 s.leastCap ∧ t.pwr.floor = decide (s.leastCap < 700) ∧ t.pwr.step = p.step ∧ t.mem = s.mem ∧
      t.rd .PWR_ENERGY_MJ 0 0 = s.rd .PWR_ENERGY_MJ 0 0 + BitVec.ofNat 64 ((p.uj + x) / 1000) ∧
      t.rd .PWR_HOLD_US 0 0 = s.rd .PWR_HOLD_US 0 0 + BitVec.ofNat 64 p.hold.toNat) ∧
    (s.svcUp = true → p.chg = none → p.halted = false → p.tripped = false → Gives (.dvfsTick dyn oth) s fun t =>
      t.pwr.step = p.step ∧ t.pwr.msSum = 0 ∧ t.pwr.msN = 0 ∧ t.csr = s.csr ∧ t.mem = s.mem ∧
      let top := min (s.rdF .PWR_DVFS 0 0 20 16) t.pwr.ceil
      let lo := min (s.rdF .PWR_DVFS 0 0 4 0) top
      let fits := fun n => oth.toNat * stepPow p.step + dyn.toNat * stepPow n ≤ p.cap * stepPow p.step
      ∀ n, lo ≤ n → n ≤ top → (n = lo ∨ fits n) → (∀ m, n < m → m ≤ top → ¬ fits m) →
        t.pwr.chg = if n = p.step then none else some ⟨n, p.step, dyn.toNat, oth.toNat⟩) ∧
    (p.chg ≠ none ∨ p.halted = true ∨ p.tripped = true → Gives (.dvfsTick dyn oth) s fun t => t.pwr.chg = p.chg ∧ t.pwr.step = p.step ∧ t.csr = s.csr ∧ t.mem = s.mem) ∧
    (s.svcUp = false → Gives (.dvfsTick dyn oth) s fun t => t.pwr.chg = p.chg ∧ t.pwr.step = p.step ∧ t.mem = s.mem) ∧
    (p.chg = some c → Gives .stepChangeComplete s fun t => t.pwr.step = c.to_ ∧ t.pwr.chg = none ∧ t.csr = s.csr ∧ t.mem = s.mem ∧
      let fits := fun l => 16 * c.oth * stepPow c.from_ + c.dyn * stepPow c.to_ * (16 - l) ≤ 16 * p.cap * stepPow c.from_
      (s.svcUp = false → t.pwr.thr = p.thr) ∧
      (s.svcUp = true → ∀ l, l ≤ 16 → (fits l ∨ l = 16) → (∀ m, m < l → ¬ fits m) → t.pwr.thr = max p.least (min p.thr l))) ∧
    (p.chg = none → exec .stepChangeComplete s = .next s) ∧
    (Gives (.pcapChange lv) s fun t => t.pwr.pcap = lv ∧ t.pwr.cap = p.cap ∧ t.csr = s.csr ∧ t.mem = s.mem) ∧
    (Allowed s w .PWR_HB 0 0 → Gives (.heartbeat w) s fun t => t.pwr.orphan = false ∧ t.pwr.cap = p.cap ∧ t.rstat = 0 ∧ t.mem = s.mem) ∧
    (on → s.isReady = true → p.orphan = false → Gives .orphaned s fun t => t.pwr.orphan = true ∧ record t 12 0x0D05 1 ∨
      t.pwr.orphan = true ∧ 6 ≤ (mget dNil s.chf.errq 12).length) ∧
    (on → p.sag = false → cal < 44000 → mv.toNat ≤ 60000 → (cal < 38000 → p.lowN < 99) → Gives (.inputVoltageAverage mv) s fun t =>
      t.pwr.sag = true ∧ t.loft.mv = mv.toNat ∧ t.pwr.halted = p.halted ∧ t.mem = s.mem) ∧
    (on → p.sag = true → 45000 ≤ cal → mv.toNat ≤ 60000 → Gives (.inputVoltageAverage mv) s fun t =>
      t.pwr.sag = decide (p.sagGood ≠ 999) ∧ t.pwr.lowN = 0 ∧ t.mem = s.mem) ∧
    (on → p.halted = false → (cal < 38000 ∧ p.lowN = 99) ∨ (60000 < mv.toNat ∧ p.highN = 99) → Gives (.inputVoltageAverage mv) s fun t =>
      t.pwr.halted = true ∧ t.pwr.thr = 16 ∧ record t 12 0x0D02 3) ∧
    (on → (mget dNil s.chf.errq 12).length < 6 → (Gives .coolantHot s fun t => record t 12 0x0D07 1 ∧ t.pwr = p ∧ t.mem = s.mem) ∧
      Gives .coolantFlowLow s fun t => record t 12 0x0D06 1 ∧ t.pwr = p ∧ t.mem = s.mem) ∧
    (on → Gives .thermalLadderEval s fun t => t.pwr.tj = v ∧ t.pwr.thr = max t.pwr.least p.thr ∧ t.mem = s.mem ∧
      t.pwr.ladder = if T + 100 ≤ v ∨ (3 ≤ p.ladder ∧ T + 100 ≤ v + 30) then 3 else if T + 50 ≤ v ∨ (2 ≤ p.ladder ∧ T + 50 ≤ v + 30) then 2
        else if T ≤ v ∨ (1 ≤ p.ladder ∧ T ≤ v + 30) then 1 else 0) ∧
    (on → s.atTrip = true → Gives .thermtrip s fun t => t.pwr.tripped = true ∧ t.loft.ended = true ∧ t.mem.silo = [] ∧ t.mem.gran = s.mem.gran ∧
      t.mem.host = s.mem.host ∧ t.arr = .reset ∧ t.time = s.time) ∧
    (Allowed s w .PWR_IDLE 0 0 → p.idle = 0 → s.isIdle = true → Gives (.deepIdleRequest w) s fun t => t.pwr.idle = 2 ∧ t.mem = s.mem) ∧
    (Allowed s w .PWR_IDLE 0 0 → p.idle = 2 → Gives (.deepIdleExit w) s fun t => t.pwr.idle = 3 ∧ t.rdF .PWR_IDLE 0 0 1 0 = 0 ∧ t.rstat = 0 ∧ t.mem = s.mem) ∧
    (Allowed s w .PWR_IDLE 0 0 → p.idle ≠ 0 ∨ s.isIdle = false → exec (.deepIdleRequest w) s = .next (okStat s)) ∧
    (Allowed s w .PWR_IDLE 0 0 → p.idle ≠ 2 → exec (.deepIdleExit w) s = .next (okStat s)) ∧
    (p.tripped = true ∨ s.loft.off = true → ∀ x ∈ [Instr.powerSample watts rise, .orphaned, .coolantHot, .coolantFlowLow, .thermalLadderEval, .thermtrip],
      exec x s = .next s) ∧
    (on → s.atTrip = false → exec .thermtrip s = .next s) ∧
    (Gives .deepIdleReady s fun t => t.pwr.idle = (if p.idle = 3 then 0 else p.idle) ∧ t.csr = s.csr ∧ t.mem = s.mem)

/-! ### The chaff -/

/-- R500, R503, R505, R509 to R512, R514 to R520: records, interrupts, self-tests, the fence map, bin scrub and ledgers. Rests
also on the model's choices of log entries 58, 59, 111, 112 and 158. -/
def Obligations.ChaffRowsComplete : Prop :=
  ∀ (s : State) (w : Agent) (u : Fin 16896) (a : Fin 262144) (g : Fin 16) (rv : List BankReq) (n : Nat) (e : ErrRec) (es : List ErrRec) (i : Fin 65536)
    (led : Fin 6) (x y : Nat) (v : BitVec 64),
    let r := { e with seq := s.chf.seqNo, supp := mget dNat s.chf.supp n }
    let test := mget dNat s.chf.tests u
    let sev := fun (t : State) (x : Reg) => t.rd x 0 0 = s.rd x 0 0 + 1
    let taken := s.setChf { s.chf with
      errq := mput dNil s.chf.errq n es, supp := mput dNat s.chf.supp n 0, ptr := (n + 1) % 16, seqNo := (s.chf.seqNo + 1) % 2 ^ 64 }
    let busy := fun (t : State) => match t.plotOf (cuInst u) with
      | some p => (t.plot p).runs.any fun r => decide (r.status ≠ 0)
      | none => false
    let mark := fun (t : State) (k : Nat) => t.setChf { t.chf with tests := mput dNat t.chf.tests u k }
    let gran := a.val / 4 * 4
    let place := cePlace 1 (u * 0x10000 + gran / 64 * 16 + a.val / 4 % 16)
    let row := bankOf gran * 256 + rowOf gran
    let recent := (mget dNil (s.mu u).ceRow row).filter fun t => decide (s.time < t + 13500000000000)
    (s.errSource = none → exec .errorRecordAppend s = .next s) ∧
    (s.errSource = some n → mget dNil s.chf.errq n = e :: es → Gives .errorRecordAppend s fun t =>
      (e.sev < 3 → mget dNil t.chf.errq n = es ∧ mget dNat t.chf.supp n = 0 ∧ t.chf.ptr = (n + 1) % 16 ∧ t.chf.seqNo = (s.chf.seqNo + 1) % 2 ^ 64) ∧
      (e.sev = 1 → sev t .CHF_TRANSIENT) ∧ (e.sev = 2 → sev t .CHF_LASTING) ∧
      (e.sev < 3 → s.ringEnabled = false → s.chf.store.length < 256 → t.chf.store = s.chf.store ++ [r] ∧ t.mem = s.mem) ∧
      (e.sev = 2 → [r.toBytes] <:+ t.loft.log) ∧
      (e.sev = 3 → e.code = 0x0D02 → t.rdF .CHF_STATUS 0 0 63 63 = 1 ∧ t.rdF .CHF_STATUS 0 0 62 62 = 0 ∧ t.rdF .CHF_STATUS 0 0 47 32 = 0x0D02)) ∧
    (s.errSource = some n → mget dNil s.chf.errq n = e :: es → e.sev = 3 → exec .errorRecordAppend s = .next
      (((((((taken.inc .CHF_FATAL 0 0 1).keepRec r).logAppend [r.toBytes]).platEvent ⟨0, r.code, true, true, r.toBytes⟩).fatalAppend r)).chfSignal 3)) ∧
    (e.code ≠ 0x0D02 → e.code ≠ 0x0D08 →
      let acts := State.fatalActs (((s.wrF .CHF_STATUS 0 0 63 63 1).wrF .CHF_STATUS 0 0 62 62 0).wrF .CHF_STATUS 0 0 47 32 e.code) e.src
      s.fatalAppend e = acts.logAppend acts.ringDump) ∧
    (Gives .errorInterruptTimer s fun t => (s.rdF .CHF_CTL 0 0 59 59 = 1 → t.chf.unsig = 0) ∧ t.chf.errq = s.chf.errq ∧ t.chf.store = s.chf.store) ∧
    (test = 0 → (s.tile (cuInst u)).fenced = false → s.plotOf (cuInst u) = none → Gives (.unitSelfTest u) s fun t =>
      mget dNat t.chf.tests u = 2 ∧ t.csr = s.csr ∧ t.mem = s.mem) ∧
    (test = 0 → (s.tile (cuInst u)).fenced = true → exec (.unitSelfTest u) s = .next s) ∧
    (test = 0 → (s.tile (cuInst u)).fenced = false → ∀ p, s.plotOf (cuInst u) = some p →
      let b := s.abortRun p (s.tile (cuInst u)).epoch 0x0E01
      exec (.unitSelfTest u) s = .next (mark b (if busy b then 1 else 2))) ∧
    (test = 1 → exec (.unitSelfTest u) s = .next (if busy s then s else mark s 2)) ∧ (2 ≤ test → exec (.unitSelfTest u) s = .next s) ∧
    (test = 2 → Gives (.selfTestEnd u true) s fun t => mget dNat t.chf.tests u = 0 ∧ (t.tile (cuInst u)).fenced = (s.tile (cuInst u)).fenced ∧
      t.csr = s.csr ∧ t.mem = s.mem) ∧
    (test = 2 → exec (.selfTestEnd u false) s = .next ((s.setChf { s.chf with tests := mput dNat s.chf.tests u 0 }).fenceTile (cuInst u)
      (errRec 0x0E01 sevLasting 0 u 2))) ∧
    (test ≠ 2 → ∀ b, exec (.selfTestEnd u b) s = .next s) ∧
    (∀ k ks, s.chf.unsaved = k :: ks → Gives .fencePersist s fun t => mget dWord t.loft.fstoreA k = s.rd .CHF_FMAP_A k 0 ∧
      mget dWord t.loft.fstoreB k = s.rd .CHF_FMAP_B k 0 ∧ t.loft.fstoreN = max s.loft.fstoreN (k + 1) ∧ t.chf.unsaved = ks ∧ t.csr = s.csr ∧ t.mem = s.mem) ∧
    (s.chf.unsaved = [] → exec .fencePersist s = .next s) ∧
    (Allowed s w .CHF_FMAP_A i 0 → s.fences ≤ i.val → exec (.fencePendingClear w i) s = .next (okStat s)) ∧
    (Allowed s w .CHF_FMAP_A i 0 → i.val < s.fences →
      ((s.fence i).1 ∈ [1, 2, 4, 5, 8, 9] → Gives (.fencePendingClear w i) s fun t => t.rstat = 0 ∧ t.rdF .CHF_FMAP_A i 0 62 62 = 1 ∧
        t.rdF .CHF_FMAP_A i 0 63 63 = s.rdF .CHF_FMAP_A i 0 63 63 ∧ t.chf.unsaved = s.chf.unsaved ++ [i.val] ∧ t.mem = s.mem) ∧
      ((s.fence i).1 ∉ [1, 2, 4, 5, 8, 9] → Gives (.fencePendingClear w i) s fun t => t.rstat = 2 ∧ t.csr = s.csr ∧ t.mem = s.mem)) ∧
    ((∃ q ∈ rv, q ≠ .scrub) → ∀ x, exec (.binScrubRead u a x rv) s = .next s) ∧
    ((∀ q ∈ rv, q = .scrub) → exec (.binScrubRead u a .clean rv) s = .next s) ∧
    ((∀ q ∈ rv, q = .scrub) → exec (.binScrubRead u a (.corrected g) rv) s = .next (s.binCorrected u gran (a.val / 4 % 16))) ∧
    ((∀ q ∈ rv, q = .scrub) → s.chf.ceAt = s.time + 1 → place ∈ s.chf.ceLocs → exec (.binScrubRead u a (.corrected g) rv) s = .next s) ∧
    ((∀ q ∈ rv, q = .scrub) → s.chf.ceAt ≠ s.time + 1 ∨ place ∉ s.chf.ceLocs → recent.length < 3 → Gives (.binScrubRead u a (.corrected g) rv) s fun t =>
      sev t .CHF_CE_BIN ∧ mget dNil (t.mu u).ceRow row = recent ++ [s.time] ∧ place ∈ t.chf.ceLocs ∧ t.chf.ceAt = s.time + 1 ∧ t.mem = s.mem) ∧
    ((∀ q ∈ rv, q = .scrub) → Gives (.binScrubRead u a (.transient g) rv) s fun t => t.csr = s.csr ∧ t.mem = s.mem ∧ ((mget dNil s.chf.errq 1).length < 6 →
      ∃ q ∈ mget dNil t.chf.errq 1, q.code = 0x0201 ∧ q.sev = 1 ∧ q.inst = u.val)) ∧
    ((∀ q ∈ rv, q = .scrub) → ∃ q : ErrRec, q.code = 0x0201 ∧ q.sev = 2 ∧ q.inst = u.val ∧ exec (.binScrubRead u a (.lasting g) rv) s =
      .next (s.spareRow u gran (some (a.val / 4 % 16)) q)) ∧
    (Gives (.binScrubPassOverrun u) s fun t => t.csr = s.csr ∧ t.mem = s.mem ∧ ((mget dNil s.chf.errq 13).length < 6 →
      ∃ q ∈ mget dNil t.chf.errq 13, q.sev = 1 ∧ q.inst = u.val)) ∧
    (s.ledger led i = none → exec (.ledgerCheck led i) s = .next s) ∧
    (s.ledger led i = some (x, y) → Gives (.ledgerCheck led i) s fun t => t.rd .CHF_LED_CHECKS led 0 = s.rd .CHF_LED_CHECKS led 0 + 1 ∧ t.mem = s.mem ∧
      (x = y → t.chf = s.chf) ∧ (x ≠ y → t.rd .CHF_LED_FAILS led 0 = s.rd .CHF_LED_FAILS led 0 + 1 ∧
        ∃ q ∈ mget dNil t.chf.errq 13, q.code = 0x0E02 ∧ q.sev = 3 ∧ q.inst = i.val ∧ q.detail0 = led.val)) ∧
    (Allowed s w .CHF_RING_CFG 0 0 → s.ringEnabled = false → 10 ≤ fld v 36 32 → fld v 36 32 ≤ 20 → s.chf.store = [] → Gives (.ringEnable w v) s fun t =>
      t.ringEnabled = true ∧ t.ringRecs = 2 ^ fld v 36 32 ∧ t.ringAddr = fld v 23 0 * 65536 ∧ t.mem = s.mem) ∧
    (Allowed s w .CHF_RING_CFG 0 0 → s.ringEnabled = false → 10 ≤ fld v 36 32 → fld v 36 32 ≤ 20 → exec (.ringEnable w v) s = .next
      (s.chf.store.foldl State.ringPut (((okStat s).wr .CHF_RING_CFG 0 0 (setFld v 63 63 1 &&& Reg.mask .CHF_RING_CFG [.RW])).setChf { s.chf with store := [] }))) ∧
    (Allowed s w .CHF_RING_CFG 0 0 → s.ringEnabled = true ∨ fld v 36 32 < 10 ∨ 20 < fld v 36 32 → exec (.ringEnable w v) s = .next (okStat s))

/-! ### The hasp -/

/-- R534, R537, R543 to R545, R548, R549: key commands and debug unlock. Rests also on the model's choices of log entries 98 and
99. -/
def Obligations.KeyAndDebugRowsComplete : Prop :=
  ∀ (s : State) (w : Agent) (c : Fin 64) (off : BitVec 25) (q : Fin 16384) (e : QEnt) (v : BitVec 64),
    let up := 1 ≤ s.rdF .HSP_STATUS 0 0 58 56 ∧ s.rdF .HSP_STATUS 0 0 58 56 ≤ 3
    let base := off.toNat / 256 * 256
    let b := s.load .csram base 256
    let k := KeyFrom.core c off.toNat
    let src := KeySrc.core c off
    let slot := le b 2 2 % 4096
    let mine := s.keyMine k slot = true
    let use := Nat.land (le b 1 1 % 8) (s.rdF .HSP_KSLOT_A slot 0 58 56)
    let status := fun (t : State) (n : Nat) => t.loadNat .csram (base + 0xFE) 2 = n ∧ t.mem.silo = s.mem.silo ∧ t.mem.host = s.mem.host ∧ t.cores = s.cores
    let failed := fun (t : State) (n : Nat) => status t n ∧ t.rdF .HSP_STATUS 0 0 15 0 = n ∧ t.hasp = s.hasp
    let filled := fun (t : State) (typ use : Nat) (key : List Byte) => status t 0 ∧ mget dNil t.hasp.keys slot = key ∧
      t.rdF .HSP_KSLOT_A slot 0 63 62 = typ ∧ t.rdF .HSP_KSLOT_A slot 0 61 59 = use ∧ t.rdF .HSP_KSLOT_A slot 0 31 0 = le b 4 4 ∧
      ∀ n, n ≠ slot → mget dNil t.hasp.keys n = mget dNil s.hasp.keys n
    let held := ((s.hasp.run.map (·.2)).filter fun h => decide (h ≠ [] ∧ hdrRbc h = slot % 64)).map hdrSvn
    let resp := mput dWord s.hasp.resp 8 v
    let level := fld (mget dWord resp 0) 1 0
    let sig := (List.range 8).flatMap fun n => natToBytes 8 (mget dWord resp (n + 1)).toNat
    (¬ up → ∀ o ∈ [Instr.unwrap src, .loadPub src, .clear src, .rbCommit src, .unwrap (.queue q), .loadPub (.queue q), .clear (.queue q), .rbCommit (.queue q)],
      exec o s = .next s) ∧
    (up → ¬ mine → ∀ o ∈ ([(.unwrap src, 1), (.loadPub src, 2), (.clear src, 3)] : List (Instr × Nat)), le b 0 1 = o.2 → Gives o.1 s fun t => failed t 0x0F03) ∧
    (up → mine → le b 0 1 = 1 → (s.hasp.nounwrap = true → Gives (.unwrap src) s fun t => failed t 0x0F05) ∧
      (s.hasp.nounwrap = false → Gives (.unwrap src) s fun t => match s.unwrapped b with
        | none => failed t 0x0F04
        | some key => filled t 1 use key)) ∧
    (up → mine → le b 0 1 = 2 → Gives (.loadPub src) s fun t => filled t 2 (Nat.land use 4) ((b.drop 8).take 64)) ∧
    (up → mine → le b 0 1 = 3 → Gives (.clear src) s fun t => status t 0 ∧ mget dNil t.hasp.keys slot = [] ∧ t.rdF .HSP_KSLOT_A slot 0 63 62 = 0 ∧
      t.rdF .HSP_KSLOT_A slot 0 58 39 = s.rdF .HSP_KSLOT_A slot 0 58 39) ∧
    (up → le b 0 1 = 4 → s.keyPl1 k = false → Gives (.rbCommit src) s fun t => failed t 2) ∧
    (up → le b 0 1 = 4 → s.keyPl1 k = true → held ≠ [] → Gives (.rbCommit src) s fun t => status t 0 ∧ t.hasp.keys = s.hasp.keys ∧
      (∃ n ∈ held, mget dNat t.hasp.rbc (slot % 64) = max (mget dNat s.hasp.rbc (slot % 64)) (min n 64)) ∧
      ∀ n, n ≠ slot % 64 → mget dNat t.hasp.rbc n = mget dNat s.hasp.rbc n) ∧
    (up → le b 0 1 = 4 → s.keyPl1 k = true → held = [] → exec (.rbCommit src) s = .next ((s.freeStatus.2).keyDone k s.freeStatus.1)) ∧
    (up → ∀ o ∈ ([(.unwrap src, 1), (.loadPub src, 2), (.clear src, 3), (.rbCommit src, 4)] : List (Instr × Nat)), le b 0 1 ≠ o.2 → exec o.1 s = .next s) ∧
    (s.fwSend q = none → ∀ o ∈ [Instr.unwrap (.queue q), .loadPub (.queue q), .clear (.queue q), .rbCommit (.queue q)], exec o s = .next s) ∧
    (up → s.fwSend q = some e → ∀ st, s.keyBlock (.func e.fn (e.arg 1)) = .error st →
      ∀ o ∈ [Instr.unwrap (.queue q), .loadPub (.queue q), .clear (.queue q), .rbCommit (.queue q)],
        exec o s = .next ((s.noteRefusal st 5 e.fn (e.arg 1)).qpFinish q e.id 0 0)) ∧
    (up → s.fwSend q = some e → ∀ b, s.keyBlock (.func e.fn (e.arg 1)) = .ok b →
      ∀ o ∈ ([(.unwrap (.queue q), 1), (.loadPub (.queue q), 2), (.clear (.queue q), 3), (.rbCommit (.queue q), 4)] : List (Instr × Nat)),
        exec o.1 s = .next (if le b 0 1 = o.2 then (s.keyRun (.func e.fn (e.arg 1)) b).qpFinish q e.id 0 0 else s)) ∧
    (s.pl w ≤ 1 → Gives (.debugChallenge w) s fun t => t.hasp.nonce.length = 32 ∧ t.rstat = 0 ∧ t.rdata = t.rd .HSP_DBG_CHAL 0 0 ∧
      (∀ n, n < 4 → t.rd .HSP_DBG_CHAL n 0 = BitVec.ofNat 64 (le t.hasp.nonce (8 * n) 8)) ∧ t.hasp = { s.hasp with nonce := t.hasp.nonce } ∧ t.mem = s.mem) ∧
    (Allowed s w .HSP_DBG_RESP 8 0 →
      Gives (.debugUnlock w v) s fun t => t.mem = s.mem ∧
        (s.unlockOk level sig = true → t.rdF .HSP_STATUS 0 0 51 50 = level ∧ t.hasp.nounwrap = true ∧ t.rstat = 0 ∧ ∀ n, mget dNil t.hasp.keys n = []) ∧
        (s.unlockOk level sig = false → t.rstat = 0x0F05 ∧ t.hasp.keys = s.hasp.keys ∧ t.rdF .HSP_STATUS 0 0 51 50 = s.rdF .HSP_STATUS 0 0 51 50 ∧
          t.rdF .HSP_STATUS 0 0 45 44 = min 3 (s.rdF .HSP_STATUS 0 0 45 44 + 1)))

/-- R539 to R541: attestation. Message layouts are log entry 87's and DSP0274's (PRESUMED). Rests also on the model's choices of
log entries 12 and 87. -/
def Obligations.AttestationRowsComplete : Prop :=
  ∀ (s : State) (d : Bool) (r : List Byte) (i : Nat),
    let up := 1 ≤ s.rdF .HSP_STATUS 0 0 58 56 ∧ s.rdF .HSP_STATUS 0 0 58 56 ≤ 3
    let c := s.conn d
    let is := fun (code need len : Nat) => up ∧ le r 1 1 = code ∧ le r 0 1 = 0x12 ∧ len ≤ r.length ∧ need ≤ c.stage
    let frame := fun (t : State) => t.conn (!d) = s.conn (!d) ∧ t.csr = s.csr ∧ t.mem = s.mem ∧ t.hasp.keys = s.hasp.keys
    let sends := fun (t : State) (bs : List Byte) => t.loft.reply = ⟨if d then 2 else 1, 0, [], bs⟩ ∧ frame t
    let plain := nbit (le r 2 1) 0 = false ∨ (37 ≤ r.length ∧ le r 36 1 = 0)
    let begins := fun (t : State) (bs : List Byte) => bs <+: t.loft.reply.bytes ∧ t.loft.reply.path = (if d then 2 else 1) ∧ frame t
    let rows := ([(.getVersion d r, 0x84, 0, 4), (.getCapabilities d r, 0xE1, 1, 20), (.negotiateAlgorithms d r, 0xE3, 2, 32), (.getDigests d r, 0x81, 3, 4),
      (.getCertificate d r, 0x82, 3, 8), (.challenge d r, 0x83, 3, 36), (.getMeasurements d r, 0xE0, 3, 4)] : List (Instr × Nat × Nat × Nat))
    let same := fun (t : State) => t.conn d = c
    (∀ o ∈ rows, ¬ up ∨ le r 1 1 ≠ o.2.1 → exec o.1 s = .next s) ∧
    (∀ o ∈ rows, up → le r 1 1 = o.2.1 → r.length < o.2.2.2 → Gives o.1 s fun t => sends t [0x12, 0x7F, 1, 0] ∧ same t) ∧
    (∀ o ∈ rows, o.2.1 ≠ 0x84 → up → le r 1 1 = o.2.1 → o.2.2.2 ≤ r.length → le r 0 1 ≠ 0x12 → Gives o.1 s fun t => sends t [0x12, 0x7F, 0x41, 0] ∧ same t) ∧
    (∀ o ∈ rows, up → le r 1 1 = o.2.1 → o.2.2.2 ≤ r.length → le r 0 1 = 0x12 → c.stage < o.2.2.1 → Gives o.1 s fun t => sends t [0x12, 0x7F, 4, 0] ∧ same t) ∧
    (up → le r 1 1 = 0x84 → 4 ≤ r.length → Gives (.getVersion d r) s fun t => sends t [0x10, 4, 0, 0, 0, 1, 0, 0x12] ∧ (t.conn d).stage = 1) ∧
    (is 0xE1 1 20 → Gives (.getCapabilities d r) s fun t => begins t [0x12, 0x61, 0, 0, 0, 20, 0, 0, 0x16, 0, 0, 0] ∧ (t.conn d).stage = max 2 c.stage) ∧
    (is 0xE3 2 32 → nbit (le r 8 4) 4 = true → nbit (le r 12 4) 0 = true → Gives (.negotiateAlgorithms d r) s fun t =>
      begins t [0x12, 0x63, 0, 0, 36, 0, 1, 0, 2, 0, 0, 0, 0x10, 0, 0, 0, 1, 0, 0, 0] ∧ (t.conn d).stage = 3) ∧
    (is 0xE3 2 32 → nbit (le r 8 4) 4 = false ∨ nbit (le r 12 4) 0 = false → Gives (.negotiateAlgorithms d r) s fun t => sends t [0x12, 0x7F, 1, 0] ∧ t.conn d = c) ∧
    (is 0x81 3 4 → Gives (.getDigests d r) s fun t => sends t ([0x12, 1, 0, 1] ++ sha256 s.chain) ∧ (t.conn d).stage = c.stage) ∧
    (is 0x82 3 8 → le r 2 1 = 0 → Gives (.getCertificate d r) s fun t =>
      let p := (s.chain.drop (le r 4 2)).take (le r 6 2)
      sends t (if s.chain.length ≤ le r 4 2 then [0x12, 0x7F, 1, 0]
        else [0x12, 2, 0, 0] ++ natToBytes 2 p.length ++ natToBytes 2 (s.chain.length - le r 4 2 - p.length) ++ p)) ∧
    (is 0x82 3 8 → le r 2 1 ≠ 0 → Gives (.getCertificate d r) s fun t => sends t [0x12, 0x7F, 1, 0] ∧ same t) ∧
    (is 0x83 3 36 → le r 2 1 ≠ 0 → Gives (.challenge d r) s fun t => sends t [0x12, 0x7F, 1, 0] ∧ same t) ∧
    (is 0x83 3 36 → le r 2 1 = 0 → Gives (.challenge d r) s fun t => begins t ([0x12, 3, 0, 1] ++ sha256 s.chain) ∧ (t.conn d).stage = c.stage) ∧
    (is 0xE0 3 4 → plain → le r 3 1 = 0 → Gives (.getMeasurements d r) s fun t => begins t [0x12, 0x60, 10, 0, 0, 0, 0, 0]) ∧
    (is 0xE0 3 4 → plain → le r 3 1 = i → 1 ≤ i → i ≤ 10 → Gives (.getMeasurements d r) s fun t =>
      begins t ([0x12, 0x60, 0, 0, 1] ++ natToBytes 3 (s.measBlock i).length ++ s.measBlock i)) ∧
    (is 0xE0 3 4 → plain → le r 3 1 = 0xFF → Gives (.getMeasurements d r) s fun t =>
      let all := (List.range 10).flatMap fun n => s.measBlock (n + 1)
      begins t ([0x12, 0x60, 0, 0, 10] ++ natToBytes 3 all.length ++ all)) ∧
    (is 0xE0 3 4 → ¬ plain ∨ (10 < le r 3 1 ∧ le r 3 1 ≠ 0xFF) → Gives (.getMeasurements d r) s fun t => sends t [0x12, 0x7F, 1, 0] ∧ same t) ∧
    (up → le r 1 1 ∉ rows.map (·.2.1) → Gives (.spdmUnsupportedRequest d r) s fun t => sends t [0x12, 0x7F, 7, BitVec.ofNat 8 (le r 1 1)] ∧ t.conn d = c)

/-! ### Resets and power-on -/

/-- R472, R492, R550 to R553, R582, R584, R591: what each trigger of a reset leaves. Rests also on the model's choices of log
entries 92 and 93. -/
def Obligations.ResetRowsComplete : Prop :=
  ∀ (s : State) (w : Agent) (c : Fin 4) (slot : Fin 4),
    let l := s.loft
    let last := fun (t : State) (n : Nat) => t.rdF .LOFT_STATUS 0 0 62 60 = n
    let kept := fun (t : State) => t.mem.gran = s.mem.gran ∧ t.mem.host = s.mem.host ∧ t.loft.log = l.log ∧ t.hasp.rbc = s.hasp.rbc ∧ t.pending = s.pending
    let gone := fun (t : State) => t.arr = .reset ∧ t.cores = [] ∧ t.mem.silo = [] ∧ t.mem.bin = [] ∧ t.time = 0 ∧ kept t
    let cold := fun (t : State) (n : Nat) => gone t ∧ last t n ∧ t.loft.done = [1] ∧ ∀ r i j, r ≠ .LOFT_STATUS → t.rd r i j = State.reset.rd r i j
    let warm := fun (t : State) (n : Nat) => last t n ∧ t.loft.done = [1, 2] ∧ t.cores = [] ∧ t.mem.silo = s.mem.silo ∧ t.mem.bin = [] ∧ t.time = s.time ∧ kept t ∧
      (s.fences = 0 → (s.csr.map (·.1)).Nodup → t.arr = { ArrSt.reset with plots := t.arr.plots } ∧
        (∀ p, t.plot p = { Plot.reset with intf := if p < 16 then (s.plot p).intf else Plot.reset.intf }) ∧ ∀ r i j, r ∉ [Reg.LOFT_STATUS, .HOP_QP_CPL_DISCARD, .GLN_RQ_END, .MU_SLOT_CLEARS,
        .MU_FETCH_FAIL_BYTES, .WIN_IN_FAIL, .WIN_OUT_FAIL, .GRN_TAG_FREE] →
          t.rd r i j = (r.dflt i j 0 &&& ~~~r.warmMask) ||| (s.rd r i j &&& r.warmMask))
    let fine := l.off = false ∧ s.pwr.tripped = false
    let high := s.inputBelow 44000 = false
    let up := fine ∧ high ∧ l.mreset = false ∧ 2 ∈ l.done
    (fine → c ≠ 3 → Gives (.coldReset c) s fun t => cold t c) ∧
    (l.off = false → s.pwr.tripped = true → s.tooHot = false → Gives (.coldReset c) s fun t => cold t 3) ∧
    (s.pwr.tripped = true → s.tooHot = true → exec (.coldReset c) s = .next s) ∧
    (up → c ≠ 3 ∨ s.isFatal = true ∨ s.pwr.halted = true → Gives (.warmReset c) s fun t => warm t (4 + c)) ∧
    (fine → high → l.mreset = false → 2 ∉ l.done → c ≠ 3 → exec (.warmReset c) s = .next s) ∧
    (fine → s.inputBelow 44000 = true → l.mreset = false → c ≠ 3 → Gives (.warmReset c) s fun t => t.csr = s.csr ∧ t.arr = s.arr ∧ t.mem = s.mem ∧ t.loft.logNo = l.logNo + 1) ∧
    (l.off = false → l.done ≠ [] ∨ s.rdF .LOFT_STATUS 0 0 55 48 ≠ 0 → exec (.inputRise slot) s = .next s) ∧
    (l.off = true ∨ (l.done = [] ∧ s.rdF .LOFT_STATUS 0 0 55 48 = 0) → Gives (.inputRise slot) s fun t => gone t ∧ last t 0 ∧ t.loft.off = false ∧ t.loft.done = [] ∧ t.loft.slot = slot ∧ t.loft.revFlag = false ∧
      t.rdF .LOFT_MODEVT 0 0 0 0 = l.revFlag.toNat) ∧
    (∀ o ∈ [Instr.inputLoss, .inputOvercurrent], Gives o s fun t => gone t ∧ t.loft.off = true ∧ t.loft.revFlag = l.revFlag) ∧
    (Gives .reversedInput s fun t => gone t ∧ t.loft.off = true ∧ t.loft.revFlag = true) ∧
    (fine → Gives .mresetAssert s fun t => cold t 1 ∧ t.loft.mreset = true) ∧
    (Gives .mresetRelease s fun t => t.loft.mreset = false ∧ t.loft.done = l.done ∧ t.csr = s.csr ∧ t.mem = s.mem ∧ t.arr = s.arr) ∧
    (s.rdF .LOFT_CTL 0 0 16 16 = 1 → exec .perstAssert s = .next (s.setLoft { l with perst := true }).allFnReset) ∧
    (s.rdF .LOFT_CTL 0 0 16 16 = 0 → up → Gives .perstAssert s fun t => warm t 4 ∧ t.loft.perst = true ∧ t.loft.anchor = 0) ∧
    (Gives .perstRelease s fun t => t.loft.perst = false ∧ (l.anchor = 0 → 2 ∈ l.done → t.loft.anchor = s.time + 1) ∧
      (l.anchor ≠ 0 ∨ 2 ∉ l.done → t.loft.anchor = l.anchor) ∧ t.csr = s.csr ∧ t.mem = s.mem) ∧
    (s.pl w ≤ 1 → fine → high → Gives (.loftResetCold w) s fun t => cold t 2) ∧
    (s.pl w ≤ 1 → up → Gives (.loftResetWarm w) s fun t => warm t 5) ∧
    (1 < s.pl w → ∀ o ∈ [Instr.loftResetCold w, .loftResetWarm w], Gives o s fun t => t.csr = s.csr ∧ t.mem = s.mem ∧ t.arr = s.arr ∧ t.loft = l)

/-- R533, R535, R554 to R558, and the boot lines of R569: the power-on sequence. Rests also on the model's choices of log entries 94, 96,
157 and 164. -/
def Obligations.PowerOnRowsComplete : Prop :=
  ∀ (s : State) (n : Fin 10) (bad : List BootBad),
    let l := s.loft
    let step := fun (t : State) (n : Nat) => t.loft.done = l.done ++ [n] ∧ t.rdF .LOFT_STATUS 0 0 55 48 = max n (s.rdF .LOFT_STATUS 0 0 55 48) ∧
      let ms := if t.loft.anchor = 0 then 0 else (s.time + 1 - t.loft.anchor) / 156250
      t.loft.printed = if s.rdF .LOFT_CTL 0 0 0 0 = 1 then l.printed ++ [(n, ms, 0)] else l.printed
    let endsSeq := fun (t : State) (code : Nat) => t.loft.ended = true ∧ t.rdF .LOFT_STATUS 0 0 47 32 = code
    let can := fun (n : Nat) => l.canStep n = true ∧ s.pwr.tripped = false
    let fatal := fun (t : State) => ∃ e ∈ mget dNil t.chf.errq 15, e.code = 0x1004 ∧ e.sev = 3
    (l.off = false → l.mreset = false → l.ended = false → 1 ∈ l.done → 2 ∉ l.done → s.inputBelow 40000 = false → s.pwr.tripped = false →
      Gives .powerGood s fun t => step t 2 ∧ t.mem = s.mem ∧
        t.loft.anchor = if l.perst = true ∧ s.rdF .LOFT_CTL 0 0 16 16 = 0 then 0 else s.time + 1) ∧
    (l.off = true ∨ l.mreset = true ∨ l.ended = true ∨ 1 ∉ l.done ∨ 2 ∈ l.done ∨ s.inputBelow 40000 = true ∨ s.pwr.tripped = true → exec .powerGood s = .next s) ∧
    (l.canStep n = false ∨ s.pwr.tripped = true → exec (.bootStepComplete n bad) s = .next s) ∧
    (can 1 → Gives (.bootStepComplete 1 bad) s fun t => step t 1 ∧ t.mem = s.mem) ∧
    (can 3 → Gives (.bootStepComplete 3 bad) s fun t => step t 3 ∧ (t.core 0).state = .running ∧ (t.core 0).pc = 0 ∧ (t.core 0).monitor = true ∧
      t.rdF .HSP_STATUS 0 0 46 46 = s.hasp.rev0.toNat ∧ t.rdF .HSP_STATUS 0 0 47 47 = s.hasp.rev1.toNat ∧ t.mem = s.mem) ∧
    (can 4 → Gives (.bootStepComplete 4 bad) s fun t => step t 4 ∧ t.mem = s.mem) ∧
    (can 5 → Gives (.bootStepComplete 5 bad) s fun t => t.mem = s.mem ∧ match (s.bootImage 1).2 with
      | some _ => step t 5 ∧ t.rdF .HSP_STATUS 0 0 58 56 = 1
      | none => t.loft.ended = true ∧ t.loft.done = l.done ∧ t.rdF .HSP_STATUS 0 0 58 56 = 7 ∧ t.rdF .LOFT_STATUS 0 0 55 48 = 5) ∧
    (can 6 → Gives (.bootStepComplete 6 bad) s fun t => t.mem = s.mem ∧ match (bootRest 3 2 s).1 with
      | some _ => step t 6 ∧ t.rdF .HSP_STATUS 0 0 58 56 = 2 ∧ ∀ c, 1 ≤ c → c ≤ 3 → (t.core c).state = .running ∧ (t.core c).pc = 0
      | none => t.loft.ended = true ∧ t.loft.done = l.done ∧ t.rdF .HSP_STATUS 0 0 58 56 = 7 ∧ t.rdF .LOFT_STATUS 0 0 55 48 = 6) ∧
    (can 7 → s.fences ≠ 0 → Gives (.bootStepComplete 7 []) s fun t => step t 7 ∧ t.mem = s.mem) ∧
    (can 7 → s.fences = 0 → exec (.bootStepComplete 7 []) s = .next (s.loadFences.stepDone 7)) ∧
    (can 7 → let b := bad.foldl State.bootFence (if s.fences = 0 then s.loadFences else s)
      b.loft.ended = false → exec (.bootStepComplete 7 bad) s = .next (b.stepDone 7)) ∧
    ((∀ u, s.bootFence (.thresher u) = if (s.tile (cuInst u)).fenced then s else s.fenceTile (cuInst u) (errRec 0x0E01 sevLasting 0 u 2)) ∧
      (∀ i, s.bootFence (.steer i) = s.withdrawBand (posOfInst i).d ((posOfInst i).col / 16)) ∧
      ∀ c : Fin 64, 4 ≤ c.val → s.bootFence (.core c) = s.fenceWith 9 c (errRec 0 sevLasting 4 c 7)) ∧
    (can 8 → (∀ k, .stack k ∉ bad) → Gives (.bootStepComplete 8 bad) s fun t => step t 8 ∧ t.mem = s.mem) ∧
    (can 8 → (∃ k, .stack k ∈ bad) → Gives (.bootStepComplete 8 bad) s fun t => endsSeq t 0x1004 ∧ t.loft.done = l.done ∧ fatal t) ∧
    (can 9 → (∀ f, .laser f ∉ bad) → Gives (.bootStepComplete 9 bad) s fun t => step t 9 ∧ t.mem = s.mem) ∧
    (can 9 → ∀ f, exec (.bootStepComplete 9 [.laser f]) s = .next (((s.modEvent 6 f).laserDark f).stepDone 9)) ∧
    (s.isReady = true ∨ l.ended = true ∨ 9 ∉ l.done → exec .ready s = .next s) ∧
    (s.isReady = true ∨ l.ended = true ∨ l.anchor = 0 ∨ l.off = true → exec .bootDeadline s = .next s) ∧
    (l.off = true ∨ l.ended = true ∨ 2 ∈ l.done ∨ s.inputBelow 40000 = false → exec .inputLowTimeout s = .next s) ∧
    (s.isReady = false → l.ended = false → 9 ∈ l.done → Gives .ready s fun t => t.isReady = true ∧ step t 10 ∧ t.rdF .HSP_STATUS 0 0 58 56 = 3 ∧
      t.rdF .LOFT_STATUS 0 0 31 0 = (s.time + 1 - l.anchor) / 156250 % 2 ^ 32 ∧ [⟨1, 0, true, false, []⟩] <:+ t.loft.evq ∧ t.mem = s.mem) ∧
    (s.isReady = false → l.ended = false → l.anchor ≠ 0 → l.off = false → Gives .bootDeadline s fun t => endsSeq t 0x1004 ∧ fatal t ∧ t.loft.done = l.done) ∧
    (l.off = false → l.ended = false → 2 ∉ l.done → s.inputBelow 40000 = true → Gives .inputLowTimeout s fun t => endsSeq t 0x1005 ∧ t.loft.done = l.done ∧ t.mem = s.mem)

/-! ### Management, sensors and the wicket -/

/-- R559 to R571, R581, R583, R585, R588: management messages, sensors and calibration, and the module's events. MCTP and PLDM
layouts are log entry 87's (PRESUMED). Rests also on the model's choices of log entries 87, 88, 116, 118 and 119. -/
def Obligations.ManagementRowsComplete : Prop :=
  ∀ (s : State) (w : Agent) (code : BitVec 8) (data : List (BitVec 8)) (id : BitVec 16) (e : PlatEvt) (es : List PlatEvt) (ty : Fin 4)
    (bs : List (BitVec 8)) (ad : BitVec 48) (n : Nat) (v : BitVec 64) (i : Fin 768) (x : BitVec 32) (it : Fin 528) (pin : Fin 41) (fib : Fin 16)
    (lane : Fin 256) (lo hi : Int),
    let l := s.loft
    let on := l.off = false
    let repl := fun (t : State) (st : Nat) (ws : List Word) (bs : List Byte) => t.loft.reply = ⟨1, st, ws, bs⟩ ∧ t.mem = s.mem
    let same := fun (t : State) => t.csr = s.csr ∧ t.loft.evq = l.evq ∧ t.loft.log = l.log ∧ t.arr = s.arr
    let a := ad.toNat
    let inCsr := (n = 4 ∨ n = 8) ∧ 0xF00000000000 ≤ a ∧ a < 0xF00100000000
    let bitUp := fun (t : State) (b : Nat) => t.rdF .LOFT_MODEVT 0 0 b b = 1
    let cal := calBounds it
    let y := max cal.1 (min cal.2 x.toInt)
    (l.off = true → ∀ o ∈ [Instr.mctpControl code data, .pldmDiscovery code data, .pldmSensorReading id, .pollForPlatformEventMessage, .queryDeviceIdentifiers,
      .firmwareUpdateTransfer ty bs true, .activateFirmware, .kzCsrRead ad n, .kzCsrWrite ad n v, .kzWake, .kzLogRead v n, .kzHealth, .sensorSample i x true,
      .smbusSclTimeout, .smbSdaStuck, .pinReadbackCheck pin true, .laserInputLow fib, .lightOnDataFibre lane, .ref3v3Limit], exec o s = .next s) ∧
    (on → code = 2 → Gives (.mctpControl code data) s fun t => repl t 0 [] [0, BitVec.ofNat 8 l.eid, 0, 0] ∧ same t) ∧
    (on → code = 1 → ∀ o, 8 ≤ o → o < 255 → data = [0, BitVec.ofNat 8 o] → Gives (.mctpControl code data) s fun t => repl t 0 [] [0, 0, BitVec.ofNat 8 o, 0] ∧
      t.loft.eid = o ∧ same t) ∧
    (on → code = 1 → data.length < 2 → Gives (.mctpControl code data) s fun t => repl t 3 [] [] ∧ t.loft.eid = l.eid ∧ same t) ∧
    (on → code = 1 → ∀ o, (o = 0 ∨ o = 255) → data = [0, BitVec.ofNat 8 o] → Gives (.mctpControl code data) s fun t => repl t 2 [] [] ∧ t.loft.eid = l.eid ∧ same t) ∧
    (on → code = 4 → Gives (.mctpControl code data) s fun t => (∃ b, repl t 0 [b] []) ∧ same t) ∧
    (on → code = 5 → Gives (.mctpControl code data) s fun t => repl t 0 [] [0, 3, 1, 5, 0x7E] ∧ same t) ∧
    (on → code.toNat ∉ [1, 2, 4, 5] → Gives (.mctpControl code data) s fun t => repl t 5 [] [] ∧ same t) ∧
    (on → code = 1 → ∀ o, o < 256 → data = [BitVec.ofNat 8 o] → Gives (.pldmDiscovery code data) s fun t => same t ∧
      repl t (if o = 0 ∨ o = 255 then 2 else 0) [] [] ∧ t.loft.tid = if o = 0 ∨ o = 255 then l.tid else o) ∧
    (on → code = 3 ∨ code = 5 → Gives (.pldmDiscovery code data) s fun t => (∃ b, b.length = 32 ∧ repl t 0 [] b) ∧ same t) ∧
    (on → code.toNat ∉ [1, 2, 3, 4, 5] → Gives (.pldmDiscovery code data) s fun t => repl t 5 [] [] ∧ same t) ∧
    (on → id = 0 ∨ sensRange (id.toNat - 1) = none → Gives (.pldmSensorReading id) s fun t => repl t 0x80 [] [] ∧ same t) ∧
    (on → code = 2 → Gives (.pldmDiscovery code data) s fun t => repl t 0 [] [BitVec.ofNat 8 l.tid] ∧ same t) ∧
    (on → code = 4 → Gives (.pldmDiscovery code data) s fun t => repl t 0 [] [0x25, 0, 0, 0, 0, 0, 0, 0] ∧ same t) ∧
    (on → id ≠ 0 → sensRange (id.toNat - 1) ≠ none → Gives (.pldmSensorReading id) s fun t => same t ∧
      let r := s.rd .LOFT_SENS (id.toNat - 1) 0
      repl t 0 (if bit r 63 then [0, r &&& 0xFFFFFFFF] else [2, 0]) []) ∧
    (on → l.evq = e :: es → Gives .pollForPlatformEventMessage s fun t => t.loft.evq = es ∧ t.csr = s.csr ∧
      repl t 0 [BitVec.ofNat 64 e.kind, BitVec.ofNat 64 e.num, wordOfBool e.on, wordOfBool e.fatal] e.bytes) ∧
    (on → l.evq = [] → Gives .pollForPlatformEventMessage s fun t => repl t 0 [] [] ∧ same t) ∧
    (on → Gives .queryDeviceIdentifiers s fun t => repl t 0 [0x1D5A, 0x0640, 0x640C, Config.serial] [] ∧ same t) ∧
    (on → l.upd = none → mget dNil s.hasp.run (ty.val + 1) ≠ [] →
      Gives (.firmwareUpdateTransfer ty bs true) s fun t =>
        let key := (ty.val + 1) * 2 + (1 - s.rdF .HSP_STATUS 0 0 (52 + ty.val) (52 + ty.val))
        mget dNone t.hasp.flash key = some ⟨bs.take 256, bs.drop 256, true⟩ ∧ key ∈ t.loft.checked ∧ t.loft.upd = none ∧ repl t 0 [] [] ∧ same t) ∧
    (on → ∀ u, l.upd = some u → u.typ = ty.val + 1 → Gives (.firmwareUpdateTransfer ty bs false) s fun t =>
      t.loft.upd = some { u with got := u.got ++ bs } ∧ t.hasp = s.hasp ∧ repl t 0 [] [] ∧ same t) ∧
    (on → ∀ u, l.upd = some u → u.typ = ty.val + 1 → Gives (.firmwareUpdateTransfer ty bs true) s fun t =>
      mget dNone t.hasp.flash (u.typ * 2 + u.copy) = some ⟨(u.got ++ bs).take 256, (u.got ++ bs).drop 256, true⟩ ∧
        u.typ * 2 + u.copy ∈ t.loft.checked ∧ t.loft.upd = none ∧ repl t 0 [] [] ∧ same t) ∧
    (on → (∀ u, l.upd = some u → u.typ ≠ ty.val + 1) → Gives (.firmwareUpdateTransfer ty bs false) s fun t => ∃ u, t.loft.upd = some u ∧
      u.typ = ty.val + 1 ∧ u.got = bs ∧ (∃ x, mget dNone t.hasp.flash (u.typ * 2 + u.copy) = some x ∧ x.invalid = true) ∧
        u.typ * 2 + u.copy ∉ t.loft.checked ∧ u.typ * 2 + u.copy ∉ t.loft.activate ∧ repl t 0 [] [] ∧ same t) ∧
    (on → s.rdF .HSP_STATUS 0 0 58 56 = 7 → ∀ k, l.checked.find? (fun k => decide (s.updStatus k ≠ 0)) = some k → Gives .activateFirmware s fun t =>
      repl t (s.updStatus k) [] [] ∧ same t ∧ t.hasp = s.hasp) ∧
    (on → s.rdF .HSP_STATUS 0 0 58 56 = 7 → l.checked ≠ [] → s.pwr.tripped = false → s.inputBelow 44000 = false → l.mreset = false → 2 ∈ l.done →
      Gives .activateFirmware s fun t => t.mem.silo = s.mem.silo ∧ match l.checked.find? (fun k => decide (s.updStatus k ≠ 0)) with
        | some k => repl t (s.updStatus k) [] [] ∧ t.loft.activate = l.activate ∧ t.loft.checked = l.checked
        | none => t.loft.done = [1, 2] ∧ t.loft.activate = [] ∧ t.cores = []) ∧
    (on → s.rdF .HSP_STATUS 0 0 58 56 ≠ 7 → Gives .activateFirmware s fun t => same t ∧ t.hasp = s.hasp ∧
      match l.checked.find? (fun k => decide (s.updStatus k ≠ 0)) with
      | some k => repl t (s.updStatus k) [] [] ∧ t.loft.activate = l.activate ∧ t.loft.checked = l.checked
      | none => repl t 0 [] [] ∧ t.loft.activate = l.activate ++ l.checked ∧ t.loft.checked = []) ∧
    (on → inCsr → s.notReady a = false → Gives (.kzCsrRead ad n) s fun t => t.loft.reply = ⟨1, (s.csrRead .tray a n).rstat, [(s.csrRead .tray a n).rdata], []⟩ ∧
      t.csr = (s.csrRead .tray a n).csr ∧ t.rdata = s.rdata) ∧
    (on → inCsr → s.notReady a = false → Gives (.kzCsrWrite ad n v) s fun t => t.loft.reply = ⟨1, (s.csrWrite .tray a n v 0 true).rstat, [], []⟩ ∧
      t.csr = (s.csrWrite .tray a n v 0 true).csr ∧ t.rdata = s.rdata) ∧
    (on → ∀ o ∈ [Instr.kzCsrRead ad n, .kzCsrWrite ad n v], (inCsr → s.notReady a = true → Gives o s fun t => repl t 0x1001 [] [] ∧ same t) ∧
      (¬ inCsr → Gives o s fun t => repl t 0x1002 [] [] ∧ same t)) ∧
    (on → Gives .kzWake s fun t => t.pwr.idle = (if s.pwr.idle = 2 then 3 else s.pwr.idle) ∧ repl t 0 [] []) ∧
    (on → n = 0 ∨ 4 < n → Gives (.kzLogRead v n) s fun t => repl t 0x1002 [] [] ∧ same t) ∧
    (on → sensRange i = none → ∀ b, exec (.sensorSample i x b) s = .next s) ∧
    (on → ¬ (pin.val = 5 ∨ pin.val = 6 ∨ pin.val = 16) → exec (.pinReadbackCheck pin true) s = .next s) ∧
    (on → 1 ≤ n → n ≤ 4 → Gives (.kzLogRead v n) s fun t => repl t 0 [] (s.logFrom v.toNat n).flatten ∧ same t) ∧
    (on → Gives .kzHealth s fun t => repl t 0 [s.rd .LOFT_STATUS 0 0, s.pwrStatus, s.rd .CHF_STATUS 0 0, s.rd .HSP_STATUS 0 0] [] ∧ same t) ∧
    (on → sensRange i = some (lo, hi) → Gives (.sensorSample i x true) s fun t => t.rd .LOFT_SENS i 0 = sensWord lo hi (s.calSense i x.toInt) ∧
      t.rdF .LOFT_SENS i 0 63 63 = 1 ∧ t.mem = s.mem ∧ (i.val ≠ 0 → t.loft = l)) ∧
    (on → sensRange i = some (lo, hi) → Gives (.sensorSample i x false) s fun t => t.rdF .LOFT_SENS i 0 63 63 = 0 ∧
      t.rdF .LOFT_SENS i 0 31 0 = s.rdF .LOFT_SENS i 0 31 0 ∧ t.mem = s.mem ∧ t.loft = l) ∧
    (Allowed s w .LOFT_CAL_U it 0 → Gives (.calibrationWrite w it x) s fun t => t.rd .LOFT_CAL_U it 0 =
        setFld (BitVec.ofInt 64 y &&& 0xFFFFFFFF) 63 63 (decide (x.toInt ≠ y)).toNat ∧ t.rstat = 0 ∧ t.mem = s.mem ∧ t.loft = l ∧
        (it.val = 6 → t.rdF .HAY_TIME_CTL 0 0 47 32 = fld (t.rd .LOFT_CAL_U 6 0) 15 0)) ∧
    (Allowed s w .LOFT_CAL_CTL 0 0 → (Gives (.calSave w) s fun t => (∀ k, k < 528 → mget dWord t.loft.calSaved k = s.rd .LOFT_CAL_U k 0) ∧ t.csr = s.csr ∧ t.mem = s.mem) ∧
      Gives (.calRevert w) s fun t => (∀ k, k < 528 → t.rd .LOFT_CAL_U k 0 = 0) ∧ t.rdF .HAY_TIME_CTL 0 0 47 32 = 0 ∧ t.loft = l ∧ t.mem = s.mem) ∧
    (on → (Gives .smbusSclTimeout s fun t => bitUp t 2 ∧ t.mem = s.mem) ∧ (Gives .smbSdaStuck s fun t => bitUp t 2 ∧ t.mem = s.mem) ∧
      Gives .ref3v3Limit s fun t => bitUp t 4 ∧ t.mem = s.mem) ∧
    (on → pin.val = 5 ∨ pin.val = 6 ∨ pin.val = 16 → Gives (.pinReadbackCheck pin true) s fun t => bitUp t 3 ∧ t.mem = s.mem) ∧
    (exec (.pinReadbackCheck pin false) s = .next s) ∧
    (on → s.pwr.idle ≠ 2 → s.pwr.tripped = false → 9 ∈ l.done → Gives (.laserInputLow fib) s fun t => bitUp t 6 ∧ t.mem = s.mem ∧
      (fib.val < 12 → s.rdF .HAY_PORT_STATUS (2 * fib.val) 0 3 0 = 6 → t.rdF .HAY_PORT_STATUS (2 * fib.val) 0 3 0 = 0 ∧ t.rdF .HAY_PORT_STATUS (2 * fib.val) 0 23 16 = 2)) ∧
    (on → s.pwr.idle = 2 ∨ s.pwr.tripped = true ∨ 9 ∉ l.done → exec (.laserInputLow fib) s = .next s) ∧
    (on → Gives (.lightOnDataFibre lane) s fun t => bitUp t 5 ∧ t.mem = s.mem ∧
      (lane.val < 192 → s.rdF .HAY_PORT_STATUS (lane.val / 8) 0 3 0 = 6 → t.rdF .HAY_PORT_STATUS (lane.val / 8) 0 3 0 = 0 ∧
        t.rdF .HAY_PORT_STATUS (lane.val / 8) 0 23 16 = 3))

/-- R569 to R571, Table 18.8: commands of the wicket and the debug level each needs. Rests also on the model's choices of log
entries 89 and 90. -/
def Obligations.WicketRowsComplete : Prop :=
  ∀ (s : State) (c : Fin 64) (pc : BitVec 17) (ad v : BitVec 64) (n m rate : Nat) (sig : List (BitVec 8)),
    let level := s.rdF .HSP_STATUS 0 0 51 50
    let on := s.loft.off = false
    let ans := fun (t : State) (st : Nat) (ws : List Word) (bs : List Byte) => t.loft.reply = ⟨3, st, ws, bs⟩
    let pure := fun (t : State) => t.csr = s.csr ∧ t.mem = s.mem ∧ t.cores = s.cores ∧ t.hasp = s.hasp
    let k := s.core c
    let rd8 := fld ad 63 60 = 8 ∧ fld ad 59 25 = 0 ∧ (n = 1 ∨ n = 2 ∨ n = 4 ∨ n = 8) ∧ ad.toNat % n = 0
    let words := fun (f : Nat → Word) (k : Nat) => (List.range k).map f
    let shape := (n = 1 ∨ n = 2 ∨ n = 4 ∨ n = 8) ∧ ad.toNat % n = 0
    let la := fld ad 47 0
    let csr := 0xF00000000000 ≤ la ∧ la < 0xF00100000000
    let mem := (fld ad 63 60 = 0 ∧ fld ad 59 48 = 0 ∧ ¬ csr) ∨ (fld ad 63 60 = 1 ∧ fld ad 59 48 = s.chip)
    (on → Gives .wicketId s fun t => ans t 0 [s.rd .LOFT_ID 0 0, Config.serial, BitVec.ofNat 64 (s.rdF .HSP_STATUS 0 0 55 52)] [] ∧ pure t) ∧
    (on → rate ∈ [115200, 460800, 921600, 1500000, 3000000] → Gives (.wicketBaud rate) s fun t => ans t 0 [] [] ∧ t.loft.baud = rate ∧ pure t) ∧
    (on → rate ∉ [115200, 460800, 921600, 1500000, 3000000] → Gives (.wicketBaud rate) s fun t => ans t 0x0F05 [] [] ∧ t.loft.baud = s.loft.baud ∧ pure t) ∧
    (on → Gives .wicketChal s fun t => t.hasp.nonce.length = 32 ∧ ans t 0 (words (fun k => BitVec.ofNat 64 (le t.hasp.nonce (8 * k) 8)) 4) [] ∧ t.mem = s.mem) ∧
    (on → sig.length = 64 → Gives (.wicketUnlock n sig) s fun t => t.mem = s.mem ∧
      (s.unlockOk n sig = true → ans t 0 [] [] ∧ t.rdF .HSP_STATUS 0 0 51 50 = n ∧ t.hasp.nounwrap = true ∧ ∀ k, mget dNil t.hasp.keys k = []) ∧
      (s.unlockOk n sig = false → ans t 0x0F05 [] [] ∧ t.rdF .HSP_STATUS 0 0 51 50 = level ∧
        t.rdF .HSP_STATUS 0 0 45 44 = min 3 (s.rdF .HSP_STATUS 0 0 45 44 + 1) ∧ t.hasp = s.hasp)) ∧
    (on → sig.length ≠ 64 → Gives (.wicketUnlock n sig) s fun t => ans t 0x0F05 [] [] ∧ pure t) ∧
    (s.loft.off = true → ∀ o ∈ [Instr.wicketId, .wicketBaud rate, .wicketChal, .wicketUnlock n sig, .wicketStatus, .wicketSens n m, .wicketRing n m, .wicketFmap n m,
      .wicketLog n m, .wicketRd ad n m, .wicketWr ad n v, .wicketHalt c, .wicketGo c pc, .wicketRegs c, .wicketResetWarm, .wicketResetCold], exec o s = .next s) ∧
    (¬ shape → s.wicketRead ad n = (s, 2, 0) ∧ s.wicketWrite ad n v = (s, 2)) ∧
    (shape → fld ad 63 60 = 0 → fld ad 59 48 = 0 → csr →
      s.wicketRead ad n = ((s.csrRead .wicket la n).keepRead s, (s.csrRead .wicket la n).rstat, (s.csrRead .wicket la n).rdata.toNat) ∧
      s.wicketWrite ad n v = ((s.csrWrite .wicket la n v 0 true).keepRead s, (s.csrWrite .wicket la n v 0 true).rstat)) ∧
    (shape → mem → (∀ b, s.fetch .firmware la n false = .ok b → s.wicketRead ad n = (s.countAt la n, 0, bytesToNat b)) ∧
      (∀ st, s.fetch .firmware la n false = .error st → s.wicketRead ad n = (s.noteRefusal st 15 0 la, st, 0)) ∧
      (∀ t, s.put .firmware la (natToBytes n v.toNat) false = .ok t → s.wicketWrite ad n v = (t, 0)) ∧
      ∀ st, s.put .firmware la (natToBytes n v.toNat) false = .error st → s.wicketWrite ad n v = (s.noteRefusal st 15 0 la, st)) ∧
    (on → 2 ≤ level → exec (.wicketWr ad n v) s = .next ((s.wicketWrite ad n v).1.answer 3 (s.wicketWrite ad n v).2 [] [])) ∧
    (on → 2 ≤ level → 1 ≤ m → (s.wicketRead ad n).2.1 ≠ 0 → exec (.wicketRd ad n m) s = .next ((s.wicketRead ad n).1.answer 3 (s.wicketRead ad n).2.1 [] [])) ∧
    (on → 2 ≤ level → 1 ≤ m → (s.wicketRead ad n).2.1 = 0 → exec (.wicketRd ad n m) s =
      .next (wicketReads (m - 1) (s.wicketRead ad n).1 (ad + BitVec.ofNat 64 n) n [BitVec.ofNat 64 (s.wicketRead ad n).2.2])) ∧
    (on → level = 0 → ∀ o ∈ [Instr.wicketStatus, .wicketSens n m, .wicketRing n m, .wicketFmap n m, .wicketLog n m], Gives o s fun t => ans t 0x0F05 [] [] ∧ pure t) ∧
    (on → level < 2 → ∀ o ∈ [Instr.wicketRd ad n m, .wicketWr ad n v, .wicketHalt c, .wicketGo c pc, .wicketRegs c, .wicketResetWarm, .wicketResetCold],
      Gives o s fun t => ans t 0x0F05 [] [] ∧ pure t) ∧
    (on → 1 ≤ level →
      (Gives .wicketStatus s fun t => ans t 0 [s.rd .LOFT_STATUS 0 0, s.pwrStatus, s.rd .CHF_STATUS 0 0, s.rd .HSP_STATUS 0 0] [] ∧ pure t) ∧
      (Gives (.wicketSens n m) s fun t => ans t 0 (words (fun k => s.rd .LOFT_SENS (n + k) 0) (min m (768 - n))) [] ∧ pure t) ∧
      (Gives (.wicketRing n m) s fun t => ans t 0 [] ((s.ringDump.drop n).take m).flatten ∧ pure t) ∧
      (Gives (.wicketFmap n m) s fun t => ans t 0 ((List.range (min m (s.fences - n))).flatMap fun k => [s.rd .CHF_FMAP_A (n + k) 0, s.rd .CHF_FMAP_B (n + k) 0]) [] ∧ pure t) ∧
      (Gives (.wicketLog n m) s fun t => ans t 0 [] (s.logFrom n m).flatten ∧ pure t)) ∧
    (on → 2 ≤ level →
      (rd8 → Gives (.wicketRd ad n 1) s fun t => ans t 0 [BitVec.ofNat 64 (s.loadNat .csram (fld ad 24 0) n)] [] ∧ pure t) ∧
      (rd8 → Gives (.wicketWr ad n v) s fun t => ans t 0 [] [] ∧ t.loadNat .csram (fld ad 24 0) n = v.toNat % 256 ^ n ∧ t.csr = s.csr ∧ t.mem.silo = s.mem.silo) ∧
      (Gives (.wicketHalt c) s fun t => ans t 0 [] [] ∧ ((t.core c).state = .halted ∨ (t.core c).state = .doubleTrap) ∧ (t.core c).pc = k.pc ∧
        t.rdF .BND_RUN c 0 63 63 = 0 ∧ t.mem = s.mem) ∧
      (k.state = .halted ∨ k.state = .doubleTrap → s.isFenced 9 c = false → Gives (.wicketGo c pc) s fun t => ans t 0 [] [] ∧ (t.core c).state = .running ∧
        (t.core c).monitor = true ∧ (t.core c).pc = pc.toNat / 4 * 4 ∧ t.mem = s.mem) ∧
      ((k.state ≠ .halted ∧ k.state ≠ .doubleTrap) ∨ s.isFenced 9 c = true → Gives (.wicketGo c pc) s fun t => ans t 0 [] [] ∧ t.cores = s.cores ∧ t.mem = s.mem) ∧
      (s.loft.mreset = false → s.inputBelow 44000 = true ∨ s.pwr.tripped = true → Gives .wicketResetWarm s fun t => ans t 0 [] [] ∧ pure t ∧
        t.loft.logNo = s.loft.logNo + 1) ∧
      (s.pwr.tripped = true → s.tooHot = true → Gives .wicketResetCold s fun t => ans t 0 [] [] ∧ pure t) ∧
      (Gives (.wicketRegs c) s fun t => ans t 0 (words k.reg 32 ++ [BitVec.ofNat 64 k.pc] ++ words (fun n => s.ccRead c n) 10) [] ∧ pure t) ∧
      (s.pwr.tripped = false → s.inputBelow 44000 = false → s.loft.mreset = false → 2 ∈ s.loft.done → Gives .wicketResetWarm s fun t =>
        t.rdF .LOFT_STATUS 0 0 62 60 = 6 ∧ t.loft.done = [1, 2] ∧ t.mem.silo = s.mem.silo ∧ t.cores = []) ∧
      (s.pwr.tripped = false → Gives .wicketResetCold s fun t => t.rdF .LOFT_STATUS 0 0 62 60 = 6 ∧ t.loft.done = [1] ∧ t.mem.silo = [] ∧ t.arr = .reset))

/-! ### Time, reset and the memories -/

/-- R465, R467 and the model's choice of log entry 2: on an empty queue the block makes one tick of REF, which moves the time
counter by one, or by two or none where R467 corrects it, and advances the run cycles of the configured plots (R214) and the cycles
of the cores that run and that wait (Table 07.14), and changes nothing else. -/
def Obligations.IdleBlockTicks : Prop :=
  ∀ s : State, s.pending = [] → ∃ t, step s = .next t ∧ t.hay.ref = s.hay.ref + 1 ∧
    t = { s with time := t.time, hay := { s.hay with ref := t.hay.ref, dev := t.hay.dev }, csr := t.csr } ∧
    (∀ r i j, r ∉ [Reg.SEED_PLOT_RUNCYC, .BND_CYCLES, .BND_WAITCYC] → t.rd r i j = s.rd r i j) ∧
    (∀ p, p < 16 → t.rd .SEED_PLOT_RUNCYC p 0 = s.rd .SEED_PLOT_RUNCYC p 0 +
      BitVec.ofNat 64 (if s.plotConfigured p then cyclesIn (500 + 50 * s.pwr.step) s.hay.ref else 0)) ∧
    ((s.cores.map (·.1)).Nodup → (∀ x ∈ s.cores, x.1 < 64) → ∀ c, c < 64 →
      t.rd .BND_CYCLES c 0 = s.rd .BND_CYCLES c 0 + BitVec.ofNat 64 (if (s.core c).state = .halted ∨ (s.core c).state = .doubleTrap then 0 else cyclesIn 2000 s.hay.ref) ∧
      t.rd .BND_WAITCYC c 0 = s.rd .BND_WAITCYC c 0 +
        BitVec.ofNat 64 (if (s.core c).state = .wfe ∨ (s.core c).state = .await ∨ (s.core c).state = .enqueue then cyclesIn 2000 s.hay.ref else 0)) ∧
    ((s.hay.ref + 1) % 16 ≠ 0 ∨ s.hay.dev = 0 → t.time = (s.time + 1) % 2 ^ 64 ∧ t.hay.dev = s.hay.dev) ∧
    ((s.hay.ref + 1) % 16 = 0 → s.hay.dev < 0 → t.time = (s.time + 2) % 2 ^ 64 ∧ t.hay.dev = s.hay.dev + 1) ∧
    ((s.hay.ref + 1) % 16 = 0 → 0 < s.hay.dev → t.time = s.time ∧ t.hay.dev = s.hay.dev - 1)

/-- The state right after a cold reset, as R104, R148, R230, R285, R358, R465, R529, R547 and chapter 07 give it: every whole-word
counter 0, cores halted in monitor mode with ticket 0, no page dirty, no key held, nothing staged, time 0; and the memories in
canonical form. -/
def Obligations.ResetStateIsAsSpecified : Prop :=
  State.reset.time = 0 ∧ State.reset.pending = [] ∧ MemWf State.reset = true ∧ State.reset.chf.seqNo = 0 ∧
  (∀ (r : Reg) (i j : Nat), r.lasting = true → State.reset.rd r i j = 0) ∧
  (∀ c : Fin 64, (State.reset.core c).state = .halted ∧ (State.reset.core c).monitor = true ∧ (State.reset.core c).nextTicket = 0) ∧
  (∀ page, mget dFalse State.reset.mem.dirty page = false) ∧ (∀ k, mget dNil State.reset.hasp.keys k = []) ∧
  (∀ k, mget dNone State.reset.hasp.staged k = none) ∧ (∀ m, State.reset.rd .GLN_MODEL_STEP m 0 = 0) ∧
  (∀ (u : Fin 16896) (g : Fin 4), (State.reset.gen u g).epoch = 0)

/-- Every step, of every command and of the idle block, keeps the six memories in canonical form. -/
def Obligations.EveryStepKeepsMemoriesCanonical : Prop :=
  ∀ s t : State, MemWf s = true → step s = .next t → MemWf t = true
end

