-- ==== Sys2Proof/Laws/Crypto.lean ====
section
/-!
SUPPORT. Lengths of what the hash functions give.
-/
namespace Sys2Proof.Laws
open Sys2Proof Sys2Proof.Machine

theorem natToBytes_length (n v : Nat) : (natToBytes n v).length = n := by
  induction n generalizing v with
  | zero => rfl
  | succ n ih => simp [natToBytes, ih]

theorem beBytes_length (n v : Nat) : (beBytes n v).length = n := by simp [beBytes, natToBytes_length]

theorem shaRound_length (h : List Word32) (k w : Word32) : (shaRound h k w).length = h.length := by
  unfold shaRound
  split <;> rfl

theorem shaRounds_length (l : List (Word32 × Word32)) (h : List Word32) :
    (l.foldl (fun a p => shaRound a p.1 p.2) h).length = h.length := by
  induction l generalizing h with
  | nil => rfl
  | cons p l ih => simp [List.foldl_cons, ih, shaRound_length]

theorem shaBlock_length (h : List Word32) (b : List Byte) : (shaBlock h b).length = h.length := by
  simp [shaBlock, shaRounds_length]

theorem shaBlocks_length (l : List (List Byte)) (h : List Word32) : (l.foldl shaBlock h).length = h.length := by
  induction l generalizing h with
  | nil => rfl
  | cons b l ih => simp [List.foldl_cons, ih, shaBlock_length]

theorem flatMap_be4_length (l : List Word32) : (l.flatMap fun w => beBytes 4 w.toNat).length = 4 * l.length := by
  induction l with
  | nil => rfl
  | cons w l ih => simp only [List.flatMap_cons, List.length_append, beBytes_length, ih, List.length_cons]; omega

/-- A SHA-256 digest is 32 bytes. -/
@[simp] theorem sha256_length (m : List Byte) : (sha256 m).length = 32 := by
  simp only [sha256, flatMap_be4_length, shaBlocks_length]
  rfl

/-- An HMAC is 32 bytes. -/
@[simp] theorem hmac_length (k m : List Byte) : (hmac k m).length = 32 := by simp [hmac]

end Sys2Proof.Laws
end

