-- ==== Sys2Proof/Laws/Map.lean ====
section
/-!
SUPPORT. Reading after writing in a sparse map, and that every operation on one keeps its canonical form.
-/
namespace Sys2Proof.Laws
open Sys2Proof

theorem mget_merase_ne {α : Type} (d : Nat → α) (m : NMap α) {k j : Nat} (h : j ≠ k) :
    mget d (merase m k) j = mget d m j := by
  induction m with
  | nil => rfl
  | cons p m ih =>
    by_cases hp : p.1 = k
    · have : p.1 ≠ j := by omega
      have e : merase (p :: m) k = merase m k := by simp [merase, hp]
      rw [e, ih]
      simp [mget, this]
    · have e : merase (p :: m) k = p :: merase m k := by simp [merase, hp]
      rw [e]
      by_cases hj : p.1 = j <;> simp [mget, hj, ih]

theorem mget_merase_self {α : Type} (d : Nat → α) (m : NMap α) (k : Nat) : mget d (merase m k) k = d k := by
  induction m with
  | nil => rfl
  | cons p m ih =>
    by_cases hp : p.1 = k
    · have e : merase (p :: m) k = merase m k := by simp [merase, hp]
      rw [e, ih]
    · have e : merase (p :: m) k = p :: merase m k := by simp [merase, hp]
      rw [e]
      simp [mget, hp, ih]

theorem mget_minsert {α : Type} (d : Nat → α) (m : NMap α) (k : Nat) (v : α) (j : Nat) (h : ∀ p ∈ m, p.1 ≠ k) :
    mget d (minsert m k v) j = if j = k then v else mget d m j := by
  induction m with
  | nil =>
    by_cases hj : j = k
    · simp [minsert, mget, hj]
    · have : k ≠ j := fun e => hj e.symm
      simp [minsert, mget, hj, this]
  | cons p m ih =>
    have hp : p.1 ≠ k := h p (by simp)
    have ih' := ih fun q hq => h q (by simp [hq])
    by_cases hlt : k < p.1
    · have e : minsert (p :: m) k v = (k, v) :: p :: m := by simp [minsert, hlt]
      rw [e]
      by_cases hj : j = k
      · simp [mget, hj]
      · have : k ≠ j := fun e => hj e.symm
        rw [if_neg hj]
        conv => lhs; unfold mget
        simp [this]
    · have e : minsert (p :: m) k v = p :: minsert m k v := by simp [minsert, hlt]
      rw [e]
      by_cases hj : p.1 = j
      · have : j ≠ k := fun e => hp (hj.trans e)
        simp [mget, hj, this]
      · rw [show mget d (p :: minsert m k v) j = mget d (minsert m k v) j by simp [mget, hj], ih']
        by_cases hk : j = k <;> simp [mget, hj, hk]

theorem merase_no_key {α : Type} (m : NMap α) (k : Nat) : ∀ p ∈ merase m k, p.1 ≠ k := by
  intro p hp
  simpa [merase] using (List.mem_filter.mp hp).2

/-- A map after a write: the value at the key, and everything else as before. -/
theorem mget_mput {α : Type} [DecidableEq α] (d : Nat → α) (m : NMap α) (k : Nat) (v : α) (j : Nat) :
    mget d (mput d m k v) j = if j = k then v else mget d m j := by
  unfold mput
  by_cases hv : v = d k
  · rw [if_pos hv]
    by_cases hj : j = k
    · rw [if_pos hj, hj, mget_merase_self, hv]
    · rw [if_neg hj, mget_merase_ne d m hj]
  · rw [if_neg hv, mget_minsert d _ k v j (merase_no_key m k)]
    by_cases hj : j = k
    · simp [hj]
    · simp [hj, mget_merase_ne d m hj]

@[simp] theorem mget_mput_self {α : Type} [DecidableEq α] (d : Nat → α) (m : NMap α) (k : Nat) (v : α) :
    mget d (mput d m k v) k = v := by simp [mget_mput]

/-- Elsewhere than at the key, whatever defaults the write and the read go by. -/
theorem mget_mput_ne {α : Type} [DecidableEq α] (d e : Nat → α) (m : NMap α) {k j : Nat} (v : α) (h : j ≠ k) :
    mget e (mput d m k v) j = mget e m j := by
  unfold mput
  split
  · exact mget_merase_ne e m h
  · rw [mget_minsert e _ k v j (merase_no_key m k), if_neg h, mget_merase_ne e m h]

/-! ### The canonical form -/

theorem mwf_cons {α : Type} [DecidableEq α] (d : Nat → α) (p : Nat × α) (m : NMap α) :
    mwf d (p :: m) = true ↔ p.2 ≠ d p.1 ∧ (∀ q ∈ m, p.1 < q.1) ∧ mwf d m = true := by
  simp [mwf, and_assoc]

theorem mwf_filter {α : Type} [DecidableEq α] (d : Nat → α) (f : Nat × α → Bool) (m : NMap α) (h : mwf d m = true) :
    mwf d (m.filter f) = true := by
  induction m with
  | nil => rfl
  | cons p m ih =>
    obtain ⟨h1, h2, h3⟩ := (mwf_cons d p m).mp h
    by_cases hf : f p = true
    · rw [List.filter_cons_of_pos hf]
      exact (mwf_cons d p _).mpr ⟨h1, fun q hq => h2 q (List.mem_filter.mp hq).1, ih h3⟩
    · rw [List.filter_cons_of_neg hf]
      exact ih h3

theorem mwf_merase {α : Type} [DecidableEq α] (d : Nat → α) (m : NMap α) (k : Nat) (h : mwf d m = true) :
    mwf d (merase m k) = true := mwf_filter d _ m h

theorem mem_minsert {α : Type} (m : NMap α) (k : Nat) (v : α) (q : Nat × α) (h : q ∈ minsert m k v) : q = (k, v) ∨ q ∈ m := by
  induction m with
  | nil => simpa [minsert] using h
  | cons p m ih =>
    by_cases hlt : k < p.1
    · simpa [minsert, hlt] using h
    · have : q = p ∨ q ∈ minsert m k v := by simpa [minsert, hlt] using h
      rcases this with h | h
      · exact .inr (by simp [h])
      · rcases ih h with h | h
        · exact .inl h
        · exact .inr (by simp [h])

theorem mwf_minsert {α : Type} [DecidableEq α] (d : Nat → α) (m : NMap α) (k : Nat) (v : α) (h : mwf d m = true)
    (hk : ∀ p ∈ m, p.1 ≠ k) (hv : v ≠ d k) : mwf d (minsert m k v) = true := by
  induction m with
  | nil => simp [minsert, mwf, hv]
  | cons p m ih =>
    obtain ⟨h1, h2, h3⟩ := (mwf_cons d p m).mp h
    have hp : p.1 ≠ k := hk p (by simp)
    by_cases hlt : k < p.1
    · have e : minsert (p :: m) k v = (k, v) :: p :: m := by simp [minsert, hlt]
      rw [e]
      refine (mwf_cons d _ _).mpr ⟨hv, ?_, h⟩
      intro q hq
      rcases List.mem_cons.mp hq with rfl | hq
      · exact hlt
      · exact lt_trans hlt (h2 q hq)
    · have e : minsert (p :: m) k v = p :: minsert m k v := by simp [minsert, hlt]
      rw [e]
      refine (mwf_cons d _ _).mpr ⟨h1, ?_, ih h3 fun q hq => hk q (by simp [hq])⟩
      intro q hq
      rcases mem_minsert m k v q hq with rfl | hq
      · exact lt_of_le_of_ne (not_lt.mp hlt) hp
      · exact h2 q hq

/-- Every write keeps the canonical form. -/
theorem mwf_mput {α : Type} [DecidableEq α] (d : Nat → α) (m : NMap α) (k : Nat) (v : α) (h : mwf d m = true) :
    mwf d (mput d m k v) = true := by
  unfold mput
  by_cases hv : v = d k
  · rw [if_pos hv]
    exact mwf_merase d m k h
  · rw [if_neg hv]
    exact mwf_minsert d _ k v (mwf_merase d m k h) (merase_no_key m k) hv

end Sys2Proof.Laws
end

