-- ==== Sys2Proof/Laws/State.lean ====
section
/-!
SUPPORT. The small lemmas of State: one per field per update, and reading back what an update wrote.
-/
namespace Sys2Proof.Laws
open Sys2Proof Sys2Proof.Machine

@[simp] theorem wr_pending (s : State) (r : Reg) (i j : Nat) (v : Word) : (s.wr r i j v).pending = s.pending := rfl
@[simp] theorem wr_time (s : State) (r : Reg) (i j : Nat) (v : Word) : (s.wr r i j v).time = s.time := rfl
@[simp] theorem wr_free (s : State) (r : Reg) (i j : Nat) (v : Word) : (s.wr r i j v).free = s.free := rfl
@[simp] theorem wr_rdata (s : State) (r : Reg) (i j : Nat) (v : Word) : (s.wr r i j v).rdata = s.rdata := rfl
@[simp] theorem wr_rstat (s : State) (r : Reg) (i j : Nat) (v : Word) : (s.wr r i j v).rstat = s.rstat := rfl
@[simp] theorem wr_mem (s : State) (r : Reg) (i j : Nat) (v : Word) : (s.wr r i j v).mem = s.mem := rfl
@[simp] theorem wr_arr (s : State) (r : Reg) (i j : Nat) (v : Word) : (s.wr r i j v).arr = s.arr := rfl
@[simp] theorem wr_cores (s : State) (r : Reg) (i j : Nat) (v : Word) : (s.wr r i j v).cores = s.cores := rfl
@[simp] theorem wr_chf (s : State) (r : Reg) (i j : Nat) (v : Word) : (s.wr r i j v).chf = s.chf := rfl
@[simp] theorem wr_hop (s : State) (r : Reg) (i j : Nat) (v : Word) : (s.wr r i j v).hop = s.hop := rfl
@[simp] theorem wr_rings (s : State) (r : Reg) (i j : Nat) (v : Word) : (s.wr r i j v).rings = s.rings := rfl
@[simp] theorem wr_tier (s : State) (r : Reg) (i j : Nat) (v : Word) : (s.wr r i j v).tier = s.tier := rfl
@[simp] theorem wr_win (s : State) (r : Reg) (i j : Nat) (v : Word) : (s.wr r i j v).win = s.win := rfl
@[simp] theorem wr_gln (s : State) (r : Reg) (i j : Nat) (v : Word) : (s.wr r i j v).gln = s.gln := rfl
@[simp] theorem wr_hasp (s : State) (r : Reg) (i j : Nat) (v : Word) : (s.wr r i j v).hasp = s.hasp := rfl
@[simp] theorem wr_hay (s : State) (r : Reg) (i j : Nat) (v : Word) : (s.wr r i j v).hay = s.hay := rfl
@[simp] theorem wr_rdl (s : State) (r : Reg) (i j : Nat) (v : Word) : (s.wr r i j v).rdl = s.rdl := rfl
@[simp] theorem wr_pwr (s : State) (r : Reg) (i j : Nat) (v : Word) : (s.wr r i j v).pwr = s.pwr := rfl
@[simp] theorem wr_loft (s : State) (r : Reg) (i j : Nat) (v : Word) : (s.wr r i j v).loft = s.loft := rfl

@[simp] theorem wrF_pending (s : State) (r : Reg) (i j hi lo x : Nat) : (s.wrF r i j hi lo x).pending = s.pending := rfl
@[simp] theorem wrF_time (s : State) (r : Reg) (i j hi lo x : Nat) : (s.wrF r i j hi lo x).time = s.time := rfl
@[simp] theorem wrF_free (s : State) (r : Reg) (i j hi lo x : Nat) : (s.wrF r i j hi lo x).free = s.free := rfl
@[simp] theorem wrF_rdata (s : State) (r : Reg) (i j hi lo x : Nat) : (s.wrF r i j hi lo x).rdata = s.rdata := rfl
@[simp] theorem wrF_rstat (s : State) (r : Reg) (i j hi lo x : Nat) : (s.wrF r i j hi lo x).rstat = s.rstat := rfl
@[simp] theorem wrF_mem (s : State) (r : Reg) (i j hi lo x : Nat) : (s.wrF r i j hi lo x).mem = s.mem := rfl
@[simp] theorem wrF_arr (s : State) (r : Reg) (i j hi lo x : Nat) : (s.wrF r i j hi lo x).arr = s.arr := rfl
@[simp] theorem wrF_cores (s : State) (r : Reg) (i j hi lo x : Nat) : (s.wrF r i j hi lo x).cores = s.cores := rfl
@[simp] theorem wrF_chf (s : State) (r : Reg) (i j hi lo x : Nat) : (s.wrF r i j hi lo x).chf = s.chf := rfl
@[simp] theorem wrF_hop (s : State) (r : Reg) (i j hi lo x : Nat) : (s.wrF r i j hi lo x).hop = s.hop := rfl
@[simp] theorem wrF_rings (s : State) (r : Reg) (i j hi lo x : Nat) : (s.wrF r i j hi lo x).rings = s.rings := rfl
@[simp] theorem wrF_tier (s : State) (r : Reg) (i j hi lo x : Nat) : (s.wrF r i j hi lo x).tier = s.tier := rfl
@[simp] theorem wrF_win (s : State) (r : Reg) (i j hi lo x : Nat) : (s.wrF r i j hi lo x).win = s.win := rfl
@[simp] theorem wrF_gln (s : State) (r : Reg) (i j hi lo x : Nat) : (s.wrF r i j hi lo x).gln = s.gln := rfl
@[simp] theorem wrF_hasp (s : State) (r : Reg) (i j hi lo x : Nat) : (s.wrF r i j hi lo x).hasp = s.hasp := rfl
@[simp] theorem wrF_hay (s : State) (r : Reg) (i j hi lo x : Nat) : (s.wrF r i j hi lo x).hay = s.hay := rfl
@[simp] theorem wrF_rdl (s : State) (r : Reg) (i j hi lo x : Nat) : (s.wrF r i j hi lo x).rdl = s.rdl := rfl
@[simp] theorem wrF_pwr (s : State) (r : Reg) (i j hi lo x : Nat) : (s.wrF r i j hi lo x).pwr = s.pwr := rfl
@[simp] theorem wrF_loft (s : State) (r : Reg) (i j hi lo x : Nat) : (s.wrF r i j hi lo x).loft = s.loft := rfl

@[simp] theorem inc_pending (s : State) (r : Reg) (i j n : Nat) : (s.inc r i j n).pending = s.pending := rfl
@[simp] theorem inc_time (s : State) (r : Reg) (i j n : Nat) : (s.inc r i j n).time = s.time := rfl
@[simp] theorem inc_free (s : State) (r : Reg) (i j n : Nat) : (s.inc r i j n).free = s.free := rfl
@[simp] theorem inc_rdata (s : State) (r : Reg) (i j n : Nat) : (s.inc r i j n).rdata = s.rdata := rfl
@[simp] theorem inc_rstat (s : State) (r : Reg) (i j n : Nat) : (s.inc r i j n).rstat = s.rstat := rfl
@[simp] theorem inc_mem (s : State) (r : Reg) (i j n : Nat) : (s.inc r i j n).mem = s.mem := rfl
@[simp] theorem inc_arr (s : State) (r : Reg) (i j n : Nat) : (s.inc r i j n).arr = s.arr := rfl
@[simp] theorem inc_cores (s : State) (r : Reg) (i j n : Nat) : (s.inc r i j n).cores = s.cores := rfl
@[simp] theorem inc_chf (s : State) (r : Reg) (i j n : Nat) : (s.inc r i j n).chf = s.chf := rfl
@[simp] theorem inc_hop (s : State) (r : Reg) (i j n : Nat) : (s.inc r i j n).hop = s.hop := rfl
@[simp] theorem inc_rings (s : State) (r : Reg) (i j n : Nat) : (s.inc r i j n).rings = s.rings := rfl
@[simp] theorem inc_tier (s : State) (r : Reg) (i j n : Nat) : (s.inc r i j n).tier = s.tier := rfl
@[simp] theorem inc_win (s : State) (r : Reg) (i j n : Nat) : (s.inc r i j n).win = s.win := rfl
@[simp] theorem inc_gln (s : State) (r : Reg) (i j n : Nat) : (s.inc r i j n).gln = s.gln := rfl
@[simp] theorem inc_hasp (s : State) (r : Reg) (i j n : Nat) : (s.inc r i j n).hasp = s.hasp := rfl
@[simp] theorem inc_hay (s : State) (r : Reg) (i j n : Nat) : (s.inc r i j n).hay = s.hay := rfl
@[simp] theorem inc_rdl (s : State) (r : Reg) (i j n : Nat) : (s.inc r i j n).rdl = s.rdl := rfl
@[simp] theorem inc_pwr (s : State) (r : Reg) (i j n : Nat) : (s.inc r i j n).pwr = s.pwr := rfl
@[simp] theorem inc_loft (s : State) (r : Reg) (i j n : Nat) : (s.inc r i j n).loft = s.loft := rfl

@[simp] theorem store_pending (s : State) (sp : Space) (a : Nat) (bs : List Byte) : (s.store sp a bs).pending = s.pending := rfl
@[simp] theorem store_time (s : State) (sp : Space) (a : Nat) (bs : List Byte) : (s.store sp a bs).time = s.time := rfl
@[simp] theorem store_free (s : State) (sp : Space) (a : Nat) (bs : List Byte) : (s.store sp a bs).free = s.free := rfl
@[simp] theorem store_rdata (s : State) (sp : Space) (a : Nat) (bs : List Byte) : (s.store sp a bs).rdata = s.rdata := rfl
@[simp] theorem store_rstat (s : State) (sp : Space) (a : Nat) (bs : List Byte) : (s.store sp a bs).rstat = s.rstat := rfl
@[simp] theorem store_csr (s : State) (sp : Space) (a : Nat) (bs : List Byte) : (s.store sp a bs).csr = s.csr := rfl
@[simp] theorem store_arr (s : State) (sp : Space) (a : Nat) (bs : List Byte) : (s.store sp a bs).arr = s.arr := rfl
@[simp] theorem store_cores (s : State) (sp : Space) (a : Nat) (bs : List Byte) : (s.store sp a bs).cores = s.cores := rfl
@[simp] theorem store_chf (s : State) (sp : Space) (a : Nat) (bs : List Byte) : (s.store sp a bs).chf = s.chf := rfl
@[simp] theorem store_hop (s : State) (sp : Space) (a : Nat) (bs : List Byte) : (s.store sp a bs).hop = s.hop := rfl
@[simp] theorem store_rings (s : State) (sp : Space) (a : Nat) (bs : List Byte) : (s.store sp a bs).rings = s.rings := rfl
@[simp] theorem store_tier (s : State) (sp : Space) (a : Nat) (bs : List Byte) : (s.store sp a bs).tier = s.tier := rfl
@[simp] theorem store_win (s : State) (sp : Space) (a : Nat) (bs : List Byte) : (s.store sp a bs).win = s.win := rfl
@[simp] theorem store_gln (s : State) (sp : Space) (a : Nat) (bs : List Byte) : (s.store sp a bs).gln = s.gln := rfl
@[simp] theorem store_hasp (s : State) (sp : Space) (a : Nat) (bs : List Byte) : (s.store sp a bs).hasp = s.hasp := rfl
@[simp] theorem store_hay (s : State) (sp : Space) (a : Nat) (bs : List Byte) : (s.store sp a bs).hay = s.hay := rfl
@[simp] theorem store_rdl (s : State) (sp : Space) (a : Nat) (bs : List Byte) : (s.store sp a bs).rdl = s.rdl := rfl
@[simp] theorem store_pwr (s : State) (sp : Space) (a : Nat) (bs : List Byte) : (s.store sp a bs).pwr = s.pwr := rfl
@[simp] theorem store_loft (s : State) (sp : Space) (a : Nat) (bs : List Byte) : (s.store sp a bs).loft = s.loft := rfl

@[simp] theorem setTile_pending (s : State) (i : Nat) (t : Tile) : (s.setTile i t).pending = s.pending := rfl
@[simp] theorem setTile_time (s : State) (i : Nat) (t : Tile) : (s.setTile i t).time = s.time := rfl
@[simp] theorem setTile_free (s : State) (i : Nat) (t : Tile) : (s.setTile i t).free = s.free := rfl
@[simp] theorem setTile_rdata (s : State) (i : Nat) (t : Tile) : (s.setTile i t).rdata = s.rdata := rfl
@[simp] theorem setTile_rstat (s : State) (i : Nat) (t : Tile) : (s.setTile i t).rstat = s.rstat := rfl
@[simp] theorem setTile_csr (s : State) (i : Nat) (t : Tile) : (s.setTile i t).csr = s.csr := rfl
@[simp] theorem setTile_mem (s : State) (i : Nat) (t : Tile) : (s.setTile i t).mem = s.mem := rfl
@[simp] theorem setTile_cores (s : State) (i : Nat) (t : Tile) : (s.setTile i t).cores = s.cores := rfl
@[simp] theorem setTile_chf (s : State) (i : Nat) (t : Tile) : (s.setTile i t).chf = s.chf := rfl
@[simp] theorem setTile_hop (s : State) (i : Nat) (t : Tile) : (s.setTile i t).hop = s.hop := rfl
@[simp] theorem setTile_rings (s : State) (i : Nat) (t : Tile) : (s.setTile i t).rings = s.rings := rfl
@[simp] theorem setTile_tier (s : State) (i : Nat) (t : Tile) : (s.setTile i t).tier = s.tier := rfl
@[simp] theorem setTile_win (s : State) (i : Nat) (t : Tile) : (s.setTile i t).win = s.win := rfl
@[simp] theorem setTile_gln (s : State) (i : Nat) (t : Tile) : (s.setTile i t).gln = s.gln := rfl
@[simp] theorem setTile_hasp (s : State) (i : Nat) (t : Tile) : (s.setTile i t).hasp = s.hasp := rfl
@[simp] theorem setTile_hay (s : State) (i : Nat) (t : Tile) : (s.setTile i t).hay = s.hay := rfl
@[simp] theorem setTile_rdl (s : State) (i : Nat) (t : Tile) : (s.setTile i t).rdl = s.rdl := rfl
@[simp] theorem setTile_pwr (s : State) (i : Nat) (t : Tile) : (s.setTile i t).pwr = s.pwr := rfl
@[simp] theorem setTile_loft (s : State) (i : Nat) (t : Tile) : (s.setTile i t).loft = s.loft := rfl

@[simp] theorem setCu_pending (s : State) (u : Nat) (c : Cu) : (s.setCu u c).pending = s.pending := rfl
@[simp] theorem setCu_time (s : State) (u : Nat) (c : Cu) : (s.setCu u c).time = s.time := rfl
@[simp] theorem setCu_free (s : State) (u : Nat) (c : Cu) : (s.setCu u c).free = s.free := rfl
@[simp] theorem setCu_rdata (s : State) (u : Nat) (c : Cu) : (s.setCu u c).rdata = s.rdata := rfl
@[simp] theorem setCu_rstat (s : State) (u : Nat) (c : Cu) : (s.setCu u c).rstat = s.rstat := rfl
@[simp] theorem setCu_csr (s : State) (u : Nat) (c : Cu) : (s.setCu u c).csr = s.csr := rfl
@[simp] theorem setCu_mem (s : State) (u : Nat) (c : Cu) : (s.setCu u c).mem = s.mem := rfl
@[simp] theorem setCu_cores (s : State) (u : Nat) (c : Cu) : (s.setCu u c).cores = s.cores := rfl
@[simp] theorem setCu_chf (s : State) (u : Nat) (c : Cu) : (s.setCu u c).chf = s.chf := rfl
@[simp] theorem setCu_hop (s : State) (u : Nat) (c : Cu) : (s.setCu u c).hop = s.hop := rfl
@[simp] theorem setCu_rings (s : State) (u : Nat) (c : Cu) : (s.setCu u c).rings = s.rings := rfl
@[simp] theorem setCu_tier (s : State) (u : Nat) (c : Cu) : (s.setCu u c).tier = s.tier := rfl
@[simp] theorem setCu_win (s : State) (u : Nat) (c : Cu) : (s.setCu u c).win = s.win := rfl
@[simp] theorem setCu_gln (s : State) (u : Nat) (c : Cu) : (s.setCu u c).gln = s.gln := rfl
@[simp] theorem setCu_hasp (s : State) (u : Nat) (c : Cu) : (s.setCu u c).hasp = s.hasp := rfl
@[simp] theorem setCu_hay (s : State) (u : Nat) (c : Cu) : (s.setCu u c).hay = s.hay := rfl
@[simp] theorem setCu_rdl (s : State) (u : Nat) (c : Cu) : (s.setCu u c).rdl = s.rdl := rfl
@[simp] theorem setCu_pwr (s : State) (u : Nat) (c : Cu) : (s.setCu u c).pwr = s.pwr := rfl
@[simp] theorem setCu_loft (s : State) (u : Nat) (c : Cu) : (s.setCu u c).loft = s.loft := rfl

@[simp] theorem setMu_pending (s : State) (u : Nat) (c : Mu) : (s.setMu u c).pending = s.pending := rfl
@[simp] theorem setMu_time (s : State) (u : Nat) (c : Mu) : (s.setMu u c).time = s.time := rfl
@[simp] theorem setMu_free (s : State) (u : Nat) (c : Mu) : (s.setMu u c).free = s.free := rfl
@[simp] theorem setMu_rdata (s : State) (u : Nat) (c : Mu) : (s.setMu u c).rdata = s.rdata := rfl
@[simp] theorem setMu_rstat (s : State) (u : Nat) (c : Mu) : (s.setMu u c).rstat = s.rstat := rfl
@[simp] theorem setMu_csr (s : State) (u : Nat) (c : Mu) : (s.setMu u c).csr = s.csr := rfl
@[simp] theorem setMu_mem (s : State) (u : Nat) (c : Mu) : (s.setMu u c).mem = s.mem := rfl
@[simp] theorem setMu_cores (s : State) (u : Nat) (c : Mu) : (s.setMu u c).cores = s.cores := rfl
@[simp] theorem setMu_chf (s : State) (u : Nat) (c : Mu) : (s.setMu u c).chf = s.chf := rfl
@[simp] theorem setMu_hop (s : State) (u : Nat) (c : Mu) : (s.setMu u c).hop = s.hop := rfl
@[simp] theorem setMu_rings (s : State) (u : Nat) (c : Mu) : (s.setMu u c).rings = s.rings := rfl
@[simp] theorem setMu_tier (s : State) (u : Nat) (c : Mu) : (s.setMu u c).tier = s.tier := rfl
@[simp] theorem setMu_win (s : State) (u : Nat) (c : Mu) : (s.setMu u c).win = s.win := rfl
@[simp] theorem setMu_gln (s : State) (u : Nat) (c : Mu) : (s.setMu u c).gln = s.gln := rfl
@[simp] theorem setMu_hasp (s : State) (u : Nat) (c : Mu) : (s.setMu u c).hasp = s.hasp := rfl
@[simp] theorem setMu_hay (s : State) (u : Nat) (c : Mu) : (s.setMu u c).hay = s.hay := rfl
@[simp] theorem setMu_rdl (s : State) (u : Nat) (c : Mu) : (s.setMu u c).rdl = s.rdl := rfl
@[simp] theorem setMu_pwr (s : State) (u : Nat) (c : Mu) : (s.setMu u c).pwr = s.pwr := rfl
@[simp] theorem setMu_loft (s : State) (u : Nat) (c : Mu) : (s.setMu u c).loft = s.loft := rfl

@[simp] theorem setPlot_pending (s : State) (p : Nat) (x : Plot) : (s.setPlot p x).pending = s.pending := rfl
@[simp] theorem setPlot_time (s : State) (p : Nat) (x : Plot) : (s.setPlot p x).time = s.time := rfl
@[simp] theorem setPlot_free (s : State) (p : Nat) (x : Plot) : (s.setPlot p x).free = s.free := rfl
@[simp] theorem setPlot_rdata (s : State) (p : Nat) (x : Plot) : (s.setPlot p x).rdata = s.rdata := rfl
@[simp] theorem setPlot_rstat (s : State) (p : Nat) (x : Plot) : (s.setPlot p x).rstat = s.rstat := rfl
@[simp] theorem setPlot_csr (s : State) (p : Nat) (x : Plot) : (s.setPlot p x).csr = s.csr := rfl
@[simp] theorem setPlot_mem (s : State) (p : Nat) (x : Plot) : (s.setPlot p x).mem = s.mem := rfl
@[simp] theorem setPlot_cores (s : State) (p : Nat) (x : Plot) : (s.setPlot p x).cores = s.cores := rfl
@[simp] theorem setPlot_chf (s : State) (p : Nat) (x : Plot) : (s.setPlot p x).chf = s.chf := rfl
@[simp] theorem setPlot_hop (s : State) (p : Nat) (x : Plot) : (s.setPlot p x).hop = s.hop := rfl
@[simp] theorem setPlot_rings (s : State) (p : Nat) (x : Plot) : (s.setPlot p x).rings = s.rings := rfl
@[simp] theorem setPlot_tier (s : State) (p : Nat) (x : Plot) : (s.setPlot p x).tier = s.tier := rfl
@[simp] theorem setPlot_win (s : State) (p : Nat) (x : Plot) : (s.setPlot p x).win = s.win := rfl
@[simp] theorem setPlot_gln (s : State) (p : Nat) (x : Plot) : (s.setPlot p x).gln = s.gln := rfl
@[simp] theorem setPlot_hasp (s : State) (p : Nat) (x : Plot) : (s.setPlot p x).hasp = s.hasp := rfl
@[simp] theorem setPlot_hay (s : State) (p : Nat) (x : Plot) : (s.setPlot p x).hay = s.hay := rfl
@[simp] theorem setPlot_rdl (s : State) (p : Nat) (x : Plot) : (s.setPlot p x).rdl = s.rdl := rfl
@[simp] theorem setPlot_pwr (s : State) (p : Nat) (x : Plot) : (s.setPlot p x).pwr = s.pwr := rfl
@[simp] theorem setPlot_loft (s : State) (p : Nat) (x : Plot) : (s.setPlot p x).loft = s.loft := rfl

@[simp] theorem setCore_pending (s : State) (c : Nat) (x : Core) : (s.setCore c x).pending = s.pending := rfl
@[simp] theorem setCore_time (s : State) (c : Nat) (x : Core) : (s.setCore c x).time = s.time := rfl
@[simp] theorem setCore_free (s : State) (c : Nat) (x : Core) : (s.setCore c x).free = s.free := rfl
@[simp] theorem setCore_rdata (s : State) (c : Nat) (x : Core) : (s.setCore c x).rdata = s.rdata := rfl
@[simp] theorem setCore_rstat (s : State) (c : Nat) (x : Core) : (s.setCore c x).rstat = s.rstat := rfl
@[simp] theorem setCore_csr (s : State) (c : Nat) (x : Core) : (s.setCore c x).csr = s.csr := rfl
@[simp] theorem setCore_mem (s : State) (c : Nat) (x : Core) : (s.setCore c x).mem = s.mem := rfl
@[simp] theorem setCore_arr (s : State) (c : Nat) (x : Core) : (s.setCore c x).arr = s.arr := rfl
@[simp] theorem setCore_chf (s : State) (c : Nat) (x : Core) : (s.setCore c x).chf = s.chf := rfl
@[simp] theorem setCore_hop (s : State) (c : Nat) (x : Core) : (s.setCore c x).hop = s.hop := rfl
@[simp] theorem setCore_rings (s : State) (c : Nat) (x : Core) : (s.setCore c x).rings = s.rings := rfl
@[simp] theorem setCore_tier (s : State) (c : Nat) (x : Core) : (s.setCore c x).tier = s.tier := rfl
@[simp] theorem setCore_win (s : State) (c : Nat) (x : Core) : (s.setCore c x).win = s.win := rfl
@[simp] theorem setCore_gln (s : State) (c : Nat) (x : Core) : (s.setCore c x).gln = s.gln := rfl
@[simp] theorem setCore_hasp (s : State) (c : Nat) (x : Core) : (s.setCore c x).hasp = s.hasp := rfl
@[simp] theorem setCore_hay (s : State) (c : Nat) (x : Core) : (s.setCore c x).hay = s.hay := rfl
@[simp] theorem setCore_rdl (s : State) (c : Nat) (x : Core) : (s.setCore c x).rdl = s.rdl := rfl
@[simp] theorem setCore_pwr (s : State) (c : Nat) (x : Core) : (s.setCore c x).pwr = s.pwr := rfl
@[simp] theorem setCore_loft (s : State) (c : Nat) (x : Core) : (s.setCore c x).loft = s.loft := rfl

@[simp] theorem setChf_pending (s : State) (c : ChfSt) : (s.setChf c).pending = s.pending := rfl
@[simp] theorem setChf_time (s : State) (c : ChfSt) : (s.setChf c).time = s.time := rfl
@[simp] theorem setChf_free (s : State) (c : ChfSt) : (s.setChf c).free = s.free := rfl
@[simp] theorem setChf_rdata (s : State) (c : ChfSt) : (s.setChf c).rdata = s.rdata := rfl
@[simp] theorem setChf_rstat (s : State) (c : ChfSt) : (s.setChf c).rstat = s.rstat := rfl
@[simp] theorem setChf_csr (s : State) (c : ChfSt) : (s.setChf c).csr = s.csr := rfl
@[simp] theorem setChf_mem (s : State) (c : ChfSt) : (s.setChf c).mem = s.mem := rfl
@[simp] theorem setChf_arr (s : State) (c : ChfSt) : (s.setChf c).arr = s.arr := rfl
@[simp] theorem setChf_cores (s : State) (c : ChfSt) : (s.setChf c).cores = s.cores := rfl
@[simp] theorem setChf_hop (s : State) (c : ChfSt) : (s.setChf c).hop = s.hop := rfl
@[simp] theorem setChf_rings (s : State) (c : ChfSt) : (s.setChf c).rings = s.rings := rfl
@[simp] theorem setChf_tier (s : State) (c : ChfSt) : (s.setChf c).tier = s.tier := rfl
@[simp] theorem setChf_win (s : State) (c : ChfSt) : (s.setChf c).win = s.win := rfl
@[simp] theorem setChf_gln (s : State) (c : ChfSt) : (s.setChf c).gln = s.gln := rfl
@[simp] theorem setChf_hasp (s : State) (c : ChfSt) : (s.setChf c).hasp = s.hasp := rfl
@[simp] theorem setChf_hay (s : State) (c : ChfSt) : (s.setChf c).hay = s.hay := rfl
@[simp] theorem setChf_rdl (s : State) (c : ChfSt) : (s.setChf c).rdl = s.rdl := rfl
@[simp] theorem setChf_pwr (s : State) (c : ChfSt) : (s.setChf c).pwr = s.pwr := rfl
@[simp] theorem setChf_loft (s : State) (c : ChfSt) : (s.setChf c).loft = s.loft := rfl

@[simp] theorem setHay_pending (s : State) (h : HaySt) : (s.setHay h).pending = s.pending := rfl
@[simp] theorem setHay_time (s : State) (h : HaySt) : (s.setHay h).time = s.time := rfl
@[simp] theorem setHay_free (s : State) (h : HaySt) : (s.setHay h).free = s.free := rfl
@[simp] theorem setHay_rdata (s : State) (h : HaySt) : (s.setHay h).rdata = s.rdata := rfl
@[simp] theorem setHay_rstat (s : State) (h : HaySt) : (s.setHay h).rstat = s.rstat := rfl
@[simp] theorem setHay_csr (s : State) (h : HaySt) : (s.setHay h).csr = s.csr := rfl
@[simp] theorem setHay_mem (s : State) (h : HaySt) : (s.setHay h).mem = s.mem := rfl
@[simp] theorem setHay_arr (s : State) (h : HaySt) : (s.setHay h).arr = s.arr := rfl
@[simp] theorem setHay_cores (s : State) (h : HaySt) : (s.setHay h).cores = s.cores := rfl
@[simp] theorem setHay_chf (s : State) (h : HaySt) : (s.setHay h).chf = s.chf := rfl
@[simp] theorem setHay_hop (s : State) (h : HaySt) : (s.setHay h).hop = s.hop := rfl
@[simp] theorem setHay_rings (s : State) (h : HaySt) : (s.setHay h).rings = s.rings := rfl
@[simp] theorem setHay_tier (s : State) (h : HaySt) : (s.setHay h).tier = s.tier := rfl
@[simp] theorem setHay_win (s : State) (h : HaySt) : (s.setHay h).win = s.win := rfl
@[simp] theorem setHay_gln (s : State) (h : HaySt) : (s.setHay h).gln = s.gln := rfl
@[simp] theorem setHay_hasp (s : State) (h : HaySt) : (s.setHay h).hasp = s.hasp := rfl
@[simp] theorem setHay_rdl (s : State) (h : HaySt) : (s.setHay h).rdl = s.rdl := rfl
@[simp] theorem setHay_pwr (s : State) (h : HaySt) : (s.setHay h).pwr = s.pwr := rfl
@[simp] theorem setHay_loft (s : State) (h : HaySt) : (s.setHay h).loft = s.loft := rfl

@[simp] theorem setLoft_pending (s : State) (l : LoftSt) : (s.setLoft l).pending = s.pending := rfl
@[simp] theorem setLoft_time (s : State) (l : LoftSt) : (s.setLoft l).time = s.time := rfl
@[simp] theorem setLoft_free (s : State) (l : LoftSt) : (s.setLoft l).free = s.free := rfl
@[simp] theorem setLoft_rdata (s : State) (l : LoftSt) : (s.setLoft l).rdata = s.rdata := rfl
@[simp] theorem setLoft_rstat (s : State) (l : LoftSt) : (s.setLoft l).rstat = s.rstat := rfl
@[simp] theorem setLoft_csr (s : State) (l : LoftSt) : (s.setLoft l).csr = s.csr := rfl
@[simp] theorem setLoft_mem (s : State) (l : LoftSt) : (s.setLoft l).mem = s.mem := rfl
@[simp] theorem setLoft_arr (s : State) (l : LoftSt) : (s.setLoft l).arr = s.arr := rfl
@[simp] theorem setLoft_cores (s : State) (l : LoftSt) : (s.setLoft l).cores = s.cores := rfl
@[simp] theorem setLoft_chf (s : State) (l : LoftSt) : (s.setLoft l).chf = s.chf := rfl
@[simp] theorem setLoft_hop (s : State) (l : LoftSt) : (s.setLoft l).hop = s.hop := rfl
@[simp] theorem setLoft_rings (s : State) (l : LoftSt) : (s.setLoft l).rings = s.rings := rfl
@[simp] theorem setLoft_tier (s : State) (l : LoftSt) : (s.setLoft l).tier = s.tier := rfl
@[simp] theorem setLoft_win (s : State) (l : LoftSt) : (s.setLoft l).win = s.win := rfl
@[simp] theorem setLoft_gln (s : State) (l : LoftSt) : (s.setLoft l).gln = s.gln := rfl
@[simp] theorem setLoft_hasp (s : State) (l : LoftSt) : (s.setLoft l).hasp = s.hasp := rfl
@[simp] theorem setLoft_hay (s : State) (l : LoftSt) : (s.setLoft l).hay = s.hay := rfl
@[simp] theorem setLoft_rdl (s : State) (l : LoftSt) : (s.setLoft l).rdl = s.rdl := rfl
@[simp] theorem setLoft_pwr (s : State) (l : LoftSt) : (s.setLoft l).pwr = s.pwr := rfl

@[simp] theorem setPwr_pending (s : State) (p : PwrSt) : (s.setPwr p).pending = s.pending := rfl
@[simp] theorem setPwr_time (s : State) (p : PwrSt) : (s.setPwr p).time = s.time := rfl
@[simp] theorem setPwr_free (s : State) (p : PwrSt) : (s.setPwr p).free = s.free := rfl
@[simp] theorem setPwr_rdata (s : State) (p : PwrSt) : (s.setPwr p).rdata = s.rdata := rfl
@[simp] theorem setPwr_rstat (s : State) (p : PwrSt) : (s.setPwr p).rstat = s.rstat := rfl
@[simp] theorem setPwr_csr (s : State) (p : PwrSt) : (s.setPwr p).csr = s.csr := rfl
@[simp] theorem setPwr_mem (s : State) (p : PwrSt) : (s.setPwr p).mem = s.mem := rfl
@[simp] theorem setPwr_arr (s : State) (p : PwrSt) : (s.setPwr p).arr = s.arr := rfl
@[simp] theorem setPwr_cores (s : State) (p : PwrSt) : (s.setPwr p).cores = s.cores := rfl
@[simp] theorem setPwr_chf (s : State) (p : PwrSt) : (s.setPwr p).chf = s.chf := rfl
@[simp] theorem setPwr_hop (s : State) (p : PwrSt) : (s.setPwr p).hop = s.hop := rfl
@[simp] theorem setPwr_rings (s : State) (p : PwrSt) : (s.setPwr p).rings = s.rings := rfl
@[simp] theorem setPwr_tier (s : State) (p : PwrSt) : (s.setPwr p).tier = s.tier := rfl
@[simp] theorem setPwr_win (s : State) (p : PwrSt) : (s.setPwr p).win = s.win := rfl
@[simp] theorem setPwr_gln (s : State) (p : PwrSt) : (s.setPwr p).gln = s.gln := rfl
@[simp] theorem setPwr_hasp (s : State) (p : PwrSt) : (s.setPwr p).hasp = s.hasp := rfl
@[simp] theorem setPwr_hay (s : State) (p : PwrSt) : (s.setPwr p).hay = s.hay := rfl
@[simp] theorem setPwr_rdl (s : State) (p : PwrSt) : (s.setPwr p).rdl = s.rdl := rfl
@[simp] theorem setPwr_loft (s : State) (p : PwrSt) : (s.setPwr p).loft = s.loft := rfl

@[simp] theorem setHasp_pending (s : State) (h : HaspSt) : (s.setHasp h).pending = s.pending := rfl
@[simp] theorem setHasp_time (s : State) (h : HaspSt) : (s.setHasp h).time = s.time := rfl
@[simp] theorem setHasp_free (s : State) (h : HaspSt) : (s.setHasp h).free = s.free := rfl
@[simp] theorem setHasp_rdata (s : State) (h : HaspSt) : (s.setHasp h).rdata = s.rdata := rfl
@[simp] theorem setHasp_rstat (s : State) (h : HaspSt) : (s.setHasp h).rstat = s.rstat := rfl
@[simp] theorem setHasp_csr (s : State) (h : HaspSt) : (s.setHasp h).csr = s.csr := rfl
@[simp] theorem setHasp_mem (s : State) (h : HaspSt) : (s.setHasp h).mem = s.mem := rfl
@[simp] theorem setHasp_arr (s : State) (h : HaspSt) : (s.setHasp h).arr = s.arr := rfl
@[simp] theorem setHasp_cores (s : State) (h : HaspSt) : (s.setHasp h).cores = s.cores := rfl
@[simp] theorem setHasp_chf (s : State) (h : HaspSt) : (s.setHasp h).chf = s.chf := rfl
@[simp] theorem setHasp_hop (s : State) (h : HaspSt) : (s.setHasp h).hop = s.hop := rfl
@[simp] theorem setHasp_rings (s : State) (h : HaspSt) : (s.setHasp h).rings = s.rings := rfl
@[simp] theorem setHasp_tier (s : State) (h : HaspSt) : (s.setHasp h).tier = s.tier := rfl
@[simp] theorem setHasp_win (s : State) (h : HaspSt) : (s.setHasp h).win = s.win := rfl
@[simp] theorem setHasp_gln (s : State) (h : HaspSt) : (s.setHasp h).gln = s.gln := rfl
@[simp] theorem setHasp_hay (s : State) (h : HaspSt) : (s.setHasp h).hay = s.hay := rfl
@[simp] theorem setHasp_rdl (s : State) (h : HaspSt) : (s.setHasp h).rdl = s.rdl := rfl
@[simp] theorem setHasp_pwr (s : State) (h : HaspSt) : (s.setHasp h).pwr = s.pwr := rfl
@[simp] theorem setHasp_loft (s : State) (h : HaspSt) : (s.setHasp h).loft = s.loft := rfl

/-! ### Registers -/

/-- A register is known by its index. -/
theorem idx_inj {r q : Reg} (h : r.idx = q.idx) : r = q := by
  rw [← Reg.ofNat_ctorIdx r, ← Reg.ofNat_ctorIdx q]
  exact congrArg Reg.ofNat h

/-- Keys of registers, instances and words are distinct. -/
theorem key_inj {r q : Reg} {i j i' j' : Nat} (hi : i < 2 ^ 20) (hj : j < 2 ^ 12) (hi' : i' < 2 ^ 20) (hj' : j' < 2 ^ 12)
    (h : r.key i j = q.key i' j') : r = q ∧ i = i' ∧ j = j' := by
  have e : r.idx = q.idx ∧ i = i' ∧ j = j' := by
    simp only [Reg.key, Nat.mod_eq_of_lt hi, Nat.mod_eq_of_lt hj, Nat.mod_eq_of_lt hi', Nat.mod_eq_of_lt hj'] at h
    omega
  exact ⟨idx_inj e.1, e.2⟩

theorem key_ne_reg {r q : Reg} (i j i' j' : Nat) (h : r ≠ q) : r.key i j ≠ q.key i' j' := by
  intro e
  refine h (idx_inj ?_)
  simp only [Reg.key] at e
  omega

@[simp] theorem rd_wr_self (s : State) (r : Reg) (i j : Nat) (v : Word) : (s.wr r i j v).rd r i j = v := by
  simp [State.rd, State.wr]

theorem rd_wr_reg (s : State) {r q : Reg} (i j i' j' : Nat) (v : Word) (h : q ≠ r) :
    (s.wr r i j v).rd q i' j' = s.rd q i' j' := by
  simp only [State.rd, State.wr]
  exact mget_mput_ne _ _ _ _ (key_ne_reg _ _ _ _ h)

theorem rd_wr_inst (s : State) (r : Reg) {i j i' j' : Nat} (v : Word) (hi : i < 2 ^ 20) (hj : j < 2 ^ 12) (hi' : i' < 2 ^ 20)
    (hj' : j' < 2 ^ 12) (h : i' ≠ i ∨ j' ≠ j) : (s.wr r i j v).rd r i' j' = s.rd r i' j' := by
  simp only [State.rd, State.wr]
  refine mget_mput_ne _ _ _ _ fun e => ?_
  obtain ⟨-, h1, h2⟩ := key_inj hi' hj' hi hj e
  exact h.elim (fun x => x h1) fun x => x h2

/-- Reads go through the register file alone. -/
theorem rd_congr {s t : State} (h : t.csr = s.csr) (r : Reg) (i j : Nat) : t.rd r i j = s.rd r i j := by
  simp [State.rd, h]

/-! ### Parts by index -/

theorem core_setCore (s : State) (c k : Nat) (x : Core) : (s.setCore c x).core k = if k = c then x else s.core k := by
  simp [State.core, State.setCore, mget_mput]
@[simp] theorem core_setCore_self (s : State) (c : Nat) (x : Core) : (s.setCore c x).core c = x := by simp [core_setCore]
theorem tile_setTile (s : State) (i k : Nat) (x : Tile) : (s.setTile i x).tile k = if k = i then x else s.tile k := by
  simp [State.tile, State.setTile, mget_mput]
@[simp] theorem tile_setTile_self (s : State) (i : Nat) (x : Tile) : (s.setTile i x).tile i = x := by simp [tile_setTile]
theorem cu_setCu (s : State) (u k : Nat) (x : Cu) : (s.setCu u x).cu k = if k = u then x else s.cu k := by
  simp [State.cu, State.setCu, mget_mput]
@[simp] theorem cu_setCu_self (s : State) (u : Nat) (x : Cu) : (s.setCu u x).cu u = x := by simp [cu_setCu]
theorem mu_setMu (s : State) (u k : Nat) (x : Mu) : (s.setMu u x).mu k = if k = u then x else s.mu k := by
  simp [State.mu, State.setMu, mget_mput]
@[simp] theorem mu_setMu_self (s : State) (u : Nat) (x : Mu) : (s.setMu u x).mu u = x := by simp [mu_setMu]
theorem plot_setPlot (s : State) (p k : Nat) (x : Plot) : (s.setPlot p x).plot k = if k = p then x else s.plot k := by
  simp [State.plot, State.setPlot, mget_mput]
@[simp] theorem plot_setPlot_self (s : State) (p : Nat) (x : Plot) : (s.setPlot p x).plot p = x := by simp [plot_setPlot]

/-! ### Core registers -/

theorem setReg_reg (k : Core) (d n : Nat) (v : Word) :
    (k.setReg d v).reg n = if n = 0 then 0 else if n = d then v else k.reg n := by
  unfold Core.setReg Core.reg
  by_cases hn : n = 0
  · simp [hn]
  · by_cases hd : d = 0
    · have : n ≠ d := by omega
      simp [hn, hd]
    · by_cases h : n = d
      · simp [h, hd]
      · simp [hn, hd, h, mget_mput]

@[simp] theorem setReg_cc (k : Core) (d : Nat) (v : Word) : (k.setReg d v).cc = k.cc := by unfold Core.setReg; split <;> rfl
@[simp] theorem setReg_pc (k : Core) (d : Nat) (v : Word) : (k.setReg d v).pc = k.pc := by unfold Core.setReg; split <;> rfl
@[simp] theorem setReg_monitor (k : Core) (d : Nat) (v : Word) : (k.setReg d v).monitor = k.monitor := by
  unfold Core.setReg; split <;> rfl
@[simp] theorem setReg_cmds (k : Core) (d : Nat) (v : Word) : (k.setReg d v).cmds = k.cmds := by unfold Core.setReg; split <;> rfl
@[simp] theorem setReg_done (k : Core) (d : Nat) (v : Word) : (k.setReg d v).done = k.done := by unfold Core.setReg; split <;> rfl
@[simp] theorem setReg_arriving (k : Core) (d : Nat) (v : Word) : (k.setReg d v).arriving = k.arriving := by
  unfold Core.setReg; split <;> rfl
@[simp] theorem setReg_nextTicket (k : Core) (d : Nat) (v : Word) : (k.setReg d v).nextTicket = k.nextTicket := by
  unfold Core.setReg; split <;> rfl

theorem ccr_setCc (k : Core) (n m : Nat) (v : Word) : (k.setCc n v).ccr m = if m = n then v else k.ccr m := by
  simp [Core.ccr, Core.setCc, mget_mput]

/-! ### Memories -/

theorem sp_setSp (m : MemSt) (a b : Space) (x : NMap Byte) : (m.setSp a x).sp b = if b = a then x else m.sp b := by
  cases a <;> cases b <;> rfl

theorem mget_putBytes (m : NMap Byte) (a : Nat) (bs : List Byte) (k : Nat) :
    mget byte0 (putBytes m a bs) k = if a ≤ k ∧ k < a + bs.length then lget bs (k - a) 0 else mget byte0 m k := by
  induction bs generalizing m a with
  | nil => simp [putBytes]
  | cons b bs ih =>
    rw [putBytes, ih]
    by_cases h1 : a + 1 ≤ k ∧ k < a + 1 + bs.length
    · have h2 : a ≤ k ∧ k < a + (b :: bs).length := by simp only [List.length_cons]; omega
      have h3 : k - a = (k - (a + 1)) + 1 := by omega
      rw [if_pos h1, if_pos h2, h3]
      simp [lget]
    · rw [if_neg h1, mget_mput]
      by_cases h2 : k = a
      · simp [h2, lget]
      · have h3 : ¬(a ≤ k ∧ k < a + (b :: bs).length) := by simp only [List.length_cons]; omega
        rw [if_neg h2, if_neg h3]

/-- A byte after a store: the byte stored there, or what was there. -/
theorem byteAt_store (s : State) (sp q : Space) (a : Nat) (bs : List Byte) (k : Nat) :
    (s.store sp a bs).byteAt q k = if q = sp ∧ a ≤ k ∧ k < a + bs.length then lget bs (k - a) 0 else s.byteAt q k := by
  simp only [State.byteAt, State.store, sp_setSp]
  by_cases h : q = sp
  · subst h
    rw [if_pos rfl, mget_putBytes]
    by_cases h2 : a ≤ k ∧ k < a + bs.length <;> simp [h2]
  · simp [h]

theorem mwf_putBytes (m : NMap Byte) (a : Nat) (bs : List Byte) (h : mwf byte0 m = true) : mwf byte0 (putBytes m a bs) = true := by
  induction bs generalizing m a with
  | nil => exact h
  | cons b bs ih => exact ih _ _ (mwf_mput _ _ _ _ h)

end Sys2Proof.Laws
end

