-- ==== Sys2Proof/Laws/Memory.lean ====
section
/-!
SUPPORT. The memories: reading after writing, lengths, when an access succeeds, and that every operation that writes bytes keeps
the canonical form.
-/
namespace Sys2Proof.Laws
open Sys2Proof Sys2Proof.Machine Sys2Proof.Safety

/-! ### Lengths -/

@[simp] theorem load_length (s : State) (sp : Space) (a n : Nat) : (s.load sp a n).length = n := by simp [State.load]

@[simp] theorem readLoc_length (s : State) (a : Nat) (l : Loc) (n : Nat) : (s.readLoc a l n).length = n := by
  cases l <;> simp [State.readLoc]

/-! ### Reading after writing -/

@[simp] theorem sp_setSp_self (m : MemSt) (p : Space) (x : NMap Byte) : (m.setSp p x).sp p = x := by cases p <;> rfl

theorem sp_setSp_ne (m : MemSt) {p q : Space} (x : NMap Byte) (h : q ≠ p) : (m.setSp p x).sp q = m.sp q := by
  cases p <;> cases q <;> first | rfl | exact absurd rfl h

/-- A load at the bytes stored gives them. -/
theorem load_store (s : State) (p : Space) (a : Nat) (bs : List Byte) : (s.store p a bs).load p a bs.length = bs := by
  apply List.ext_getElem
  · simp
  · intro i h1 h2
    simp [State.load, byteAt_store, h2, lget]

/-! ### When an access succeeds -/

theorem fetch_ok {s : State} {w : Who} {a n : Nat} {v : Bool} {l : Loc} (h : s.resolve w a n false v false = .ok l)
    (hm : s.media a l n false = 0) : s.fetch w a n v = .ok (s.readLoc a l n) := by
  simp [State.fetch, h, hm]

theorem put_ok {s : State} {w : Who} {a : Nat} {bs : List Byte} {v : Bool} {l : Loc} (h : s.resolve w a bs.length true v false = .ok l)
    (hm : s.media a l bs.length true = 0) : s.put w a bs v = .ok (s.writeLoc a l bs) := by
  simp [State.put, h, hm]

/-- A write that succeeds writes at the place its address names. -/
theorem put_cases {s t : State} {w : Who} {a : Nat} {bs : List Byte} {v : Bool} (h : s.put w a bs v = .ok t) :
    ∃ l, s.resolve w a bs.length true v false = .ok l ∧ s.media a l bs.length true = 0 ∧ t = s.writeLoc a l bs := by
  unfold State.put at h
  split at h
  · cases h
  · next l hl =>
    split at h
    · cases h
    · next hm =>
      cases h
      exact ⟨l, hl, by simpa using hm, rfl⟩

/-! ### The canonical form -/

theorem memWf_iff (s : State) : MemWf s = true ↔ ∀ p : Space, mwf byte0 (s.mem.sp p) = true := by
  constructor
  · intro h p
    simp only [MemWf, Bool.and_eq_true] at h
    obtain ⟨⟨⟨⟨⟨h1, h2⟩, h3⟩, h4⟩, h5⟩, h6⟩ := h
    cases p <;> assumption
  · intro h
    simp only [MemWf, Bool.and_eq_true]
    exact ⟨⟨⟨⟨⟨h .silo, h .bin⟩, h .csram⟩, h .lmem⟩, h .gran⟩, h .host⟩

theorem memWf_reset : MemWf State.reset = true := by decide

/-- A step that leaves the six memories as they are keeps the form. -/
theorem memWf_congr {s t : State} (h : ∀ p : Space, t.mem.sp p = s.mem.sp p) (hs : MemWf s = true) : MemWf t = true :=
  (memWf_iff t).mpr fun p => by rw [h p]; exact (memWf_iff s).mp hs p

theorem memWf_store {s : State} (p : Space) (a : Nat) (bs : List Byte) (h : MemWf s = true) : MemWf (s.store p a bs) = true := by
  refine (memWf_iff _).mpr fun q => ?_
  by_cases hq : q = p
  · subst hq
    simpa [State.store] using mwf_putBytes _ a bs ((memWf_iff s).mp h q)
  · simpa [State.store, sp_setSp_ne s.mem _ hq] using (memWf_iff s).mp h q

/-- A fold of operations that leave the memories alone leaves them alone. -/
theorem foldl_mem {α : Type} (f : State → α → State) (hf : ∀ t x, (f t x).mem = t.mem) (l : List α) (s : State) : (l.foldl f s).mem = s.mem := by
  induction l generalizing s with
  | nil => rfl
  | cons x l ih => exact (ih _).trans (hf _ _)

@[simp] theorem activate_mem (s : State) (r : Nat) : (s.activate r).mem = s.mem := by unfold State.activate; dsimp only; split <;> rfl

@[simp] theorem touchSilo_mem (s : State) (a n : Nat) : (s.touchSilo a n).mem = s.mem := by
  unfold State.touchSilo; split
  · rfl
  · exact foldl_mem _ activate_mem _ _

@[simp] theorem countSilo_mem (s : State) (r : Reg) (a n : Nat) : (s.countSilo r a n).mem = s.mem := by
  unfold State.countSilo; split
  · rfl
  · rw [foldl_mem _ (fun t p => inc_mem t _ _ _ _), touchSilo_mem]

theorem memWf_writeSilo {s : State} (x : Nat) (bs : List Byte) (h : MemWf s = true) : MemWf (s.writeSilo x bs) = true := by
  unfold State.writeSilo
  dsimp only
  split
  · exact h
  · exact memWf_congr (s := s.store .silo x bs) (fun p => by cases p <;> simp [MemSt.sp]) (memWf_store .silo x bs h)

theorem memWf_writeBin {s : State} (u o : Nat) (bs : List Byte) (h : MemWf s = true) : MemWf (s.writeBin u o bs) = true := by
  unfold State.writeBin
  exact memWf_congr (s := s.store .bin (u * 0x40000 + o) bs) (fun p => by cases p <;> rfl) (memWf_store .bin _ bs h)

theorem memWf_foldl_store {α : Type} (p : Space) (f : State → α → Nat) (g : α → List Byte) (l : List α) {s : State} (h : MemWf s = true) :
    MemWf (l.foldl (fun t k => t.store p (f t k) (g k)) s) = true := by
  induction l generalizing s with
  | nil => exact h
  | cons x l ih => exact ih (memWf_store p _ _ h)

theorem memWf_writeLoc {s : State} (a : Nat) (l : Loc) (bs : List Byte) (h : MemWf s = true) : MemWf (s.writeLoc a l bs) = true := by
  cases l with
  | silo x => exact memWf_writeSilo x bs h
  | bin u o => exact memWf_writeBin u o bs h
  | gran y => exact memWf_foldl_store .gran (fun t k => granByte t a k) (fun k => [lget bs k 0]) _ h
  | host x =>
    simp only [State.writeLoc]
    split
    · exact h
    · exact memWf_store .host x bs h

theorem memWf_put {s t : State} {w : Who} {a : Nat} {bs : List Byte} {v : Bool} (e : s.put w a bs v = .ok t) (h : MemWf s = true) :
    MemWf t = true := by
  obtain ⟨l, -, -, rfl⟩ := put_cases e
  exact memWf_writeLoc a l bs h

theorem memWf_lmStore {s : State} (c o : Nat) (bs : List Byte) (h : MemWf s = true) : MemWf (s.lmStore c o bs) = true := by
  unfold State.lmStore
  dsimp only
  split
  · exact memWf_congr (fun p => by cases p <;> rfl) (memWf_store .lmem _ bs h)
  · exact memWf_store .lmem _ bs h

theorem memWf_ownStore {s : State} (lm : Bool) (c o : Nat) (bs : List Byte) (h : MemWf s = true) : MemWf (s.ownStore lm c o bs) = true := by
  unfold State.ownStore
  cases lm
  · simp only [Bool.false_eq_true, if_false]
    split
    · exact memWf_congr (fun p => by cases p <;> rfl) (memWf_store .csram _ bs h)
    · exact memWf_store .csram _ bs h
  · exact memWf_lmStore c o bs h

end Sys2Proof.Laws
end

