-- ==== Sys2Proof/Laws/Ramnak.lean ====
section
/-!
SUPPORT. What the shared operations of Ramnak-C do: issue, retirement, jumps.
-/
namespace Sys2Proof.Laws
open Sys2Proof Sys2Proof.Machine Sys2Proof.Safety

/-- A core that runs word `w` next issues that word's instruction and no other. -/
theorem instr_of_runs {s : State} {c w : Nat} (h : Runs s c w) (f : State → State) : s.instr c w f = .next (f s) := by
  obtain ⟨h1, h2, h3⟩ := h
  have : ¬((s.core c).state ≠ .running ∧ (s.core c).state ≠ .enqueue) := by
    rcases h1 with h1 | h1 <;> simp [h1]
  simp [State.instr, State.instrWhen, this, h2, h3]

theorem instr_of_other {s : State} {c w x : Nat} (h : Runs s c x) (hw : x ≠ w) (f : State → State) : s.instr c w f = .next s := by
  obtain ⟨h1, h2, h3⟩ := h
  have : ¬((s.core c).state ≠ .running ∧ (s.core c).state ≠ .enqueue) := by
    rcases h1 with h1 | h1 <;> simp [h1]
  simp [State.instr, State.instrWhen, this, h2, h3, hw]

theorem onlyCore_set (s : State) (c : Nat) (x : Core) : OnlyCore s ((s.setCore c x).inc .BND_INSNS c 0 1) c := by
  refine ⟨rfl, ?_, ?_, ?_⟩
  · intro k hk
    show (s.setCore c x).core k = s.core k
    simp [core_setCore, hk]
  · show ((s.setCore c x).wr .BND_INSNS c 0 _).rd .BND_INSNS c 0 = _
    rw [rd_wr_self]
    rfl
  · intro r i j hr
    show ((s.setCore c x).wr .BND_INSNS c 0 _).rd r i j = _
    rw [rd_wr_reg _ _ _ _ _ _ hr]
    rfl

/-- What retiring with a register write does. -/
theorem retire_wrote (s : State) (c d : Nat) (v : Word) : Wrote s (s.retire c fun k => k.setReg d v) c d v := by
  have e : (s.retire c fun k => k.setReg d v).core c = { (s.core c).setReg d v with
      pc := (((s.core c).setReg d v).pc + 4) % 0x20000, state := .running } := core_setCore_self s c _
  refine ⟨?_, ?_, ?_, ?_, ?_, onlyCore_set s c _⟩
  · intro n
    rw [e]
    show ((s.core c).setReg d v).reg n = _
    rw [setReg_reg]
    by_cases h0 : n = 0
    · simp [h0, Core.reg]
    · by_cases hd : n = d
      · have : d ≠ 0 := by omega
        simp [hd, this]
      · simp [h0, hd]
  all_goals rw [e]
  all_goals simp

/-- Retiring without a register write. -/
theorem retire_id (s : State) (c : Nat) : Wrote s (s.retire c id) c 0 0 := by
  have e : (s.retire c id).core c = { s.core c with pc := ((s.core c).pc + 4) % 0x20000, state := .running } := core_setCore_self s c _
  refine ⟨?_, ?_, ?_, ?_, ?_, onlyCore_set s c _⟩
  · intro n
    rw [e]
    by_cases h0 : n = 0
    · simp [h0, Core.reg]
    · simp only [h0, false_and, if_false]
      rfl
  all_goals rw [e]

/-- What a jump with a register write does. -/
theorem jump_jumped (s : State) (c d pc : Nat) (v : Word) : Jumped s (s.jump c pc fun k => k.setReg d v) c d v (pc % 0x20000) := by
  have e : (s.jump c pc fun k => k.setReg d v).core c = { (s.core c).setReg d v with pc := pc % 0x20000, state := .running } :=
    core_setCore_self s c _
  refine ⟨?_, ?_, ?_, ?_, ?_, onlyCore_set s c _⟩
  · intro n
    rw [e]
    show ((s.core c).setReg d v).reg n = _
    rw [setReg_reg]
    by_cases h0 : n = 0
    · simp [h0, Core.reg]
    · by_cases hd : n = d
      · have : d ≠ 0 := by omega
        simp [hd, this]
      · simp [h0, hd]
  all_goals rw [e]
  all_goals simp

/-- An instruction that writes one register. -/
theorem alu_gives {s : State} {c w : Nat} (h : Runs s c w) (d : Nat) (v : Core → Word) :
    ∃ t, s.alu c w d v = .next t ∧ Wrote s t c d (v (s.core c)) :=
  ⟨_, instr_of_runs h _, retire_wrote s c d _⟩

end Sys2Proof.Laws
end

