-- ==== Sys2Proof/WellFormed.lean ====
section
/-!
DEFINITION. When the operands of a command have the form that its row gives them. The types of the constructors bound every
other operand, so a row that is not named here is always well formed. No meaning rests on these checks: `exec` gives a command
that fails one the effect of what it holds.
-/
namespace Sys2Proof

/-- The checks: an access of a silo line stays inside it (R266); a cartway packet has at most 8 payload flits (R174); a granary
request starts on a unit of 256 bytes and its data fill its units (R293); a group's control flit, and a link flit, is 256 bytes (R291, R432); an
identity record is 64 bytes (Table 14.4); a link's keys are of AES-256 and its initial credits nine (R437); boot steps are
numbered from 1 (Table 18.2); log reads take 1 to 4 records (Table 18.4); an unlock signature is 64 bytes (R548); the wicket
reads and writes 1, 2, 4 or 8 bytes (Table 18.8). -/
def Instr.wellFormed : Instr → Bool
  | .siloIntakeAccess addr acc _ _ _ _ =>
    let n := match acc with
      | .write bs => bs.length
      | .read n => n
    decide (0 < n ∧ addr.toNat % 64 + n ≤ 64)
  | .cartwayPacketArrival _ _ payload _ _ => decide (payload.length ≤ 8)
  | .granaryRequestSend _ _ raddr units data _ _ => decide (raddr.toNat % 256 = 0) &&
    (match data with
     | some bs => decide (bs.length = 256 * (units.val + 1))
     | none => true)
  | .granaryGroupReceive _ ctl data => decide (ctl.length = 256) && data.all fun f => decide (f.length = 256)
  | .linkFlitReceive _ flit _ _ => decide (flit.length = 256)
  | .identityFlitReceive _ record => decide (record.length = 64)
  | .keyingComplete _ keys depths => decide (depths.length = 9) &&
    (match keys with
     | some (tx, rx) => decide (tx.length = 32 ∧ rx.length = 32)
     | none => true)
  | .bootStepComplete step _ => decide (0 < step.val)
  | .kzLogRead _ count => decide (1 ≤ count ∧ count ≤ 4)
  | .wicketUnlock _ sig => decide (sig.length = 64)
  | .wicketRd _ width _ => [1, 2, 4, 8].contains width
  | .wicketWr _ width _ => [1, 2, 4, 8].contains width
  | _ => true

end Sys2Proof
end

