-- ==== Sys2Proof/Tests/Slice0.lean ====
section
/-!
SUPPORT. The model's own tests: words the manual spells out, well-formedness, and, for every obligation with hypotheses, a state
and operands that meet them, clause by clause.
-/
namespace Sys2Proof.Tests
open Sys2Proof Sys2Proof.Machine Sys2Proof.Safety Sys2Proof.Laws
set_option maxRecDepth 100000
set_option synthInstance.maxHeartbeats 400000
set_option linter.unusedVariables false
set_option Elab.async false

/-! ### States -/


def up0 : State := (((State.reset.wrF .LOFT_STATUS 0 0 63 63 1).wrF .HSP_STATUS 0 0 58 56 3).wr .HOP_LINK 0 0 0x145).wr .HOP_FN_HMSIZE 0 0 0xFFFFFFFF000
def P : State := ((up0.wr .SEED_PLOT_BOUNDS 0 0 0x100).wr .SILO_RGN_A 0 0 0xF8009FFFFF000000).wr .SILO_RGN_B 0 0 0xFFFFFFFF
def errOf {ε α : Type} : Except ε α → List ε
  | .ok _ => []
  | .error e => [e]
def takenS : LoadRes → List State
  | .taken t _ => [t]
  | _ => []
def takenE : LoadRes → List Byte
  | .taken _ e => [e]
  | _ => []
def issueS : IssueRes → List State
  | .taken t => [t]
  | _ => []
def coreIn (k : Core) (w : Nat) : State :=
  (up0.setCore 5 { k with state := .running, pc := 64 }).store .lmem (5 * 0x20000 + 64) (natToBytes 4 w)
def kA : Core := { Core.reset with regs := [(1, 0x7FFFFFFFFFFFFFFF), (2, 0x4000000000000000), (3, 0xFFFFFFFFFFFFFFFF)] }

/-- A state and operands that meet the hypotheses of each clause of `StepRunsTheFrontCommand`. -/
theorem wit_StepRunsTheFrontCommand :
    (
    let c : Instr := Instr.fencePersist
    let cs : List Instr := []
    let s : State := { up0 with pending := [.fencePersist] }
    s.pending = c :: cs) := by decide +kernel

/-- A state and operands that meet the hypotheses of each clause of `CommandsLeaveTheQueue`. -/
theorem wit_CommandsLeaveTheQueue :
    (∃ t, step { up0 with pending := [.fencePersist, .ready] } = .next t) := ⟨_, rfl⟩

/-- A state and operands that meet the hypotheses of each clause of `IntegerInstructionsComplete`. -/
theorem wit_IntegerInstructionsComplete :
    (
    ((List.range 17).all fun nth => (([0, 1, 2, 3, 4, 5, 6, 7, 8, 9, 10, 11, 12, 13, 0x10, 0x11, 0x12, 0x14, 0x15, 0x16, 0x17].map fun f => coreIn kA
      (encRR 0 1 2 3 f)) ++ [0x18, 0x19, 0x1A].map fun f => coreIn kA (encRR 0 1 2 0 f) : List (State)).any fun s =>
    let c : Fin 64 := 5
    let d : Fin 32 := 1
    let a : Fin 32 := 2
    let b : Fin 32 := 3
    let x := (s.core c).reg a
    let y := (s.core c).reg b
    (([(.add c d a b, 0x00, x + y), (.sub c d a b, 0x01, x - y), (.and c d a b, 0x02, x &&& y), (.or c d a b, 0x03, x ||| y), (.xor c d a b, 0x04, x
      ^^^ y), (.shl c d a b, 0x05, x <<< (y.toNat % 64)), (.shr c d a b, 0x06, x >>> (y.toNat % 64)), (.sar c d a b, 0x07, x.sshiftRight (y.toNat %
      64)), (.slt c d a b, 0x08, if x.toInt < y.toInt then (1 : Word) else 0), (.sltu c d a b, 0x09, if x.toNat < y.toNat then (1 : Word) else 0),
      (.min c d a b, 0x0A, if x.toInt < y.toInt then x else y), (.max c d a b, 0x0B, if x.toInt < y.toInt then y else x), (.minu c d a b, 0x0C, if
      x.toNat < y.toNat then x else y), (.maxu c d a b, 0x0D, if x.toNat < y.toNat then y else x), (.mul c d a b, 0x10, x * y), (.mulhu c d a b, 0x11,
      BitVec.ofNat 64 (x.toNat * y.toNat / 2 ^ 64)), (.mulh c d a b, 0x12, BitVec.ofInt 64 (x.toInt * y.toInt / 2 ^ 64))] : List (Instr × Nat ×
      Word))[nth]?.toList).any fun p => decide (Runs s c (encRR 0 d a b p.2.1))) = true) ∧
    (
    ((List.range 4).all fun nth => (([0, 1, 2, 3, 4, 5, 6, 7, 8, 9, 10, 11, 12, 13, 0x10, 0x11, 0x12, 0x14, 0x15, 0x16, 0x17].map fun f => coreIn kA
      (encRR 0 1 2 3 f)) ++ [0x18, 0x19, 0x1A].map fun f => coreIn kA (encRR 0 1 2 0 f) : List (State)).any fun s =>
    let c : Fin 64 := 5
    let d : Fin 32 := 1
    let a : Fin 32 := 2
    let b : Fin 32 := 3
    let x := (s.core c).reg a
    let y := (s.core c).reg b
    let ones : Word := BitVec.allOnes 64
    let least : Word := BitVec.intMin 64
    (([(.div c d a b, 0x14, if y = 0 then ones else if x = least ∧ y = ones then least else x.sdiv y), (.divu c d a b, 0x15, if y = 0 then ones else x
      / y), (.rem c d a b, 0x16, if y = 0 then x else if x = least ∧ y = ones then 0 else x.srem y), (.remu c d a b, 0x17, if y = 0 then x else x %
      y)] : List (Instr × Nat × Word))[nth]?.toList).any fun p => decide (Runs s c (encRR 0 d a b p.2.1))) = true) ∧
    (
    ( (([0, 1, 2, 3, 4, 5, 6, 7, 8, 9, 10, 11, 12, 13, 0x10, 0x11, 0x12, 0x14, 0x15, 0x16, 0x17].map fun f => coreIn kA (encRR 0 1 2 3 f)) ++ [0x18,
      0x19, 0x1A].map fun f => coreIn kA (encRR 0 1 2 0 f) : List (State)).any fun s =>
    let c : Fin 64 := 5
    let d : Fin 32 := 1
    let a : Fin 32 := 2
    decide (Runs s c (encRR 0 d a 0 0x18))) = true) ∧
    (
    ( (([0, 1, 2, 3, 4, 5, 6, 7, 8, 9, 10, 11, 12, 13, 0x10, 0x11, 0x12, 0x14, 0x15, 0x16, 0x17].map fun f => coreIn kA (encRR 0 1 2 3 f)) ++ [0x18,
      0x19, 0x1A].map fun f => coreIn kA (encRR 0 1 2 0 f) : List (State)).any fun s =>
    let c : Fin 64 := 5
    let d : Fin 32 := 1
    let a : Fin 32 := 2
    decide (Runs s c (encRR 0 d a 0 0x19))) = true) ∧
    (
    ( (([0, 1, 2, 3, 4, 5, 6, 7, 8, 9, 10, 11, 12, 13, 0x10, 0x11, 0x12, 0x14, 0x15, 0x16, 0x17].map fun f => coreIn kA (encRR 0 1 2 3 f)) ++ [0x18,
      0x19, 0x1A].map fun f => coreIn kA (encRR 0 1 2 0 f) : List (State)).any fun s =>
    let c : Fin 64 := 5
    let d : Fin 32 := 1
    let a : Fin 32 := 2
    decide (Runs s c (encRR 0 d a 0 0x1A))) = true) ∧
    (
    ((List.range 11).all fun nth => (([(4, 2), (5, 2), (6, 2), (7, 2), (8, 2), (9, 2), (11, 2), (12, 2)].map fun f => coreIn kA (encI f.1 1 f.2
      0x8000)) ++ [63, 127, 191].map fun f => coreIn kA (encI 10 1 2 f) : List (State)).any fun s =>
    let c : Fin 64 := 5
    let d : Fin 32 := 1
    let a : Fin 32 := 2
    let m : BitVec 16 := 0x8000
    let k : Fin 64 := 63
    let h : Fin 4 := 2
    let x := (s.core c).reg a
    let sx : Word := m.signExtend 64
    let zx : Word := m.setWidth 64
    let hi : Word := 0xFFFF <<< (16 * h.val)
    (([(.addi c d a m, encI 0x04 d a m, x + sx), (.andi c d a m, encI 0x05 d a m, x &&& zx), (.ori c d a m, encI 0x06 d a m, x ||| zx), (.xori c d a
      m, encI 0x07 d a m, x ^^^ zx), (.slti c d a m, encI 0x08 d a m, if x.toInt < sx.toInt then (1 : Word) else 0), (.sltiu c d a m, encI 0x09 d a m,
      if x.toNat < sx.toNat then (1 : Word) else 0), (.shli c d a k, encI 0x0A d a (BitVec.ofNat 16 k), x <<< k.val), (.shri c d a k, encI 0x0A d a
      (BitVec.ofNat 16 (64 + k)), x >>> k.val), (.sari c d a k, encI 0x0A d a (BitVec.ofNat 16 (128 + k)), x.sshiftRight k.val), (.liz c d h m, encI
      0x0B d h.val m, zx <<< (16 * h.val)), (.lik c d h m, encI 0x0C d h.val m, ((s.core c).reg d &&& ~~~hi) ||| (zx <<< (16 * h.val)))] : List (Instr
      × Nat × Word))[nth]?.toList).any fun p => decide (Runs s c p.2.1)) = true) := by
  refine ⟨?_, ?_, ?_, ?_, ?_, ?_⟩ <;> decide +kernel

/-- A state and operands that meet the hypotheses of each clause of `FloatInstructionsComplete`. -/
theorem wit_FloatInstructionsComplete :
    (
    ((List.range 15).all fun nth => (([0, 1, 2, 3, 4, 5, 6, 8, 9, 10].map fun f => coreIn kA (encRR 1 1 2 3 f)) ++ [7, 0xC, 0xD, 0xE, 0xF].map fun f
      => coreIn kA (encRR 1 1 2 0 f) : List (State)).any fun s =>
    let c : Fin 64 := 5
    let d : Fin 32 := 1
    let a : Fin 32 := 2
    let b : Fin 32 := 3
    let v := fun (n : Fin 32) => Fmt.fp32.decode (((s.core c).reg n).toNat % 2 ^ 32)
    let out := fun (r : FVal) => BitVec.ofNat 64 (Fmt.fp32.ofVal RCtx.rne r).1
    let rel := (v a).cmp (v b)
    (([(.fadd c d a b, encRR 1 d a b 0x00, out ((v a).add (v b)).1), (.fsub c d a b, encRR 1 d a b 0x01, out ((v a).add (v b).neg).1), (.fmul c d a b,
      encRR 1 d a b 0x02, out ((v a).mul (v b)).1), (.fdiv c d a b, encRR 1 d a b 0x03, BitVec.ofNat 64 (Fmt.fp32.divide RCtx.rne (v a) (v b)).1),
      (.fmin c d a b, encRR 1 d a b 0x04, out (FVal.minmax false (v a) (v b))), (.fmax c d a b, encRR 1 d a b 0x05, out (FVal.minmax true (v a) (v
      b))), (.ffma c d a b, encRR 1 d a b 0x06, out (FVal.fma (v a) (v b) (v d)).1), (.fsqrt c d a, encRR 1 d a 0 0x07, BitVec.ofNat 64 (Fmt.fp32.sqrt
      RCtx.rne (v a)).1), (.feq c d a b, encRR 1 d a b 0x08, if rel = some 0 then (1 : Word) else 0), (.flt c d a b, encRR 1 d a b 0x09, if rel = some
      (-1) then (1 : Word) else 0), (.fle c d a b, encRR 1 d a b 0x0A, if rel = some 0 ∨ rel = some (-1) then (1 : Word) else 0), (.fcvtsl c d a,
      encRR 1 d a 0 0x0C, out (FVal.ofInt ((s.core c).reg a).toInt)), (.fcvtls c d a, encRR 1 d a 0 0x0D, BitVec.ofInt 64 (toIntSat 64
      { RCtx.rne with mode := .rtz } (v a)).1), (.fcvtbs c d a, encRR 1 d a 0 0x0E, BitVec.ofNat 64 (Fmt.bf16.ofVal RCtx.rne (v a)).1), (.fcvtsb c d
      a, encRR 1 d a 0 0x0F, out (Fmt.bf16.decode (((s.core c).reg a).toNat % 2 ^ 16)))] : List (Instr × Nat × Word))[nth]?.toList).any fun p =>
      decide (Runs s c p.2.1)) = true) := by decide +kernel

/-- A state and operands that meet the hypotheses of each clause of `BranchAndJumpInstructionsComplete`. -/
theorem wit_BranchAndJumpInstructionsComplete :
    (
    ((List.range 6).all fun nth => (([0x20, 0x21, 0x22, 0x23, 0x24, 0x25].map fun f => coreIn kA (encI f 3 2 0x8000)) ++ [coreIn kA (encJ 0x28 1
      0x100000), coreIn kA (encI 0x29 1 2 0x8000)] : List (State)).any fun s =>
    let c : Fin 64 := 5
    let a : Fin 32 := 2
    let b : Fin 32 := 3
    let m : BitVec 16 := 0x8000
    let x := (s.core c).reg a
    let y := (s.core c).reg b
    (([(.beq c a b m, 0x20, decide (x = y)), (.bne c a b m, 0x21, decide (x ≠ y)), (.blt c a b m, 0x22, decide (x.toInt < y.toInt)), (.bge c a b m,
      0x23, decide (y.toInt ≤ x.toInt)), (.bltu c a b m, 0x24, decide (x.toNat < y.toNat)), (.bgeu c a b m, 0x25, decide (y.toNat ≤ x.toNat))] : List
      (Instr × Nat × Bool))[nth]?.toList).any fun p => decide (Runs s c (encI p.2.1 b a m))) = true) ∧
    (
    ( (([0x20, 0x21, 0x22, 0x23, 0x24, 0x25].map fun f => coreIn kA (encI f 3 2 0x8000)) ++ [coreIn kA (encJ 0x28 1 0x100000), coreIn kA (encI 0x29 1
      2 0x8000)] : List (State)).any fun s =>
    let c : Fin 64 := 5
    let d : Fin 32 := 1
    let j : BitVec 21 := 0x100000
    decide (Runs s c (encJ 0x28 d j))) = true) ∧
    (
    ( (([0x20, 0x21, 0x22, 0x23, 0x24, 0x25].map fun f => coreIn kA (encI f 3 2 0x8000)) ++ [coreIn kA (encJ 0x28 1 0x100000), coreIn kA (encI 0x29 1
      2 0x8000)] : List (State)).any fun s =>
    let c : Fin 64 := 5
    let d : Fin 32 := 1
    let a : Fin 32 := 2
    let m : BitVec 16 := 0x8000
    decide (Runs s c (encI 0x29 d a m))) = true) := by
  refine ⟨?_, ?_, ?_⟩ <;> decide +kernel

def kMem (p : Word) : Core := { kA with regs := [(2, p), (3, 0x1122334455667788), (1, 5)] }
def poison (s : State) : State := { s with mem := { s.mem with pLm := [(5 * 16384 + 33, true)] } }

/-- A state and operands that meet the hypotheses of each clause of `LoadInstructionsComplete`. -/
theorem wit_LoadInstructionsComplete :
    (
    ((List.range 7).all fun nth => ([0x10, 0x11, 0x12, 0x13, 0x14, 0x15, 0x16].map fun f => coreIn (kMem 0x9000000000000100) (encI f 1 2 8) : List
      (State)).any fun s =>
    let c : Fin 64 := 5
    let d : Fin 32 := 1
    let a : Fin 32 := 2
    let m : BitVec 16 := 8
    let lm : Bool := true
    let o : Nat := 0x108
    let e : Ecc := .clean
    let rv : List Rival := []
    let ea := (s.core c).reg a + m.signExtend 64
    let val := fun n => s.loadNat (ownSpace lm) (ownKey lm c o) n
    (([(.ld1 c d a m e rv, 0x10, 1, BitVec.ofNat 64 (val 1)), (.ld2 c d a m e rv, 0x11, 2, BitVec.ofNat 64 (val 2)), (.ld4 c d a m e rv, 0x12, 4,
      BitVec.ofNat 64 (val 4)), (.ld8 c d a m e rv, 0x13, 8, BitVec.ofNat 64 (val 8)), (.lds1 c d a m e rv, 0x14, 1, (BitVec.ofNat 8 (val
      1)).signExtend 64), (.lds2 c d a m e rv, 0x15, 2, (BitVec.ofNat 16 (val 2)).signExtend 64), (.lds4 c d a m e rv, 0x16, 4, (BitVec.ofNat 32 (val
      4)).signExtend 64)] : List (Instr × Nat × Nat × Word))[nth]?.toList).any fun p => decide ((Runs s c (encI p.2.1 d a m)) ∧ ((s.coreLoc c ea
      p.2.2.1).toOption = some ((if lm then .lm o else .cs o))) ∧ (Reaches s lm c o rv) ∧ (s.ownPoison lm c o = false) ∧ e = .clean)) = true) ∧
    (
    ((List.range 7).all fun nth => ([0x10, 0x11, 0x12, 0x13, 0x14, 0x15, 0x16].map fun f => coreIn (kMem 0x9000000000000100) (encI f 1 2 8) : List
      (State)).any fun s =>
    let c : Fin 64 := 5
    let d : Fin 32 := 1
    let a : Fin 32 := 2
    let m : BitVec 16 := 8
    let lm : Bool := true
    let o : Nat := 0x108
    let e : Ecc := .clean
    let rv : List Rival := []
    let ea := (s.core c).reg a + m.signExtend 64
    let val := fun n => s.loadNat (ownSpace lm) (ownKey lm c o) n
    (([(.ld1 c d a m e rv, 0x10, 1, BitVec.ofNat 64 (val 1)), (.ld2 c d a m e rv, 0x11, 2, BitVec.ofNat 64 (val 2)), (.ld4 c d a m e rv, 0x12, 4,
      BitVec.ofNat 64 (val 4)), (.ld8 c d a m e rv, 0x13, 8, BitVec.ofNat 64 (val 8)), (.lds1 c d a m e rv, 0x14, 1, (BitVec.ofNat 8 (val
      1)).signExtend 64), (.lds2 c d a m e rv, 0x15, 2, (BitVec.ofNat 16 (val 2)).signExtend 64), (.lds4 c d a m e rv, 0x16, 4, (BitVec.ofNat 32 (val
      4)).signExtend 64)] : List (Instr × Nat × Nat × Word))[nth]?.toList).any fun p => decide ((Runs s c (encI p.2.1 d a m)) ∧ ((s.coreLoc c ea
      p.2.2.1).toOption = some ((if lm then .lm o else .cs o))) ∧ (Reaches s lm c o rv) ∧ (s.ownPoison lm c o = false) ∧ (∀ x, e ≠ .lasting x))) =
      true) ∧
    (
    ((List.range 7).all fun nth => ([0x10, 0x11, 0x12, 0x13, 0x14, 0x15, 0x16].map fun f => poison (coreIn (kMem 0x9000000000000100) (encI f 1 2 8)) :
      List (State)).any fun s =>
    let c : Fin 64 := 5
    let d : Fin 32 := 1
    let a : Fin 32 := 2
    let m : BitVec 16 := 8
    let lm : Bool := true
    let o : Nat := 0x108
    let e : Ecc := .clean
    let rv : List Rival := []
    let ea := (s.core c).reg a + m.signExtend 64
    let val := fun n => s.loadNat (ownSpace lm) (ownKey lm c o) n
    (([(.ld1 c d a m e rv, 0x10, 1, BitVec.ofNat 64 (val 1)), (.ld2 c d a m e rv, 0x11, 2, BitVec.ofNat 64 (val 2)), (.ld4 c d a m e rv, 0x12, 4,
      BitVec.ofNat 64 (val 4)), (.ld8 c d a m e rv, 0x13, 8, BitVec.ofNat 64 (val 8)), (.lds1 c d a m e rv, 0x14, 1, (BitVec.ofNat 8 (val
      1)).signExtend 64), (.lds2 c d a m e rv, 0x15, 2, (BitVec.ofNat 16 (val 2)).signExtend 64), (.lds4 c d a m e rv, 0x16, 4, (BitVec.ofNat 32 (val
      4)).signExtend 64)] : List (Instr × Nat × Nat × Word))[nth]?.toList).any fun p => decide ((Runs s c (encI p.2.1 d a m)) ∧ ((s.coreLoc c ea
      p.2.2.1).toOption = some ((if lm then .lm o else .cs o))) ∧ (Reaches s lm c o rv) ∧ s.ownPoison lm c o = true)) = true) ∧
    (
    ((List.range 7).all fun nth => ([0x10, 0x11, 0x12, 0x13, 0x14, 0x15, 0x16].map fun f => coreIn (kMem 0x9000000000000100) (encI f 1 2 8) : List
      (State)).any fun s =>
    let c : Fin 64 := 5
    let d : Fin 32 := 1
    let a : Fin 32 := 2
    let m : BitVec 16 := 8
    let lm : Bool := true
    let o : Nat := 0x108
    let e : Ecc := .lasting 0
    let rv : List Rival := []
    let ea := (s.core c).reg a + m.signExtend 64
    let val := fun n => s.loadNat (ownSpace lm) (ownKey lm c o) n
    (([(.ld1 c d a m e rv, 0x10, 1, BitVec.ofNat 64 (val 1)), (.ld2 c d a m e rv, 0x11, 2, BitVec.ofNat 64 (val 2)), (.ld4 c d a m e rv, 0x12, 4,
      BitVec.ofNat 64 (val 4)), (.ld8 c d a m e rv, 0x13, 8, BitVec.ofNat 64 (val 8)), (.lds1 c d a m e rv, 0x14, 1, (BitVec.ofNat 8 (val
      1)).signExtend 64), (.lds2 c d a m e rv, 0x15, 2, (BitVec.ofNat 16 (val 2)).signExtend 64), (.lds4 c d a m e rv, 0x16, 4, (BitVec.ofNat 32 (val
      4)).signExtend 64)] : List (Instr × Nat × Nat × Word))[nth]?.toList).any fun p => decide ((Runs s c (encI p.2.1 d a m)) ∧ ((s.coreLoc c ea
      p.2.2.1).toOption = some ((if lm then .lm o else .cs o))) ∧ (Reaches s lm c o rv) ∧ (s.ownPoison lm c o = false) ∧ (∃ x, e = .lasting x))) =
      true) ∧
    (
    ((List.range 7).all fun nth => ([0x10, 0x11, 0x12, 0x13, 0x14, 0x15, 0x16].map fun f => coreIn (kMem 0x8000000000000100) (encI f 1 2 8) : List
      (State)).any fun s =>
    let c : Fin 64 := 5
    let d : Fin 32 := 1
    let a : Fin 32 := 2
    let m : BitVec 16 := 8
    let lm : Bool := false
    let o : Nat := 0x108
    let e : Ecc := .clean
    let rv : List Rival := [⟨0, 0, none⟩]
    let ea := (s.core c).reg a + m.signExtend 64
    let val := fun n => s.loadNat (ownSpace lm) (ownKey lm c o) n
    (([(.ld1 c d a m e rv, 0x10, 1, BitVec.ofNat 64 (val 1)), (.ld2 c d a m e rv, 0x11, 2, BitVec.ofNat 64 (val 2)), (.ld4 c d a m e rv, 0x12, 4,
      BitVec.ofNat 64 (val 4)), (.ld8 c d a m e rv, 0x13, 8, BitVec.ofNat 64 (val 8)), (.lds1 c d a m e rv, 0x14, 1, (BitVec.ofNat 8 (val
      1)).signExtend 64), (.lds2 c d a m e rv, 0x15, 2, (BitVec.ofNat 16 (val 2)).signExtend 64), (.lds4 c d a m e rv, 0x16, 4, (BitVec.ofNat 32 (val
      4)).signExtend 64)] : List (Instr × Nat × Nat × Word))[nth]?.toList).any fun p => decide ((Runs s c (encI p.2.1 d a m)) ∧ ((s.coreLoc c ea
      p.2.2.1).toOption = some ((if lm then .lm o else .cs o))) ∧ ¬ Reaches s lm c o rv)) = true) ∧
    (
    ((List.range 7).all fun nth => ([0x10, 0x11, 0x12, 0x13, 0x14, 0x15, 0x16].map fun f => coreIn (kMem 0x1100) (encI f 1 2 8) : List (State)).any
      fun s =>
    let c : Fin 64 := 5
    let d : Fin 32 := 1
    let a : Fin 32 := 2
    let m : BitVec 16 := 8
    let la : Nat := 0x1108
    let csr : Bool := true
    ([1, 2, 4, 8].map fun n => List.replicate n 0 : List (List Byte)).any fun bs =>
    let e : Ecc := .clean
    let rv : List Rival := []
    let ea := (s.core c).reg a + m.signExtend 64
    (([(.ld1 c d a m e rv, 0x10, 1, false), (.ld2 c d a m e rv, 0x11, 2, false), (.ld4 c d a m e rv, 0x12, 4, false), (.ld8 c d a m e rv, 0x13, 8,
      false), (.lds1 c d a m e rv, 0x14, 1, true), (.lds2 c d a m e rv, 0x15, 2, true), (.lds4 c d a m e rv, 0x16, 4, true)] : List (Instr × Nat × Nat
      × Bool))[nth]?.toList).any fun p => decide ((Runs s c (encI p.2.1 d a m)) ∧ ((s.coreLoc c ea p.2.2.1).toOption = some ((.loc la csr))) ∧ (la <
      0xF00000000000) ∧ (s.coreWindow c la p.2.2.1 false = none ∧ (s.fetch (s.coreWho c) la p.2.2.1 false).toOption = some bs))) = true) := by
  refine ⟨?_, ?_, ?_, ?_, ?_, ?_⟩ <;> decide +kernel

/-- Every window of unit `u` is open for reads and writes, generation 0. -/
def openWins (u : Nat) (s : State) : State := (List.range 8).foldl (fun a k => a.wr .MU_WIN u k 0xE00000000FFF0000) s

/-- A state and operands that meet the hypotheses of each clause of `StoreAndAtomicInstructionsComplete`. -/
theorem wit_StoreAndAtomicInstructionsComplete :
    (
    ((List.range 4).all fun nth => ([0x18, 0x19, 0x1A, 0x1B].map fun f => coreIn (kMem 0x8000000000000100) (encI f 3 2 8) : List (State)).any fun s =>
    let c : Fin 64 := 5
    let b : Fin 32 := 3
    let a : Fin 32 := 2
    let m : BitVec 16 := 8
    let lm : Bool := false
    let o : Nat := 0x108
    let rv : List Rival := []
    let ea := (s.core c).reg a + m.signExtend 64
    (([(.st1 c b a m rv, 0x18, 1), (.st2 c b a m rv, 0x19, 2), (.st4 c b a m rv, 0x1A, 4), (.st8 c b a m rv, 0x1B, 8)] : List (Instr × Nat ×
      Nat))[nth]?.toList).any fun p => decide ((Runs s c (encI p.2.1 b a m)) ∧ ((s.coreLoc c ea p.2.2).toOption = some ((if lm then .lm o else .cs
      o))) ∧ Reaches s lm c o rv)) = true) ∧
    (
    ((List.range 4).all fun nth => ([0x18, 0x19, 0x1A, 0x1B].map fun f => coreIn (kMem 0x1100) (encI f 3 2 8) : List (State)).any fun s =>
    let c : Fin 64 := 5
    let b : Fin 32 := 3
    let a : Fin 32 := 2
    let m : BitVec 16 := 8
    let la : Nat := 0x1108
    let csr : Bool := true
    let rv : List Rival := []
    let ea := (s.core c).reg a + m.signExtend 64
    let x := (s.core c).reg b
    (([(.st1 c b a m rv, 0x18, 1), (.st2 c b a m rv, 0x19, 2), (.st4 c b a m rv, 0x1A, 4), (.st8 c b a m rv, 0x1B, 8)] : List (Instr × Nat ×
      Nat))[nth]?.toList).any fun p => ((s.put (s.coreWho c) la (natToBytes p.2.2 x.toNat) false).toOption.toList).any fun t0 => decide ((Runs s c
      (encI p.2.1 b a m)) ∧ ((s.coreLoc c ea p.2.2).toOption = some ((.loc la csr))) ∧ (la < 0xF00000000000) ∧ s.coreWindow c la p.2.2 true = none)) =
      true) ∧
    (
    let s : State := coreIn (kMem 0x9000000000000100) (encRR 0x1C 1 2 3 3)
    let c : Fin 64 := 5
    let d : Fin 32 := 1
    let a : Fin 32 := 2
    let b : Fin 32 := 3
    let wide : Bool := true
    let lm : Bool := true
    let o : Nat := 0x100
    let rv : List Rival := []
    let n := if wide then 8 else 4
    let ea := (s.core c).reg a
    let fn := if wide then 3 else 2
    (Runs s c (encRR 0x1C d a b fn)) ∧ ((s.coreLoc c ea n).toOption = some ((if lm then .lm o else .cs o))) ∧ (Reaches s lm c o rv) ∧ s.ownPoison lm c
      o = false) ∧
    (
    let s : State := coreIn (kMem 0x9000000000000100) (encRR 0x1D 1 2 3 2)
    let c : Fin 64 := 5
    let d : Fin 32 := 1
    let a : Fin 32 := 2
    let b : Fin 32 := 3
    let wide : Bool := false
    let lm : Bool := true
    let o : Nat := 0x100
    let rv : List Rival := []
    let n := if wide then 8 else 4
    let ea := (s.core c).reg a
    let fn := if wide then 3 else 2
    (Runs s c (encRR 0x1D d a b fn)) ∧ ((s.coreLoc c ea n).toOption = some ((if lm then .lm o else .cs o))) ∧ (Reaches s lm c o rv) ∧ s.ownPoison lm c
      o = false) ∧
    (
    let s : State := coreIn (kMem 0x1100) (encRR 0x1C 1 2 3 3)
    let c : Fin 64 := 5
    let d : Fin 32 := 1
    let a : Fin 32 := 2
    let b : Fin 32 := 3
    let wide : Bool := true
    let lm : Bool := false
    let n := if wide then 8 else 4
    let ea := (s.core c).reg a
    let fn := if wide then 3 else 2
    let loc := CoreLoc.loc 0x1100 true
    (Runs s c (encRR 0x1C d a b fn)) ∧ (s.coreLoc c ea n).toOption = some (loc)) ∧
    (
    let s : State := coreIn (kMem 0x1100) (encRR 0x1D 1 2 3 3)
    let c : Fin 64 := 5
    let d : Fin 32 := 1
    let a : Fin 32 := 2
    let b : Fin 32 := 3
    let wide : Bool := true
    let lm : Bool := false
    let n := if wide then 8 else 4
    let ea := (s.core c).reg a
    let fn := if wide then 3 else 2
    let loc := CoreLoc.loc 0x1100 true
    (Runs s c (encRR 0x1D d a b fn)) ∧ (s.coreLoc c ea n).toOption = some (loc)) := by
  refine ⟨?_, ?_, ?_, ?_, ?_, ?_⟩ <;> decide +kernel

/-- A bin window open for reads and writes under the generation that the free value of the address names: its check passes whatever
that value is. -/
def winWord (g : BitVec 16) : Word := BitVec.ofNat 64 (0xE00000000FFF0000 + g.toNat * 2 ^ 32)
theorem windowCheck_open (s : State) (u w : Nat) (g : BitVec 16) (h : s.rd .MU_WIN u w = winWord g) (hw : w < 8) (o n : Nat)
    (hn : o + n ≤ 0x40000) (wr : Bool) : s.windowCheck u .firmware w g.toNat o n wr = 0 := by
  have hg := g.isLt
  have e : (winWord g).toNat = 0xE00000000FFF0000 + g.toNat * 2 ^ 32 := by
    rw [winWord, BitVec.toNat_ofNat, Nat.mod_eq_of_lt]
    omega
  have b63 : bit (winWord g) 63 = true := by
    rw [bit, BitVec.getLsbD, Nat.testBit, Nat.shiftRight_eq_div_pow, e]
    have : (0xE00000000FFF0000 + g.toNat * 2 ^ 32) / 2 ^ 63 = 1 := by omega
    rw [this]; rfl
  have b62 : bit (winWord g) 62 = true := by
    rw [bit, BitVec.getLsbD, Nat.testBit, Nat.shiftRight_eq_div_pow, e]
    have : (0xE00000000FFF0000 + g.toNat * 2 ^ 32) / 2 ^ 62 = 3 := by omega
    rw [this]; rfl
  have b61 : bit (winWord g) 61 = true := by
    rw [bit, BitVec.getLsbD, Nat.testBit, Nat.shiftRight_eq_div_pow, e]
    have : (0xE00000000FFF0000 + g.toNat * 2 ^ 32) / 2 ^ 61 = 7 := by omega
    rw [this]; rfl
  have fg : fld (winWord g) 47 32 = g.toNat := by
    simp only [fld, nbits, e]
    omega
  have f0 : fld (winWord g) 11 0 = 0 := by
    simp only [fld, nbits, e]
    omega
  have f1 : fld (winWord g) 27 16 = 0xFFF := by
    simp only [fld, nbits, e]
    omega
  unfold State.windowCheck
  simp only [h, b63, b62, b61, fg, f0, f1]
  have h1 : ¬ (w ≥ 8 ∨ False) := by simp; omega
  have h2 : ¬ (o < 0 * 64 ∨ (0 + 0xFFF + 1) * 64 < o + n) := by omega
  simp only [State.senderOk, Bool.not_true, Bool.false_eq_true, if_false, h1, h2, ne_eq, not_true_eq_false, if_true, ite_self]

/-- A core in monitor mode that stands at a store of eight bytes to bin 0, through an open window. -/
def viaWin : State := (coreIn (kMem 0x10000000100) (encI 0x1B 3 2 8)).wr .MU_WIN 0 (Config.streamWin 0x10000000108).toNat
  (winWord (Config.streamGen 0x10000000108))
theorem winS_runs : Runs viaWin 5 (encI 0x1B 3 2 8) := by decide +kernel
theorem winS_loc : viaWin.coreLoc 5 ((viaWin.core 5).reg 2 + (8 : BitVec 16).signExtend 64) 8 = .ok (.loc 0x10000000108 true) := by decide +kernel
theorem winS_remap : viaWin.rd .SEED_REMAP 0 0 = 0 := by
  rw [viaWin, rd_wr_reg _ _ _ _ _ _ (by decide)]
  decide +kernel
theorem winS_unit : binUnit viaWin 0x10000000108 = some 0 := by
  unfold binUnit
  rw [if_pos (by decide), winS_remap]
  rfl
theorem winS_who : viaWin.coreWho 5 = .firmware := by decide +kernel
theorem coreWindow_of (s : State) (c : Fin 64) (la n u : Nat) (wr : Bool) (hu : binUnit s la = some u) (hw : s.coreWho c = .firmware) :
    s.coreWindow c la n wr = some (u, (la - 0x010000000000) % 0x40000, s.windowCheck u .firmware (Config.streamWin la).toNat
      (Config.streamGen la).toNat ((la - 0x010000000000) % 0x40000) n wr) := by
  simp [State.coreWindow, hu, hw]
/-- A state and operands that meet the hypotheses of the clause of `StoreAndAtomicInstructionsComplete` on an open window. -/
theorem wit_StoreAndAtomicInstructionsComplete_window : Runs viaWin 5 (encI 0x1B 3 2 8) ∧
    viaWin.coreLoc 5 ((viaWin.core 5).reg 2 + (8 : BitVec 16).signExtend 64) 8 = .ok (.loc 0x10000000108 true) ∧
    viaWin.coreWindow 5 0x10000000108 8 true = some (0, (0x10000000108 - 0x010000000000) % 0x40000, 0) := by
  refine ⟨winS_runs, winS_loc, ?_⟩
  rw [coreWindow_of viaWin 5 _ 8 0 true winS_unit winS_who,
    windowCheck_open viaWin 0 _ _ (by rw [viaWin, rd_wr_self]) (BitVec.isLt _) _ 8 (by decide) true]

def ent : List Byte := natToBytes 8 (0x07 * 2 ^ 56 + 2 ^ 48)
def csAt (k : Core) (w : Nat) : State := (coreIn { k with regs := [(2, 0x8000000000000000), (3, 1)] } w).store .csram 0 ent
def cmd0 (t code : Nat) : Cmd := ⟨t, BitVec.ofNat 64 (code * 2 ^ 56) :: List.replicate 7 0, 0, 0, 0⟩
def tick (k : Core) (w : Nat) : State := coreIn { k with regs := [(2, 3)], nextTicket := 7 } w

/-- A state and operands that meet the hypotheses of each clause of `SystemAndArrayCommandInstructionsComplete` (part 1). -/
theorem wit_SystemAndArrayCommandInstructionsComplete_a :
    (
    let s : State := coreIn kA (encRR 0x30 0 0 0 0)
    let c : Fin 64 := 5
    (Runs s c (encRR 0x30 0 0 0 0)) ∧ s.writeOpen c = false) ∧
    (
    let s : State := (fun (t : State) => { t with hasp := { t.hasp with wrq := [⟨0, 0, 0, 1, 1, 6⟩] } }) (coreIn kA (encRR 0x30 0 0 0 0))
    let c : Fin 64 := 5
    (Runs s c (encRR 0x30 0 0 0 0)) ∧ s.writeOpen c = true) ∧
    (
    let s : State := coreIn kA (encRR 0x30 0 0 0 1)
    let c : Fin 64 := 5
    Runs s c (encRR 0x30 0 0 0 1)) ∧
    (
    let s : State := (coreIn { kA with cc := [(1, 64)] } (encRR 0x30 0 0 0 2)).wrF .BND_CTX 5 0 63 62 1
    let c : Fin 64 := 5
    (Runs s c (encRR 0x30 0 0 0 2)) ∧ (4 ≤ c.val) ∧ ((s.core c).monitor = true) ∧ ((s.rdF .BND_CTX c 0 63 62 = 1 ∨ s.rdF .BND_CTX c 0 63 62 = 2)) ∧
      (s.core c).ccr 4 &&& (s.core c).ccr 5 = 0) ∧
    (
    let s : State := coreIn kA (encRR 0x30 1 6 0 3)
    let c : Fin 64 := 5
    let d : Fin 32 := 1
    let n : Fin 32 := 6
    (Runs s c (encRR 0x30 d n 0 3)) ∧ ((n.val ≠ 8 ∨ (s.core c).monitor = true))) ∧
    (
    let s : State := coreIn kA (encRR 0x30 5 2 0 4)
    let c : Fin 64 := 5
    let n : Fin 32 := 5
    let a : Fin 32 := 2
    (Runs s c (encRR 0x30 n a 0 4)) ∧ ((s.core c).monitor = true) ∧ n.val < 10) := by
  refine ⟨?_, ?_, ?_, ?_, ?_, ?_⟩ <;> decide +kernel

/-- A state and operands that meet the hypotheses of each clause of `SystemAndArrayCommandInstructionsComplete` (part 2). -/
theorem wit_SystemAndArrayCommandInstructionsComplete_b :
    (
    (
    let s : State := csAt kA (encRR 0x3C 1 2 0 0)
    let c : Fin 64 := 5
    let d : Fin 32 := 1
    let a : Fin 32 := 2
    let k := s.core c
    let x := k.reg a
    ((s.entryAt c x).toOption.toList).any fun ws => decide ((Runs s c (encRR 0x3C d a 0 0)) ∧ (k.cmds.length + k.arriving.length < 64) ∧ k.cqHalt =
      false)) = true) ∧
    (
    let s : State := csAt kA (encRR 0x3C 1 2 3 1)
    let c : Fin 64 := 5
    let d : Fin 32 := 1
    let a : Fin 32 := 2
    let b : Fin 32 := 3
    let k := s.core c
    let x := k.reg a
    let es : List (List Word) := [natToBytes 8 (0x07 * 2 ^ 56 + 2 ^ 48)].filterMap fun _ => ((csAt kA 0).entryAt 5 0x8000000000000000).toOption
    (Runs s c (encRR 0x3C d a b 1)) ∧ (k.reg b = BitVec.ofNat 64 es.length) ∧ (es ≠ []) ∧ (k.alistAt = 0) ∧ (es.length = 1 ∧ (s.entryAt c x).toOption
      = es.head?) ∧ (k.cmds.length + k.arriving.length + es.length ≤ 64) ∧ k.cqHalt = false) ∧
    (
    ( ([csAt kA (encRR 0x3C 1 2 3 1)].map fun t => t.setCore 5 { t.core 5 with regs := [(2, 0x8000000000000008), (3, 1)] } : List (State)).any fun s
      =>
    let c : Fin 64 := 5
    let d : Fin 32 := 1
    let a : Fin 32 := 2
    let b : Fin 32 := 3
    let k := s.core c
    let x := k.reg a
    let i := 0
    (errOf (s.entryAt c (x + BitVec.ofNat 64 (64 * i)))).any fun cause => decide ((Runs s c (encRR 0x3C d a b 1)) ∧ (1 ≤ (k.reg b).toNat) ∧ ((k.reg
      b).toNat ≤ 4096) ∧ (k.alistAt = 0) ∧ (i < (k.reg b).toNat) ∧ i = 0)) = true) ∧
    (
    (
    let s : State := csAt { kA with cmds := (List.range 64).map fun t => cmd0 t 8 } (encRR 0x3C 1 2 0 0)
    let c : Fin 64 := 5
    let d : Fin 32 := 1
    let a : Fin 32 := 2
    let k := s.core c
    let x := k.reg a
    ((s.entryAt c x).toOption.toList).any fun ws => decide ((Runs s c (encRR 0x3C d a 0 0)) ∧ 64 ≤ k.cmds.length + k.arriving.length)) = true) ∧
    (
    let s : State := tick { kA with done := [(3, 9)] } (encRR 0x3C 1 2 0 2)
    let c : Fin 64 := 5
    let d : Fin 32 := 1
    let a : Fin 32 := 2
    let n : Nat := 3
    let w : Word := 9
    let k := s.core c
    let x := k.reg a
    (n = x.toNat % 65536) ∧ (k.done.find? (fun p => decide (p.1 = n)) = some (n, w)) ∧ Runs s c (encRR 0x3C d a 0 2)) ∧
    (
    let s : State := tick { kA with done := [(3, 9)] } (encRR 0x3C 1 2 0 3)
    let c : Fin 64 := 5
    let d : Fin 32 := 1
    let a : Fin 32 := 2
    let n : Nat := 3
    let w : Word := 9
    let k := s.core c
    let x := k.reg a
    (n = x.toNat % 65536) ∧ (k.done.find? (fun p => decide (p.1 = n)) = some (n, w)) ∧ Runs s c (encRR 0x3C d a 0 3)) := by
  refine ⟨?_, ?_, ?_, ?_, ?_, ?_⟩ <;> decide +kernel

/-- A state and operands that meet the hypotheses of each clause of `SystemAndArrayCommandInstructionsComplete` (part 3). -/
theorem wit_SystemAndArrayCommandInstructionsComplete_c :
    (
    let s : State := tick { kA with cmds := [cmd0 3 8] } (encRR 0x3C 1 2 0 2)
    let c : Fin 64 := 5
    let d : Fin 32 := 1
    let a : Fin 32 := 2
    let n : Nat := 3
    let k := s.core c
    let x := k.reg a
    (n = x.toNat % 65536) ∧ (k.done.find? (fun p => decide (p.1 = n)) = none) ∧ (k.readable n = true) ∧ Runs s c (encRR 0x3C d a 0 2)) ∧
    (
    let s : State := tick { kA with cmds := [cmd0 3 8] } (encRR 0x3C 1 2 0 3)
    let c : Fin 64 := 5
    let d : Fin 32 := 1
    let a : Fin 32 := 2
    let n : Nat := 3
    let k := s.core c
    let x := k.reg a
    (n = x.toNat % 65536) ∧ (k.done.find? (fun p => decide (p.1 = n)) = none) ∧ (k.readable n = true) ∧ Runs s c (encRR 0x3C d a 0 3)) ∧
    (
    ((List.range 2).all fun nth => ([2, 3].map fun f => coreIn { kA with regs := [(2, 3)] } (encRR 0x3C 1 2 0 f) : List (State)).any fun s =>
    let c : Fin 64 := 5
    let d : Fin 32 := 1
    let a : Fin 32 := 2
    let n : Nat := 3
    let k := s.core c
    let x := k.reg a
    (([(.await c d a, 2), (.apoll c d a, 3)] : List (Instr × Nat))[nth]?.toList).any fun p => decide ((n = x.toNat % 65536) ∧ (k.readable n = false) ∧
      Runs s c (encRR 0x3C d a 0 p.2))) = true) := by
  refine ⟨?_, ?_, ?_⟩ <;> decide +kernel

/-- A state and operands that meet the hypotheses of each clause of `TrapIsTakenInOneStep`. -/
theorem wit_TrapIsTakenInOneStep :
    (
    ( ([up0, up0.setCore 5 { Core.reset with monitor := false, pc := 64 }] : List (State)).any fun s =>
    let c : Nat := 5
    let k := s.core c
    decide ((c < 64) ∧ k.monitor = false)) = true) ∧
    (
    ( ([up0, up0.setCore 5 { Core.reset with monitor := false, pc := 64 }] : List (State)).any fun s =>
    let c : Nat := 5
    let k := s.core c
    let n := 0
    decide ((c < 64) ∧ (k.monitor = false) ∧ (n ≠ 1) ∧ (n ≠ 2) ∧ n ≠ 3)) = true) ∧
    (
    ( ([up0, up0.setCore 5 { Core.reset with monitor := false, pc := 64 }] : List (State)).any fun s =>
    let c : Nat := 5
    let k := s.core c
    decide ((c < 64) ∧ k.monitor = true)) = true) ∧
    (
    ( ([up0, up0.setCore 5 { Core.reset with monitor := false, pc := 64 }] : List (State)).any fun s =>
    let c : Nat := 5
    let k := s.core c
    let n := 0
    decide ((c < 64) ∧ (k.monitor = true) ∧ (n ≠ 1) ∧ (n ≠ 2) ∧ n ≠ 3)) = true) ∧
    (
    let c : Nat := 5
    c < 64) ∧
    (
    let c : Nat := 5
    let i := 0
    (c < 64) ∧ i ≠ c) := by
  refine ⟨?_, ?_, ?_, ?_, ?_, ?_⟩ <;> decide +kernel

def inProg (k : Core) (w : Nat) : State :=
  ((up0.setCore 5 { k with state := .running, monitor := false, pc := 0x1000 }).store .lmem (5 * 0x20000 + 0x1000) (natToBytes 4 w)).wr .BND_CTX 5 0 (2 ^ 62)
def tcmp (mon : Bool) (mask : Word) : State := up0.setCore 5 { Core.reset with state := .running, monitor := mon, cc := [(5, mask)] }

/-- A state and operands that meet the hypotheses of each clause of `TrapCommandsAndProgramMode` (part 1). -/
theorem wit_TrapCommandsAndProgramMode_a :
    (
    let s : State := coreIn kA (encI 0x31 0 0 0xFFFF)
    let c : Fin 64 := 5
    let m : BitVec 16 := 0xFFFF
    Runs s c (encI 0x31 0 0 m)) ∧
    (
    let s : State := coreIn kA 0xFFFFFFFF
    let c : Fin 64 := 5
    let w : Nat := 0xFFFFFFFF
    (Runs s c w) ∧ (ramnakDecode c w = none) ∧ w < 2 ^ 32) ∧
    (
    let s : State := tcmp true 0
    let c : Fin 64 := 5
    ((s.core c).monitor = true) ∧ ((s.core c).state = .running) ∧ (((s.core c).ccr 7).toNat ≤ s.time) ∧ ((s.core c).ccr 5).getLsbD 61 = false) ∧
    (
    let s : State := tcmp false (2 ^ 61)
    let c : Fin 64 := 5
    ((s.core c).monitor = false) ∧ ((s.core c).state = .running) ∧ (((s.core c).ccr 7).toNat ≤ s.time) ∧ (((s.core c).ccr 5).getLsbD 63 = false) ∧
      ((s.core c).ccr 5).getLsbD 61 = true) ∧
    (
    ((List.range 11).all fun nth => (([0x10, 0x11, 0x12, 0x13, 0x14, 0x15, 0x16, 0x18, 0x19, 0x1A, 0x1B].map fun f => (inProg (kMem
      0x90000000000000F8) (encI f 1 2 8)).wrF .BND_CTX 5 0 7 0 1) : List (State)).any fun s =>
    let c : Fin 64 := 5
    let d : Fin 32 := 1
    let a : Fin 32 := 2
    let m : BitVec 16 := 8
    let e : Ecc := .clean
    let rv : List Rival := []
    let ea := (s.core c).reg a + m.signExtend 64
    let closed := fun (x : Word) (len : Nat) => x.toNat % len = 0 ∧ ((x.toNat / 2 ^ 17 = 0x9 * 2 ^ 43 ∧ x.toNat % 2 ^ 17 < 512 * s.rdF .BND_CTX c 0 7
      0) ∨ (x.toNat / 2 ^ 25 = 0x8 * 2 ^ 35 ∧ (x.toNat % 2 ^ 25 < s.rdF .BND_SRAMWIN c 0 40 32 * 65536 ∨ (s.rdF .BND_SRAMWIN c 0 40 32 + s.rdF
      .BND_SRAMWIN c 0 8 0 + 1) * 65536 < x.toNat % 2 ^ 25 + len)))
    (([(.ld1 c d a m e rv, 0x10, 1), (.ld2 c d a m e rv, 0x11, 2), (.ld4 c d a m e rv, 0x12, 4), (.ld8 c d a m e rv, 0x13, 8), (.lds1 c d a m e rv,
      0x14, 1), (.lds2 c d a m e rv, 0x15, 2), (.lds4 c d a m e rv, 0x16, 4), (.st1 c d a m rv, 0x18, 1), (.st2 c d a m rv, 0x19, 2), (.st4 c d a m
      rv, 0x1A, 4), (.st8 c d a m rv, 0x1B, 8)] : List (Instr × Nat × Nat))[nth]?.toList).any fun p => decide (((s.core c).monitor = false) ∧ (Runs s
      c (encI p.2.1 d a m)) ∧ closed ea p.2.2)) = true) ∧
    (
    ((List.range 2).all fun nth => (([0x1C, 0x1D].map fun f => inProg (kMem 0x8000000000200000) (encRR f 1 2 3 3)) : List (State)).any fun s =>
    let c : Fin 64 := 5
    let d : Fin 32 := 1
    let a : Fin 32 := 2
    let e : Ecc := .clean
    let rv : List Rival := []
    let wide : Bool := true
    let b : Fin 32 := 3
    let closed := fun (x : Word) (len : Nat) => x.toNat % len = 0 ∧ ((x.toNat / 2 ^ 17 = 0x9 * 2 ^ 43 ∧ x.toNat % 2 ^ 17 < 512 * s.rdF .BND_CTX c 0 7
      0) ∨ (x.toNat / 2 ^ 25 = 0x8 * 2 ^ 35 ∧ (x.toNat % 2 ^ 25 < s.rdF .BND_SRAMWIN c 0 40 32 * 65536 ∨ (s.rdF .BND_SRAMWIN c 0 40 32 + s.rdF
      .BND_SRAMWIN c 0 8 0 + 1) * 65536 < x.toNat % 2 ^ 25 + len)))
    (([(.xadd c d a b wide e rv, 0x1C), (.xcas c d a b wide e rv, 0x1D)] : List (Instr × Nat))[nth]?.toList).any fun p => decide (((s.core c).monitor
      = false) ∧ (Runs s c (encRR p.2 d a b (if wide then 3 else 2))) ∧ closed ((s.core c).reg a) (if wide then 8 else 4))) = true) := by
  refine ⟨?_, ?_, ?_, ?_, ?_, ?_⟩ <;> decide +kernel

/-- A state and operands that meet the hypotheses of each clause of `TrapCommandsAndProgramMode` (part 2). -/
theorem wit_TrapCommandsAndProgramMode_b :
    (
    let s : State := inProg kA (encRR 0x30 1 2 0 4)
    let c : Fin 64 := 5
    let a : Fin 32 := 2
    let n : Fin 32 := 1
    ((s.core c).monitor = false) ∧ (Runs s c (encRR 0x30 n a 0 4)) ∧ (n.val < 10) ∧ (n.val ≠ 4) ∧ (n.val ≠ 5) ∧ n.val ≠ 7) ∧
    (
    let s : State := inProg kA (encRR 0x30 5 2 0 4)
    let c : Fin 64 := 5
    let a : Fin 32 := 2
    let n : Fin 32 := 5
    ((s.core c).monitor = false) ∧ (Runs s c (encRR 0x30 n a 0 4)) ∧ n.val = 5) ∧
    (
    let s : State := inProg kA (encRR 0x30 1 8 0 3)
    let c : Fin 64 := 5
    let d : Fin 32 := 1
    ((s.core c).monitor = false) ∧ Runs s c (encRR 0x30 d 8 0 3)) := by
  refine ⟨?_, ?_, ?_⟩ <;> decide +kernel

/-- A state and operands that meet the hypotheses of each clause of `RamnakWordsAndInstructionsAgree`. -/
theorem wit_RamnakWordsAndInstructionsAgree :
    (
    let c : Fin 64 := 5
    let w : Nat := encI 0x04 19 0 0xFFF0
    let i : Instr := Instr.addi 5 19 0 0xFFF0
    (w < 2 ^ 32) ∧ ramnakDecode c w = some i) ∧
    (legalWord 0xFFFFFFFF = false) ∧
    (
    let i : Instr := Instr.addi 5 19 0 0xFFF0
    let w : Nat := encI 0x04 19 0 0xFFF0
    ramnakWord i = some w) := by
  refine ⟨?_, ?_, ?_⟩ <;> decide +kernel

/-- A state and operands that meet the hypotheses of each clause of `CsrAccessesAreFourOrEightAlignedBytes`. -/
theorem wit_CsrAccessesAreFourOrEightAlignedBytes :
    (
    let a : BitVec 48 := 0xF00000000004
    let n : Nat := 8
    (¬ ((n = 4 ∨ n = 8) ∧ a.toNat % n = 0)) ∧ (0xF00000000000 ≤ a.toNat) ∧ a.toNat < 0xF00100000000) ∧
    (
    let a : BitVec 48 := 0xF00100000004
    let n : Nat := 8
    (¬ ((n = 4 ∨ n = 8) ∧ a.toNat % n = 0)) ∧ (a.toNat < 0xF00000000000 ∨ 0xF00100000000 ≤ a.toNat)) := by
  refine ⟨?_, ?_⟩ <;> decide +kernel

/-- A state and operands that meet the hypotheses of each clause of `UndefinedOffsetsReadZeroAndIgnoreWrites`. -/
theorem wit_UndefinedOffsetsReadZeroAndIgnoreWrites :
    (
    let w : Agent := .firmware
    let a : BitVec 48 := 0xF000FFFFFFF8
    let n : Nat := 8
    ((n = 4 ∨ n = 8)) ∧ (a.toNat % n = 0) ∧ (0xF00000000000 ≤ a.toNat) ∧ (a.toNat < 0xF00100000000) ∧ (lmWindow a.toNat = none) ∧ (vecWindow w a.toNat
      = none) ∧ Reg.ofAddr (barAddr w a.toNat) = none) := by decide +kernel

/-- A state and operands that meet the hypotheses of each clause of `AccessCodesActBitByBit`. -/
theorem wit_AccessCodesActBitByBit :
    (
    (
    let r : Reg := Reg.BND_RUN
    let k : Nat := 63
    let under := fun c => r.info.fields.any fun f => decide (f.acc = c ∧ f.lo ≤ k ∧ k ≤ f.hi)
    decide ((k < 64) ∧ (under .RW || under .RWL || under .RWS || under .WO) = true)) = true) ∧
    (
    (
    let r : Reg := Reg.LOFT_MODEVT
    let k : Nat := 0
    let under := fun c => r.info.fields.any fun f => decide (f.acc = c ∧ f.lo ≤ k ∧ k ≤ f.hi)
    decide ((k < 64) ∧ under .W1C = true)) = true) ∧
    (
    (
    let r : Reg := Reg.CHF_FMAP_A
    let k : Nat := 62
    let under := fun c => r.info.fields.any fun f => decide (f.acc = c ∧ f.lo ≤ k ∧ k ≤ f.hi)
    decide ((k < 64) ∧ under .W1S = true)) = true) ∧
    (
    (
    let r : Reg := Reg.LOFT_STATUS
    let k : Nat := 63
    let under := fun c => r.info.fields.any fun f => decide (f.acc = c ∧ f.lo ≤ k ∧ k ≤ f.hi)
    decide ((k < 64) ∧ (under .RW || under .RWL || under .RWS || under .WO || under .W1C || under .W1S) = false)) = true) := by
  refine ⟨?_, ?_, ?_, ?_⟩ <;> decide +kernel

/-- A state and operands that meet the hypotheses of each clause of `RegisterAccessesComplete`. -/
theorem wit_RegisterAccessesComplete :
    (
    let s : State := up0
    let w : Agent := .func 3
    let a : BitVec 48 := 0xF00004010020
    let n : Nat := 8
    let f := 3
    let p := false
    let k := 32
    (csrShape a.toNat n = true) ∧ (lmWindow a.toNat = none) ∧ (vecWindow w a.toNat = some (f, p, k)) ∧ (s.vecOpen w f = true) ∧ s.barClosed w (barAddr
      w a.toNat) = false) ∧
    (
    let s : State := up0
    let w : Agent := .core 0
    let a : BitVec 48 := BitVec.ofNat 48 (Reg.addr .PWR_CAP 0 0)
    let n : Nat := 8
    let r : Reg := .PWR_CAP
    let i : Nat := 0
    let j : Nat := 0
    let o : Nat := 0
    (csrShape a.toNat n = true) ∧ (lmWindow a.toNat = none) ∧ (vecWindow w a.toNat = none) ∧ (Reg.ofAddr (barAddr w a.toNat) = some (r, i, j, o)) ∧
      (s.barClosed w (barAddr w a.toNat) = false) ∧ (s.mayRead w r i = true) ∧ r ≠ .HSP_DBG_CHAL) ∧
    (
    let s : State := up0
    let w : Agent := .func 3
    let a : BitVec 48 := BitVec.ofNat 48 (Reg.addr .PWR_CAP 0 0)
    let n : Nat := 8
    let r : Reg := .PWR_CAP
    let i : Nat := 0
    let j : Nat := 0
    let o : Nat := 0
    (csrShape a.toNat n = true) ∧ (lmWindow a.toNat = none) ∧ (vecWindow w a.toNat = none) ∧ (Reg.ofAddr (barAddr w a.toNat) = some (r, i, j, o)) ∧
      (s.barClosed w (barAddr w a.toNat) = false) ∧ s.mayRead w r i = false) ∧
    (
    (
    let s : State := up0
    let w : Agent := .core 0
    let a : BitVec 48 := BitVec.ofNat 48 (Reg.addr .PWR_CAP 0 0)
    let n : Nat := 8
    let v : BitVec 64 := 2000
    let x : BitVec 64 := 0
    let r : Reg := .PWR_CAP
    let i : Nat := 0
    let j : Nat := 0
    let o : Nat := 0
    let sh := if n = 8 then 0 else 8 * o
    let m : Word := if n = 8 then BitVec.allOnes 64 else 0xFFFFFFFF <<< sh
    ((s.plainRule r i (s.rd r i j) (codeValue r (s.rd r i j) (v <<< sh) m (x <<< sh))).toOption.toList).any fun y => decide ((csrShape a.toNat n =
      true) ∧ (lmWindow a.toNat = none) ∧ (vecWindow w a.toNat = none) ∧ (Reg.ofAddr (barAddr w a.toNat) = some (r, i, j, o)) ∧ (s.barClosed w
      (barAddr w a.toNat) = false) ∧ (s.mayWrite w r i = true) ∧ (s.lockedOut r = false) ∧ r.info.kind = .plain)) = true) ∧
    (
    let s : State := up0
    let w : Agent := .func 3
    let a : BitVec 48 := BitVec.ofNat 48 (Reg.addr .PWR_CAP 0 0)
    let n : Nat := 8
    let r : Reg := .PWR_CAP
    let i : Nat := 0
    let j : Nat := 0
    let o : Nat := 0
    (csrShape a.toNat n = true) ∧ (lmWindow a.toNat = none) ∧ (vecWindow w a.toNat = none) ∧ (Reg.ofAddr (barAddr w a.toNat) = some (r, i, j, o)) ∧
      (s.barClosed w (barAddr w a.toNat) = false) ∧ (s.mayWrite w r i = false ∨ s.lockedOut r = true)) := by
  refine ⟨?_, ?_, ?_, ?_, ?_⟩ <;> decide +kernel

/-- A state and operands that meet the hypotheses of each clause of `LockAndProtectionWrites`. -/
theorem wit_LockAndProtectionWrites :
    (
    let s : State := up0
    let w : Agent := .firmware
    let v : BitVec 64 := 1
    (Allowed s w .HSP_LOCK 0 0) ∧ v.getLsbD 0 = true) ∧
    (
    let s : State := up0
    let w : Agent := .firmware
    let v : BitVec 64 := 0
    (Allowed s w .HSP_LOCK 0 0) ∧ v.getLsbD 0 = false) ∧
    (
    let s : State := up0.wrF .HSP_STATUS 0 0 48 48 1
    let w : Agent := .firmware
    let r : Reg := .HAY_TIME_CTL
    let i : Nat := 0
    let j : Nat := 0
    let o : Nat := 0
    let a : BitVec 48 := BitVec.ofNat 48 (Reg.addr .HAY_TIME_CTL 0 0)
    (s.rdF .HSP_STATUS 0 0 48 48 = 1) ∧ (csrShape a.toNat 8 = true) ∧ (lmWindow a.toNat = none) ∧ (vecWindow w a.toNat = none) ∧ (Reg.ofAddr (barAddr
      w a.toNat) = some (r, i, j, o)) ∧ (s.barClosed w (barAddr w a.toNat) = false) ∧ ((r.info.fields.any fun f => decide (f.acc = .RWL)) = true) ∧
      (mget dNil s.chf.errq (recSrc w).1).length < 6) ∧
    (
    let s : State := up0
    let w : Agent := .firmware
    let a : BitVec 48 := BitVec.ofNat 48 (Reg.addr .BND_SRAMWIN 5 0)
    let r : Reg := .BND_SRAMWIN
    let i : Nat := 5
    let j : Nat := 0
    let o : Nat := 0
    (csrShape a.toNat 8 = true) ∧ (lmWindow a.toNat = none) ∧ (vecWindow w a.toNat = none) ∧ (Reg.ofAddr (barAddr w a.toNat) = some (r, i, j, o)) ∧
      (s.barClosed w (barAddr w a.toNat) = false) ∧ (s.mayWrite w r i = true) ∧ (s.lockedOut r = false) ∧ r.info.kind = .prot) ∧
    (
    ((List.range 6).all fun nth => ([Reg.BND_SRAMWIN, .HOP_FN_HMBASE, .HOP_FN_HMSIZE, .HOP_FN_ARB, .WIN_MODEL_FN0, .WIN_MODEL_FN1].map fun r =>
      up0.setHasp { up0.hasp with wrq := [⟨r.idx, 5, 0, 7, BitVec.allOnes 64, 0⟩] } : List (State)).any fun s =>
    let v : BitVec 64 := 7
    let i : Nat := 5
    (([Reg.BND_SRAMWIN, .HOP_FN_HMBASE, .HOP_FN_HMSIZE, .HOP_FN_ARB, .WIN_MODEL_FN0, .WIN_MODEL_FN1])[nth]?.toList).any fun q =>
    let rest := []
    let b := 0
    decide (s.hasp.wrq = ⟨q.idx, i, 0, v, BitVec.allOnes 64, b⟩ :: rest)) = true) := by
  refine ⟨?_, ?_, ?_, ?_, ?_⟩ <;> decide +kernel

/-- A state and operands that meet the hypotheses of each clause of `CoreWindowAndRunRowsComplete`. -/
theorem wit_CoreWindowAndRunRowsComplete :
    (
    let s : State := up0
    let w : Agent := .firmware
    let c : Fin 64 := 63
    let off : BitVec 17 := 0x1FFF8
    let bs : List Byte := List.replicate 8 1
    let n : Nat := 8
    let open_ := s.pl w = 0 ∧ ((s.core c).state = .halted ∨ (s.core c).state = .doubleTrap)
    ((n = 4 ∨ n = 8)) ∧ (off.toNat % n = 0) ∧ (bs.length = n) ∧ (s.barClosed w (0xF0004F800000 + 0x20000 * c.val + off.toNat) = false) ∧ open_) ∧
    (
    let s : State := up0.setCore 63 { Core.reset with state := .running }
    let w : Agent := .firmware
    let c : Fin 64 := 63
    let off : BitVec 17 := 0x1FFF8
    let bs : List Byte := List.replicate 8 1
    let n : Nat := 8
    let open_ := s.pl w = 0 ∧ ((s.core c).state = .halted ∨ (s.core c).state = .doubleTrap)
    ((n = 4 ∨ n = 8)) ∧ (off.toNat % n = 0) ∧ (bs.length = n) ∧ (s.barClosed w (0xF0004F800000 + 0x20000 * c.val + off.toNat) = false) ∧ ¬ open_) ∧
    (
    let s : State := up0
    let w : Agent := .firmware
    let c : Fin 64 := 63
    let k := s.core c
    (Allowed s w .BND_RUN c 0) ∧ (k.state = .halted ∨ k.state = .doubleTrap) ∧ s.isFenced 9 c = false) ∧
    (
    let s : State := up0.setCore 63 { Core.reset with state := .running }
    let w : Agent := .firmware
    let c : Fin 64 := 63
    let k := s.core c
    (Allowed s w .BND_RUN c 0) ∧ (k.state ≠ .halted) ∧ k.state ≠ .doubleTrap) := by
  refine ⟨?_, ?_, ?_, ?_⟩ <;> decide +kernel

def swBits (cls op fs fd dst s1 s2 s3 imm rep loop target : Nat) : Nat :=
  cls * 2 ^ 124 + op * 2 ^ 120 + fs * 2 ^ 114 + fd * 2 ^ 110 + dst * 2 ^ 103 + s1 * 2 ^ 96 + s2 * 2 ^ 89 + s3 * 2 ^ 82 + imm * 2 ^ 32 + rep * 2 ^ 20 +
    loop * 2 ^ 18 + target * 2 ^ 15
def prog (s : State) (ws : List Nat) : State :=
  ((List.range ws.length).foldl (fun a k => (a.wr .CU_PROG 3 (16 + 2 * k) (BitVec.ofNat 64 (lget ws k 0))).wr .CU_PROG 3 (17 + 2 * k)
    (BitVec.ofNat 64 (lget ws k 0 / 2 ^ 64))) ((s.wrF .CU_STATUS 3 0 5 4 1).wrF .CU_CHAIN 3 1 55 52 ws.length))
def gOn : Stage := { Stage.reset with
  inPass := true
  t := (List.range 64).map fun n => (n, some (BitVec.ofNat 32 (0x3F800000 + n * 0x30000)))
  acc := (List.range 32).map fun n => (n, BitVec.ofNat 32 (0x40490FDB + n))
  pred := [(1, true), (5, true), (16, true), (17, true), (33, true)] }
def stageAt (g : Stage) (ws : List Nat) : State := (prog up0 ws).setCu 3 ((up0.cu 3).setStage 1 g)
def laneF (cls op fs fd : Nat) : State := stageAt gOn [swBits cls op fs fd 5 1 2 3 1 0 0 0]
def lane1 (cls op : Nat) : State := stageAt gOn [swBits cls op 0 0 5 1 2 3 1 0 0 0]

/-- A state and operands that meet the hypotheses of each clause of `LaneAndPredicateWordsComplete` (part 1). -/
theorem wit_LaneAndPredicateWordsComplete_a :
    (
    ((List.range 16).all fun nth => ([(0, 1), (0, 2), (0, 3), (0, 4), (2, 0), (2, 1), (2, 2), (2, 3), (2, 4), (2, 5), (2, 6), (2, 7), (2, 8), (2, 9),
      (2, 10), (5, 8)].map fun f => lane1 f.1 f.2 : List (State)).any fun s =>
    let u : Fin 16896 := 3
    let st : Fin 4 := 1
    ((s.curWord u st).toList : List (SW)).any fun w =>
    let g := (s.cu u).stage st
    let x := s.src1 u st w
    let y := s.src2 u st w
    (([(.mov u st, 0, 1, x), (.lrot u st, 0, 2, fun l => x ((l + w.imm) % 16)), (.lbc u st, 0, 3, fun _ => x (w.imm % 16)), (.ptoi u st, 0, 4, fun l
      => if g.p w.psel l then 1 else 0), (.iadd u st, 2, 0, fun l => x l + y l), (.isub u st, 2, 1, fun l => x l - y l), (.imul u st, 2, 2, fun l => x
      l * y l), (.imin u st, 2, 3, fun l => if (x l).toInt < (y l).toInt then x l else y l), (.imax u st, 2, 4, fun l => if (x l).toInt < (y l).toInt
      then y l else x l), (.stageAnd u st, 2, 5, fun l => x l &&& y l), (.stageOr u st, 2, 6, fun l => x l ||| y l), (.stageXor u st, 2, 7, fun l => x
      l ^^^ y l), (.stageShl u st, 2, 8, fun l => x l <<< ((y l).toNat % 32)), (.stageShr u st, 2, 9, fun l => x l >>> ((y l).toNat % 32)), (.stageSar
      u st, 2, 10, fun l => (x l).sshiftRight ((y l).toNat % 32)), (.sel u st, 5, 8, fun l => if g.p w.psel l then x l else y l)] : List (Instr × Nat
      × Nat × (Nat → Word32)))[nth]?.toList).any fun p => decide (StandsAt s u st w p.2.1 p.2.2.1)) = true) ∧
    (
    (
    let s : State := lane1 0 0
    let u : Fin 16896 := 3
    let st : Fin 4 := 1
    ((s.curWord u st).toList : List (SW)).any fun w => decide (StandsAt s u st w 0 0)) = true) ∧
    (
    (
    let s : State := lane1 7 4
    let u : Fin 16896 := 3
    let st : Fin 4 := 1
    ((s.curWord u st).toList : List (SW)).any fun w => decide (StandsAt s u st w 7 4)) = true) ∧
    (
    (
    let s : State := lane1 7 5
    let u : Fin 16896 := 3
    let st : Fin 4 := 1
    ((s.curWord u st).toList : List (SW)).any fun w => decide (StandsAt s u st w 7 5)) = true) ∧
    (
    (
    let s : State := lane1 8 1
    let u : Fin 16896 := 3
    let st : Fin 4 := 1
    ((s.curWord u st).toList : List (SW)).any fun w =>
    let src := if w.fs = 8 then 8 else 0
    decide ((StandsAt s u st w 8 1) ∧ w.fd = src)) = true) ∧
    (
    (
    let s : State := laneF 8 1 0 1
    let u : Fin 16896 := 3
    let st : Fin 4 := 1
    ((s.curWord u st).toList : List (SW)).any fun w =>
    let src := if w.fs = 8 then 8 else 0
    decide ((StandsAt s u st w 8 1) ∧ w.fd ≠ src)) = true) := by
  refine ⟨?_, ?_, ?_, ?_, ?_, ?_⟩ <;> decide +kernel

/-- A state and operands that meet the hypotheses of each clause of `LaneAndPredicateWordsComplete` (part 2). -/
theorem wit_LaneAndPredicateWordsComplete_b :
    (
    ((List.range 12).all fun nth => ([(0, 5), (5, 0), (5, 1), (5, 2), (5, 3), (5, 4), (5, 5), (5, 6), (5, 9), (5, 10), (5, 11), (5, 12)].map fun f =>
      lane1 f.1 f.2 : List (State)).any fun s =>
    let u : Fin 16896 := 3
    let st : Fin 4 := 1
    ((s.curWord u st).toList : List (SW)).any fun w =>
    let g := (s.cu u).stage st
    let x := s.src1 u st w
    let y := s.src2 u st w
    let v := fun l => elemVal w.fs (x l).toNat
    let z := fun l => elemVal w.fs (y l).toNat
    let i := w.imm % 8
    (([(.itop u st, 0, 5, fun l => decide (x l ≠ 0)), (.fcmpeq u st, 5, 0, fun l => decide ((v l).cmp (z l) = some 0)), (.fcmplt u st, 5, 1, fun l =>
      decide ((v l).cmp (z l) = some (-1))), (.fcmple u st, 5, 2, fun l => decide ((v l).cmp (z l) = some (-1) ∨ (v l).cmp (z l) = some 0)), (.fcmpun
      u st, 5, 3, fun l => decide (v l = .nan ∨ z l = .nan)), (.icmpeq u st, 5, 4, fun l => decide (x l = y l)), (.icmplt u st, 5, 5, fun l => decide
      ((x l).toInt < (y l).toInt)), (.icmpltu u st, 5, 6, fun l => decide ((x l).toNat < (y l).toNat)), (.pand u st, 5, 9, fun l => g.p w.psel l &&
      g.p i l), (.por u st, 5, 10, fun l => g.p w.psel l || g.p i l), (.pxor u st, 5, 11, fun l => xor (g.p w.psel l) (g.p i l)), (.pnot u st, 5, 12,
      fun l => !g.p w.psel l)] : List (Instr × Nat × Nat × (Nat → Bool)))[nth]?.toList).any fun p => decide (StandsAt s u st w p.2.1 p.2.2.1)) = true) := by decide +kernel

/-- A state and operands that meet the hypotheses of each clause of `FloatWordsComplete`. -/
theorem wit_FloatWordsComplete :
    (
    ((List.range 9).all fun nth => ((List.range 9).map fun op => lane1 1 op : List (State)).any fun s =>
    let u : Fin 16896 := 3
    let st : Fin 4 := 1
    ((s.curWord u st).toList : List (SW)).any fun w => ((fmtOf w.fs).toList).any fun fs =>
    let once := fun (c : RCtx) (v : FVal × Flags) => ((elemOf c w.fd v.1).1, (elemOf c w.fd v.1).2 ||| v.2)
    let bare := fun (c : RCtx) (v : FVal) => ((elemOf { c with ftz := false } w.fd v).1, (0 : Flags))
    let d := fs.decode
    (([(.stageFadd u st, 0, true, fun c x y _ => once c ((d x).add (d y))), (.stageFsub u st, 1, true, fun c x y _ => once c ((d x).add (d y).neg)),
      (.stageFmul u st, 2, true, fun c x y _ => once c ((d x).mul (d y))), (.stageFfma u st, 3, true, fun c x y z => once c ((d x).fma (d y) (d z))),
      (.stageFmin u st, 4, false, fun c x y _ => elemOf c w.fd (FVal.minmax false (d x) (d y))), (.stageFmax u st, 5, false, fun c x y _ => elemOf c
      w.fd (FVal.minmax true (d x) (d y))), (.fabs u st, 6, false, fun c x _ _ => bare c (d x).abs), (.fneg u st, 7, false, fun c x _ _ => bare c (d
      x).neg), (.stageFdiv u st, 8, true, fun c x y _ => quotOf c w.fd (d x) (d y))] : List (Instr × Nat × Bool × (RCtx → Nat → Nat → Nat → Nat ×
      Flags)))[nth]?.toList).any fun p => decide (StandsAt s u st w 1 p.2.1)) = true) := by decide +kernel

def accW (cls op fs fd : Nat) : State := stageAt gOn [swBits cls op fs fd 17 1 2 3 2 0 0 0]

/-- A state and operands that meet the hypotheses of each clause of `AccumulatorWordsComplete` (part 1). -/
theorem wit_AccumulatorWordsComplete_a :
    (
    (
    let s : State := accW 8 0 0 0
    let u : Fin 16896 := 3
    let st : Fin 4 := 1
    ((s.curWord u st).toList : List (SW)).any fun w => decide (StandsAt s u st w 8 0)) = true) ∧
    (
    (
    let s : State := accW 8 2 0 0
    let u : Fin 16896 := 3
    let st : Fin 4 := 1
    ((s.curWord u st).toList : List (SW)).any fun w => decide (StandsAt s u st w 8 2)) = true) ∧
    (
    (
    let s : State := accW 8 3 8 8
    let u : Fin 16896 := 3
    let st : Fin 4 := 1
    ((s.curWord u st).toList : List (SW)).any fun w => decide ((StandsAt s u st w 8 3) ∧ w.fs = 8)) = true) ∧
    (
    (
    let s : State := accW 8 3 0 0
    let u : Fin 16896 := 3
    let st : Fin 4 := 1
    ((s.curWord u st).toList : List (SW)).any fun w => decide ((StandsAt s u st w 8 3) ∧ w.fs ≠ 8)) = true) ∧
    (
    (
    let s : State := accW 3 0 2 2
    let u : Fin 16896 := 3
    let st : Fin 4 := 1
    ((s.curWord u st).toList : List (SW)).any fun w => decide (StandsAt s u st w 3 0)) = true) ∧
    (
    (
    let s : State := accW 3 1 8 8
    let u : Fin 16896 := 3
    let st : Fin 4 := 1
    ((s.curWord u st).toList : List (SW)).any fun w => decide (StandsAt s u st w 3 1)) = true) := by
  refine ⟨?_, ?_, ?_, ?_, ?_, ?_⟩ <;> decide +kernel

/-- A state and operands that meet the hypotheses of each clause of `AccumulatorWordsComplete` (part 2). -/
theorem wit_AccumulatorWordsComplete_b :
    (
    (
    let s : State := accW 3 2 5 5
    let u : Fin 16896 := 3
    let st : Fin 4 := 1
    ((s.curWord u st).toList : List (SW)).any fun w => decide (StandsAt s u st w 3 2)) = true) := by decide +kernel

def gMx : Stage := { gOn with t := (List.range 64).map fun n => (n, some (BitVec.ofNat 32 (n % 16 * 3 + 32))) }
def laneMx (cls op fs fd : Nat) : State := stageAt gMx [swBits cls op fs fd 5 1 2 3 1 0 0 0]

/-- A state and operands that meet the hypotheses of each clause of `ConversionAndFunctionWordsComplete` (part 1). -/
theorem wit_ConversionAndFunctionWordsComplete_a :
    (
    (
    let s : State := lane1 4 0
    let u : Fin 16896 := 3
    let st : Fin 4 := 1
    ((s.curWord u st).toList : List (SW)).any fun w => decide (StandsAt s u st w 4 0)) = true) ∧
    (
    (
    let s : State := laneMx 4 1 0 5
    let u : Fin 16896 := 3
    let st : Fin 4 := 1
    ((s.curWord u st).toList : List (SW)).any fun w => decide (StandsAt s u st w 4 1)) = true) ∧
    (
    (
    let s : State := laneMx 4 2 0 5
    let u : Fin 16896 := 3
    let st : Fin 4 := 1
    ((s.curWord u st).toList : List (SW)).any fun w => decide (StandsAt s u st w 4 2)) = true) ∧
    (
    (
    let s : State := laneMx 4 3 5 0
    let u : Fin 16896 := 3
    let st : Fin 4 := 1
    ((s.curWord u st).toList : List (SW)).any fun w => decide (StandsAt s u st w 4 3)) = true) ∧
    (
    ((List.range 6).all fun nth => ((List.range 6).map fun op => lane1 6 op : List (State)).any fun s =>
    let u : Fin 16896 := 3
    let st : Fin 4 := 1
    ((s.curWord u st).toList : List (SW)).any fun w => (([(.exp2 u st, 0, SFun.exp2), (.log2 u st, 1, SFun.log2), (.rcp u st, 2, SFun.rcp), (.rsqrt u
      st, 3, SFun.rsqrt), (.tanh u st, 4, SFun.tanh), (.sigm u st, 5, SFun.sigm)] : List (Instr × Nat × SFun))[nth]?.toList).any fun p => decide
      (StandsAt s u st w 6 p.2.1)) = true) ∧
    (
    (
    let s : State := lane1 7 2
    let u : Fin 16896 := 3
    let st : Fin 4 := 1
    ((s.curWord u st).toList : List (SW)).any fun w => decide (StandsAt s u st w 7 2)) = true) := by
  refine ⟨?_, ?_, ?_, ?_, ?_, ?_⟩ <;> decide +kernel

/-- A state and operands that meet the hypotheses of each clause of `ConversionAndFunctionWordsComplete` (part 2). -/
theorem wit_ConversionAndFunctionWordsComplete_b :
    (
    (
    let s : State := lane1 7 3
    let u : Fin 16896 := 3
    let st : Fin 4 := 1
    ((s.curWord u st).toList : List (SW)).any fun w => decide (StandsAt s u st w 7 3)) = true) ∧
    (
    (
    let s : State := lane1 8 4
    let u : Fin 16896 := 3
    let st : Fin 4 := 1
    ((s.curWord u st).toList : List (SW)).any fun w => decide (StandsAt s u st w 8 4)) = true) ∧
    (
    let x : Word32 := 0x7FC00001
    Fmt.fp32.decode x.toNat = .nan) ∧
    (
    (
    let s : State := lane1 7 0
    let u : Fin 16896 := 3
    let st : Fin 4 := 1
    ((s.curWord u st).toList : List (SW)).any fun w => decide (StandsAt s u st w 7 0)) = true) ∧
    (
    (
    let s : State := stageAt { gOn with exp := (List.range 20).map fun n => BitVec.ofNat 32 n } [swBits 7 1 0 0 5 1 2 3 0 0 0 0]
    let u : Fin 16896 := 3
    let st : Fin 4 := 1
    ((s.curWord u st).toList : List (SW)).any fun w => decide (StandsAt s u st w 7 1)) = true) := by
  refine ⟨?_, ?_, ?_, ?_, ?_⟩ <;> decide +kernel

/-- A state and operands that meet the hypotheses of each clause of `LaneResultsReachTheDestination` (part 1). -/
theorem wit_LaneResultsReachTheDestination_a :
    (
    ( ([0, 15, 16, 19, 0x18, 0x19] : List (Nat)).any fun dst =>
    let l := 15
    decide ((dst < 16) ∧ l < 16)) = true) ∧
    (( ([0, 15, 16, 19, 0x18, 0x19] : List (Nat)).any fun dst => decide (dst < 16)) = true) ∧
    (
    (
    let st : Nat := 1
    ([0, 15, 16, 19, 0x18, 0x19] : List (Nat)).any fun dst =>
    let k := 2
    decide ((dst < 16) ∧ k ≠ st)) = true) ∧
    (
    (
    let u : Nat := 3
    ([0, 15, 16, 19, 0x18, 0x19] : List (Nat)).any fun dst =>
    let v := 0
    decide ((dst < 16) ∧ v ≠ u)) = true) ∧
    (
    ( ([0, 15, 16, 19, 0x18, 0x19] : List (Nat)).any fun dst =>
    let l := 15
    decide ((16 ≤ dst) ∧ (dst < 20) ∧ l < 16)) = true) ∧
    (( ([0, 15, 16, 19, 0x18, 0x19] : List (Nat)).any fun dst => decide ((16 ≤ dst) ∧ dst < 20)) = true) := by
  refine ⟨?_, ?_, ?_, ?_, ?_, ?_⟩ <;> decide +kernel

/-- A state and operands that meet the hypotheses of each clause of `LaneResultsReachTheDestination` (part 2). -/
theorem wit_LaneResultsReachTheDestination_b :
    (
    (
    let st : Nat := 1
    ([0, 15, 16, 19, 0x18, 0x19] : List (Nat)).any fun dst =>
    let k := 2
    decide ((16 ≤ dst) ∧ (dst < 20) ∧ k ≠ st)) = true) ∧
    (
    (
    let u : Nat := 3
    ([0, 15, 16, 19, 0x18, 0x19] : List (Nat)).any fun dst =>
    let v := 0
    decide ((16 ≤ dst) ∧ (dst < 20) ∧ v ≠ u)) = true) ∧
    (
    ( ([0, 15, 16, 19, 0x18, 0x19] : List (Nat)).any fun dst =>
    let on : List Bool := List.replicate 16 false
    decide ((dst = 0x18) ∧ lget on 0 false = false)) = true) ∧
    (
    ( ([0, 15, 16, 19, 0x18, 0x19] : List (Nat)).any fun dst =>
    let on : List Bool := List.replicate 16 true
    decide ((dst = 0x18) ∧ lget on 0 false = true)) = true) ∧
    (( ([0, 15, 16, 19, 0x18, 0x19] : List (Nat)).any fun dst => decide (dst = 0x19)) = true) := by
  refine ⟨?_, ?_, ?_, ?_, ?_⟩ <;> decide +kernel

def waits (down : List DownItem) (q : List Xfer) (w : Nat) : State :=
  let s := stageAt { gOn with down := down } [w]
  s.setTile 6 { s.tile 6 with queues := [(12, q)] }
def waitOps : List (Nat × Nat) := [(0, 1), (1, 3), (2, 0), (3, 0), (4, 0), (5, 8), (6, 0), (7, 0), (7, 1), (8, 2)]

/-- A state and operands that meet the hypotheses of each clause of `StageWordsWaitOrAreCutShort`. -/
theorem wit_StageWordsWaitOrAreCutShort :
    (
    (
    let s : State := up0
    let u : Fin 16896 := 3
    let st : Fin 4 := 1
    (stageWords u st).any fun p => decide (s.curWord u st = none)) = true) ∧
    (
    (
    let s : State := waits [] [] (swBits 14 0 0 0 0x19 0x14 2 3 0 0 0 0)
    let u : Fin 16896 := 3
    let st : Fin 4 := 1
    (stageWords u st).any fun p => ((s.curWord u st).toList : List (SW)).any fun w => decide ((s.curWord u st = some w) ∧ (w.cls ≠ p.2.1 ∨ w.op ≠
      p.2.2))) = true) ∧
    (
    (
    let s : State := waits [] [⟨.eos, false, 0, 0⟩] (swBits 0 1 0 0 0x19 0x14 2 3 0 0 0 0)
    let u : Fin 16896 := 3
    let st : Fin 4 := 1
    (stageWords u st).any fun p => ((s.curWord u st).toList : List (SW)).any fun w => decide ((s.curWord u st = some w) ∧ (w.cls = p.2.1) ∧ (w.op =
      p.2.2) ∧ s.truncated u st w = true)) = true) ∧
    (
    (
    let s : State := waits [] [] (swBits 0 1 0 0 0x19 0x14 2 3 0 0 0 0)
    let u : Fin 16896 := 3
    let st : Fin 4 := 1
    (stageWords u st).any fun p => ((s.curWord u st).toList : List (SW)).any fun w => decide ((s.curWord u st = some w) ∧ (w.cls = p.2.1) ∧ (w.op =
      p.2.2) ∧ (s.truncated u st w = false) ∧ s.inputsReady u st w = false)) = true) ∧
    (
    (
    let s : State := waits (List.replicate 8 .eos) [] (swBits 0 1 0 0 0x19 1 2 3 0 0 0 0 + 2 ^ 68)
    let u : Fin 16896 := 3
    let st : Fin 4 := 1
    (stageWords u st).any fun p => ((s.curWord u st).toList : List (SW)).any fun w => decide ((s.curWord u st = some w) ∧ (w.cls = p.2.1) ∧ (w.op =
      p.2.2) ∧ (s.truncated u st w = false) ∧ (s.inputsReady u st w = true) ∧ s.outputsReady u st w = false)) = true) := by
  refine ⟨?_, ?_, ?_, ?_, ?_⟩ <;> decide +kernel

def g0 : Stage := { gOn with inPass := false }
def eosAt (s : State) : State := s.setTile 6 { s.tile 6 with queues := [(12, [⟨.eos, false, 0, 0⟩]), (20, [])] }
def bindVi (st : Nat) (s : State) : State := s.wr .CU_PORTBIND 3 0 (BitVec.ofNat 64 (0x20 + st))
def two (g : Stage) : State := stageAt g [swBits 0 1 0 0 5 1 2 3 1 0 0 0, swBits 0 1 0 0 5 1 2 3 1 0 0 0]
def looped (g : Stage) (rep loop : Nat) : State := stageAt g [swBits 0 1 0 0 5 1 2 3 1 rep loop 1, swBits 0 1 0 0 5 1 2 3 1 0 0 0]
def kLim (n : BitVec 32) : State := bindVi 1 ((looped g0 0 1).wrF .CU_CHAIN 3 1 16 0 65536 |>.setCu 3 { ((looped g0 0 1).cu 3) with kAct := [(0, n)] })

/-- A state and operands that meet the hypotheses of each clause of `PassesRunsAndSequencer` (part 1). -/
theorem wit_PassesRunsAndSequencer_a :
    (
    let s : State := bindVi 1 (two g0)
    let u : Fin 16896 := 3
    let st : Fin 4 := 1
    let k := s.cu u
    let g := k.stage st
    let lims := [1, 2, 3].map fun L => if L ∈ s.loopLevels u st then s.loopLimit u st L else 1
    let mode := s.cuMode u
    let open_ := s.nwords u st ≠ 0 ∧ (mode = 1 ∨ mode = 2) ∧ (s.tile (cuInst u)).aborting = false ∧ g.inPass = false
    (open_) ∧ (g.ended = false) ∧ (s.stageEos u st = false) ∧ ((∀ x ∈ lims, x ≠ 0 ∧ x ≤ 65536))) ∧
    (
    let s : State := kLim 0
    let u : Fin 16896 := 3
    let st : Fin 4 := 1
    let k := s.cu u
    let g := k.stage st
    let lims := [1, 2, 3].map fun L => if L ∈ s.loopLevels u st then s.loopLimit u st L else 1
    let mode := s.cuMode u
    let open_ := s.nwords u st ≠ 0 ∧ (mode = 1 ∨ mode = 2) ∧ (s.tile (cuInst u)).aborting = false ∧ g.inPass = false
    (open_) ∧ (g.ended = false) ∧ (s.stageEos u st = false) ∧ ((∀ x ∈ lims, x ≤ 65536)) ∧ (∃ x ∈ lims, x = 0)) ∧
    (
    let s : State := kLim 65537
    let u : Fin 16896 := 3
    let st : Fin 4 := 1
    let k := s.cu u
    let g := k.stage st
    let lims := [1, 2, 3].map fun L => if L ∈ s.loopLevels u st then s.loopLimit u st L else 1
    let mode := s.cuMode u
    let open_ := s.nwords u st ≠ 0 ∧ (mode = 1 ∨ mode = 2) ∧ (s.tile (cuInst u)).aborting = false ∧ g.inPass = false
    (open_) ∧ (g.ended = false) ∧ (s.stageEos u st = false) ∧ (∃ x ∈ lims, 65536 < x)) ∧
    (
    let s : State := bindVi 1 (two { g0 with ended := true })
    let u : Fin 16896 := 3
    let st : Fin 4 := 1
    let k := s.cu u
    let g := k.stage st
    let mode := s.cuMode u
    let open_ := s.nwords u st ≠ 0 ∧ (mode = 1 ∨ mode = 2) ∧ (s.tile (cuInst u)).aborting = false ∧ g.inPass = false
    (open_) ∧ g.ended = true) ∧
    (
    let s : State := eosAt (bindVi 1 ((two g0).wrF .CU_CHAIN 3 2 55 52 1))
    let u : Fin 16896 := 3
    let st : Fin 4 := 1
    let k := s.cu u
    let g := k.stage st
    let mode := s.cuMode u
    let open_ := s.nwords u st ≠ 0 ∧ (mode = 1 ∨ mode = 2) ∧ (s.tile (cuInst u)).aborting = false ∧ g.inPass = false
    (open_) ∧ (g.ended = false) ∧ (s.stageEos u st = true) ∧ (k.mtile = []) ∧ (mode = 1) ∧ (st.val ≠ s.lastStage u) ∧ g.down.length < s.downRoom u st) ∧
    (
    let s : State := eosAt (bindVi 1 ((two { g0 with down := [.eos, .eos] }).wrF .CU_CHAIN 3 2 55 52 1))
    let u : Fin 16896 := 3
    let st : Fin 4 := 1
    let k := s.cu u
    let g := k.stage st
    let mode := s.cuMode u
    let open_ := s.nwords u st ≠ 0 ∧ (mode = 1 ∨ mode = 2) ∧ (s.tile (cuInst u)).aborting = false ∧ g.inPass = false
    (open_) ∧ (g.ended = false) ∧ (s.stageEos u st = true) ∧ (k.mtile = []) ∧ (mode = 1) ∧ (st.val ≠ s.lastStage u) ∧ s.downRoom u st ≤ g.down.length) := by
  refine ⟨?_, ?_, ?_, ?_, ?_, ?_⟩ <;> decide +kernel

/-- A state and operands that meet the hypotheses of each clause of `PassesRunsAndSequencer` (part 2). -/
theorem wit_PassesRunsAndSequencer_b :
    (
    let s : State := eosAt (bindVi 1 (two g0))
    let u : Fin 16896 := 3
    let st : Fin 4 := 1
    let k := s.cu u
    let g := k.stage st
    let mode := s.cuMode u
    let open_ := s.nwords u st ≠ 0 ∧ (mode = 1 ∨ mode = 2) ∧ (s.tile (cuInst u)).aborting = false ∧ g.inPass = false
    let outs := if mode = 2 then [0x10, 0x11] else (([0, 1].filter fun n => s.portEn u (4 + n)).map (0x10 + ·) ++ (if bit (s.rd .CU_PORTBIND u 0) 54
      then [0x12] else []))
    (open_) ∧ (g.ended = false) ∧ (s.stageEos u st = true) ∧ (k.mtile = []) ∧ (mode = 2 ∨ st.val = s.lastStage u) ∧ (∀ c ∈ outs, s.canSend (cuInst u)
      c = true)) ∧
    (
    let s : State := ((eosAt (two g0)).wr .CU_PORTBIND 3 0 (BitVec.ofNat 64 (0x21 + 0x21 * 2 ^ 32))).wr .LNK_OSEL 6 0 0x10
    let u : Fin 16896 := 3
    let st : Fin 4 := 1
    let k := s.cu u
    let g := k.stage st
    let mode := s.cuMode u
    let open_ := s.nwords u st ≠ 0 ∧ (mode = 1 ∨ mode = 2) ∧ (s.tile (cuInst u)).aborting = false ∧ g.inPass = false
    let outs := if mode = 2 then [0x10, 0x11] else (([0, 1].filter fun n => s.portEn u (4 + n)).map (0x10 + ·) ++ (if bit (s.rd .CU_PORTBIND u 0) 54
      then [0x12] else []))
    (open_) ∧ (g.ended = false) ∧ (s.stageEos u st = true) ∧ (k.mtile = []) ∧ (mode = 2 ∨ st.val = s.lastStage u) ∧ (∃ c ∈ outs, s.canSend (cuInst u)
      c = false)) ∧
    (
    (
    let s : State := looped gOn 2 0
    let u : Nat := 3
    let st : Nat := 1
    ((s.curWord u st).toList : List (SW)).any fun w =>
    let g := (s.cu u).stage st
    decide (g.rep < w.rep)) = true) ∧
    (
    (
    let s : State := looped gOn 0 0
    let u : Nat := 3
    let st : Nat := 1
    ((s.curWord u st).toList : List (SW)).any fun w =>
    let g := (s.cu u).stage st
    let L := w.loop
    decide ((w.rep ≤ g.rep) ∧ (L = 0) ∧ g.w + 1 < s.nwords u st)) = true) ∧
    (
    (
    let s : State := looped { gOn with lim := [3, 1, 1] } 0 1
    let u : Nat := 3
    let st : Nat := 1
    ((s.curWord u st).toList : List (SW)).any fun w =>
    let g := (s.cu u).stage st
    let L := w.loop
    let c := lget g.cnt (L - 1) 0
    decide ((w.rep ≤ g.rep) ∧ (L ≠ 0) ∧ (c + 1 < lget g.lim (L - 1) 0) ∧ w.target < s.nwords u st)) = true) ∧
    (
    (
    let s : State := looped { gOn with lim := [1, 1, 1] } 0 1
    let u : Nat := 3
    let st : Nat := 1
    ((s.curWord u st).toList : List (SW)).any fun w =>
    let g := (s.cu u).stage st
    let L := w.loop
    let c := lget g.cnt (L - 1) 0
    decide ((w.rep ≤ g.rep) ∧ (L ≠ 0) ∧ (lget g.lim (L - 1) 0 ≤ c + 1) ∧ g.w + 1 < s.nwords u st)) = true) := by
  refine ⟨?_, ?_, ?_, ?_, ?_, ?_⟩ <;> decide +kernel

/-- A state and operands that meet the hypotheses of each clause of `PassesRunsAndSequencer` (part 3). -/
theorem wit_PassesRunsAndSequencer_c :
    (
    (
    let s : State := looped gOn 0 0
    let u : Nat := 3
    let st : Nat := 1
    ((s.curWord u st).toList : List (SW)).any fun w =>
    let g := (s.cu u).stage st
    let v := 4
    decide ((v ≠ u) ∧ (g.w + 1 < s.nwords u st) ∧ w.target < s.nwords u st)) = true) := by decide +kernel

def bt : Xfer := ⟨.beat 1 8, false, 0, 0⟩
def mat (k : Cu → Cu) (q : List Xfer) (imm : Nat) : State :=
  let s := ((prog up0 []).wrF .CU_STATUS 3 0 5 4 2).wrF .CU_CHAIN 3 0 55 52 1
  let s1 := (s.wr .CU_PROG 3 0 (BitVec.ofNat 64 (swBits 15 0 1 1 0 0x14 0x16 0 imm 0 0 0))).wr .CU_PROG 3 1 (BitVec.ofNat 64 (swBits 15 0 1 1 0 0x14 0x16 0 imm 0 0 0 / 2 ^ 64))
  (s1.setTile 6 { s1.tile 6 with queues := [(12, q), (13, q), (14, q ++ q)] }).setCu 3 (k ((s1.cu 3).setStage 0 gOn))

/-- A state and operands that meet the hypotheses of each clause of `MatrixModeCompletes` (part 1). -/
theorem wit_MatrixModeCompletes_a :
    (
    (
    let s : State := mat (fun k => { k with mkb := 1, mq := 7 }) [bt] 1
    let u : Fin 16896 := 3
    ((s.matrixWord u).toList : List (SW)).any fun w =>
    let k := s.cu u
    let kb := if k.mkb = 0 then s.matrixKb u w else k.mkb
    ((s.chunk u k.mq w).toList).any fun c => decide ((s.matrixWord u = some w) ∧ (w.cls = 0xF) ∧ (kb ≠ 0) ∧ (kb ≤ 65535) ∧ (s.matrixCut u w = false) ∧
      (k.mtile.length < 2) ∧ k.mq + 1 = kb * (32 / groupLen w.fs))) = true) ∧
    (
    (
    let s : State := mat id [bt] 1
    let u : Fin 16896 := 3
    ((s.matrixWord u).toList : List (SW)).any fun w =>
    let k := s.cu u
    let kb := if k.mkb = 0 then s.matrixKb u w else k.mkb
    let s0 := s.setCu u { k with mkb := kb }
    ((s.chunk u k.mq w).toList).any fun c =>
    let a := ((s0.chunkMac u k.mq w c).chunkPop u k.mq w).inc .CU_ISSUE_CYC u 0 4
    decide ((s.matrixWord u = some w) ∧ (w.cls = 0xF) ∧ (kb ≠ 0) ∧ (kb ≤ 65535) ∧ (s.matrixCut u w = false) ∧ (k.mtile.length < 2) ∧ (k.mq + 1 ≠ kb *
      (32 / groupLen w.fs)) ∧ (a.setCu u { a.cu u with mq := k.mq + 1 }).chunk u (k.mq + 1) w = none)) = true) ∧
    (
    (
    let s : State := mat id [] 1
    let u : Fin 16896 := 3
    ((s.matrixWord u).toList : List (SW)).any fun w =>
    let k := s.cu u
    let kb := if k.mkb = 0 then s.matrixKb u w else k.mkb
    decide ((s.matrixWord u = some w) ∧ (w.cls = 0xF) ∧ (kb ≠ 0) ∧ (kb ≤ 65535) ∧ (s.matrixCut u w = false) ∧ (k.mtile.length < 2) ∧ s.chunk u k.mq w
      = none)) = true) ∧
    (
    (
    let s : State := mat id [⟨.eos, false, 0, 0⟩] 1
    let u : Fin 16896 := 3
    ((s.matrixWord u).toList : List (SW)).any fun w =>
    let k := s.cu u
    let kb := if k.mkb = 0 then s.matrixKb u w else k.mkb
    decide ((s.matrixWord u = some w) ∧ (w.cls = 0xF) ∧ (kb ≠ 0) ∧ (kb ≤ 65535) ∧ s.matrixCut u w = true)) = true) ∧
    (
    (
    let s : State := (mat id [] (2 ^ 31)).setCu 3 { (mat id [] (2 ^ 31)).cu 3 with kAct := [(0, 65536)] }
    let u : Fin 16896 := 3
    ((s.matrixWord u).toList : List (SW)).any fun w =>
    let k := s.cu u
    let kb := if k.mkb = 0 then s.matrixKb u w else k.mkb
    decide ((s.matrixWord u = some w) ∧ (w.cls = 0xF) ∧ 65535 < kb)) = true) ∧
    (
    (
    let s : State := mat id [] 0
    let u : Fin 16896 := 3
    ((s.matrixWord u).toList : List (SW)).any fun w =>
    let k := s.cu u
    let kb := if k.mkb = 0 then s.matrixKb u w else k.mkb
    decide ((s.matrixWord u = some w) ∧ (w.cls = 0xF) ∧ kb = 0)) = true) := by
  refine ⟨?_, ?_, ?_, ?_, ?_, ?_⟩ <;> decide +kernel

/-- A state and operands that meet the hypotheses of each clause of `MatrixModeCompletes` (part 2). -/
theorem wit_MatrixModeCompletes_b :
    (
    (
    let s : State := (mat id [] 0).wr .CU_PROG 3 1 0
    let u : Fin 16896 := 3
    ((s.matrixWord u).toList : List (SW)).any fun w => decide ((s.matrixWord u = some w) ∧ (w.cls = 0) ∧ w.op = 0)) = true) ∧
    (
    (
    let s : State := mat (fun k => { k with mtile := [⟨[], true, [(0, 8)], 0, 0⟩] }) [] 0
    let u : Fin 16896 := 3
    let k := s.cu u
    ((k.mtile).head?.toList).any fun b =>
    let bs := (k.mtile).tail
    decide (((s.tile (cuInst u)).aborting = false) ∧ k.mtile = b :: bs)) = true) ∧
    (
    (
    let s : State := mat (fun k => { k with mtile := [⟨[], true, [(0, 8)], 0, 0⟩] }) [] 0
    let u : Fin 16896 := 3
    let k := s.cu u
    (((s.cu u).mtile.flatMap (·.beats))).any fun x => ((k.mtile).head?.toList).any fun b =>
    let bs := (k.mtile).tail
    let port := mget dNat k.voT 0 % 2
    decide (((s.tile (cuInst u)).aborting = false) ∧ (k.mtile = b :: bs) ∧ (b.started = true) ∧ (b.beats = [x]) ∧ s.canSend (cuInst u) (0x10 + port) =
      true)) = true) := by
  refine ⟨?_, ?_, ?_⟩ <;> decide +kernel

def cmdW (t code flags ref low : Nat) (args : List Nat) (phase : Nat) : Cmd :=
  ⟨t, ((code * 2 ^ 56 + flags * 2 ^ 48 + ref * 2 ^ 32 + low) :: (args ++ List.replicate (7 - args.length) 0)).map (BitVec.ofNat 64), phase, 0, 0⟩
def withCmds (ms : List Cmd) (f : Core → Core) : State := P.setCore 5 (f { Core.reset with cmds := ms, state := .running })

/-- A state and operands that meet the hypotheses of each clause of `CommandUnitRowsComplete` (part 1). -/
theorem wit_CommandUnitRowsComplete_a :
    (
    (
    let s : State := withCmds [cmdW 0 7 1 0 0 [] 0] id
    let c : Fin 64 := 5
    (((s.core c).cmds.find? fun x => decide (x.phase ≤ 1)).toList : List (Cmd)).any fun m =>
    let k := s.core c
    let free := m.eref = true → ∀ x ∈ k.cmds, x.ticket = m.ref → x.settled = true
    decide ((k.cmds.find? (fun x => decide (x.phase = 0)) = some m) ∧ (k.cqHalt = false) ∧ ((∀ x ∈ k.cmds.takeWhile fun y : Cmd => decide (y.ticket ≠
      m.ticket), x.code ≠ 8)) ∧ (k.cmdBad m = false) ∧ (free) ∧ s.cmdDenied c m = false)) = true) ∧
    (
    (
    let s : State := withCmds [cmdW 0 12 0 0 0 [] 0] id
    let c : Fin 64 := 5
    (((s.core c).cmds.find? fun x => decide (x.phase ≤ 1)).toList : List (Cmd)).any fun m =>
    let k := s.core c
    decide ((k.cmds.find? (fun x => decide (x.phase = 0)) = some m) ∧ (k.cqHalt = false) ∧ ((∀ x ∈ k.cmds.takeWhile fun y : Cmd => decide (y.ticket ≠
      m.ticket), x.code ≠ 8)) ∧ k.cmdBad m = true)) = true) ∧
    (
    (
    let s : State := withCmds [cmdW 0 1 0 0 0 [] 0] id
    let c : Fin 64 := 5
    (((s.core c).cmds.find? fun x => decide (x.phase ≤ 1)).toList : List (Cmd)).any fun m =>
    let k := s.core c
    let free := m.eref = true → ∀ x ∈ k.cmds, x.ticket = m.ref → x.settled = true
    decide ((k.cmds.find? (fun x => decide (x.phase = 0)) = some m) ∧ (k.cqHalt = false) ∧ ((∀ x ∈ k.cmds.takeWhile fun y : Cmd => decide (y.ticket ≠
      m.ticket), x.code ≠ 8)) ∧ (k.cmdBad m = false) ∧ (free) ∧ s.cmdDenied c m = true)) = true) ∧
    (
    let s : State := withCmds [cmdW 0 9 0 0 0 [] 1, cmdW 1 7 1 0 0x80000 [] 0] fun k => { k with kinds := [(0, 9)], nextTicket := 2 }
    let c : Fin 64 := 5
    let m : Cmd := cmdW 1 7 1 0 0x80000 [] 0
    let k := s.core c
    let free := m.eref = true → ∀ x ∈ k.cmds, x.ticket = m.ref → x.settled = true
    (k.cmds.find? (fun x => decide (x.phase = 0)) = some m) ∧ (k.cqHalt = false) ∧ ((∀ x ∈ k.cmds.takeWhile fun y : Cmd => decide (y.ticket ≠
      m.ticket), x.code ≠ 8)) ∧ (k.cmdBad m = false) ∧ ¬ free) ∧
    (
    (
    let s : State := withCmds [cmdW 0 9 0 0 0 [] 1] id
    let c : Fin 64 := 5
    (((s.core c).cmds.find? fun x => decide (x.phase ≤ 1)).toList : List (Cmd)).any fun m =>
    let k := s.core c
    decide ((k.cmds.find? (fun x => decide (x.phase = 1) && !x.accepted) = some m) ∧ s.pwr.hold = false)) = true) ∧
    (
    (
    let s : State := withCmds [] fun k => { k with arriving := [(3, 9)] }
    let c : Fin 64 := 5
    let k := s.core c
    (((k.arriving).head?.map (·.1)).toList).any fun n => (((k.arriving).head?.map (·.2)).toList).any fun w =>
    let ps := (k.arriving).tail
    decide ((k.arriving = (n, w) :: ps) ∧ (k.monitor = true) ∧ k.state = .running)) = true) := by
  refine ⟨?_, ?_, ?_, ?_, ?_, ?_⟩ <;> decide +kernel

/-- A state and operands that meet the hypotheses of each clause of `CommandUnitRowsComplete` (part 2). -/
theorem wit_CommandUnitRowsComplete_b :
    (
    (
    let s : State := withCmds [] fun k => { k with arriving := [(3, 9)], state := .await, awaitTicket := 3 }
    let c : Fin 64 := 5
    let k := s.core c
    (((k.arriving).head?.map (·.1)).toList).any fun n => (((k.arriving).head?.map (·.2)).toList).any fun w =>
    let ps := (k.arriving).tail
    decide ((k.arriving = (n, w) :: ps) ∧ (k.monitor = true) ∧ (k.state = CoreState.await) ∧ k.awaitTicket = n)) = true) ∧
    (
    let s : State := withCmds [] fun k => { k with cqHalt := true }
    let c : Fin 64 := 5
    let k := s.core c
    (k.monitor = true) ∧ k.cqHalt = true) := by
  refine ⟨?_, ?_⟩ <;> decide +kernel

/-- A state and operands that meet the hypotheses of each clause of `CommandQueuesFinishAndHalt`. -/
theorem wit_CommandQueuesFinishAndHalt :
    (
    (
    let s : State := withCmds [cmdW 0 7 1 0 0 [] 0] id
    let c : Nat := 5
    let status : Nat := 5
    ((s.core c).cmds : List (Cmd)).any fun m => decide ((m ∈ (s.core c).cmds) ∧ (m.ticket < 65536) ∧ status < 65536)) = true) ∧
    (
    (
    let s : State := withCmds [cmdW 0 7 1 0 0 [] 0] id
    let c : Nat := 5
    let status : Nat := 5
    ((s.core c).cmds : List (Cmd)).any fun m =>
    let i := 4
    decide ((m ∈ (s.core c).cmds) ∧ (m.ticket < 65536) ∧ (status < 65536) ∧ i ≠ c)) = true) ∧
    (
    (
    let s : State := withCmds [cmdW 0 7 1 0 0 [] 0] id
    let c : Nat := 5
    let n : Nat := 3
    let late := fun (m : Cmd) => m.accepted = false ∧ ticketAfter m.ticket n = true
    ((s.core c).cmds).any fun m => decide (((∀ x ∈ (s.core c).cmds, late x → x.ticket ≠ m.ticket)))) = true) ∧
    (
    (
    let s : State := withCmds [cmdW 0 7 1 0 0 [] 0] id
    let c : Nat := 5
    let n : Nat := 65535
    let late := fun (m : Cmd) => m.accepted = false ∧ ticketAfter m.ticket n = true
    ((s.core c).cmds).any fun m => decide (late m)) = true) ∧
    (
    let c : Nat := 5
    let i := 4
    i ≠ c) := by
  refine ⟨?_, ?_, ?_, ?_, ?_⟩ <;> decide +kernel

/-- A state and operands that meet the hypotheses of each clause of `CancelSignalAndWaitCommandsComplete` (part 1). -/
theorem wit_CancelSignalAndWaitCommandsComplete_a :
    (
    (
    let s : State := withCmds [cmdW 0 6 0 0 0 [0x10000] 1] id
    let c : Fin 64 := 5
    ((s.core c).cmds.head?.toList : List (Cmd)).any fun m => ((s.cmdUnit m).toList : List (Nat)).any fun u => decide ((s.inHand c 6 = some m) ∧
      (s.cmdUnit m = some u) ∧ s.plotOf (muInst u) = some m.ctx)) = true) ∧
    (
    (
    let s : State := withCmds [cmdW 0 7 0 0 0 [0, 5] 1] id
    let c : Fin 64 := 5
    ((s.core c).cmds.head?.toList : List (Cmd)).any fun m => ((s.cmdUnit m).toList : List (Nat)).any fun u =>
    let hand := (s.core c).hand
    (((s.injectToken u (.plot (plotFin m.ctx)) ((m.arg 1).setWidth 16)).map (·.1)).toList).any fun a => decide ((hand (fun x => decide (x.code = 7 ∧
      x.flags = 0)) = some m) ∧ (s.cmdUnit m = some u) ∧ s.injectToken u (.plot (plotFin m.ctx)) ((m.arg 1).setWidth 16) = some (a, 0))) = true) ∧
    (
    (
    let s : State := withCmds [cmdW 0 7 1 0 0 [7, 0x100] 1] id
    let c : Fin 64 := 5
    ((s.core c).cmds.head?.toList : List (Cmd)).any fun m =>
    let hand := (s.core c).hand
    decide ((hand (fun x => decide (x.code = 7 ∧ x.flags = 1)) = some m))) = true) ∧
    (
    (
    let s : State := withCmds [cmdW 1 8 0 9 0 [] 1] id
    let c : Fin 64 := 5
    ((s.core c).cmds.head?.toList : List (Cmd)).any fun m => decide ((s.waiting c 0 = some m) ∧ (∀ x ∈ (s.core c).cmds, x.ticket ≠ m.ref))) = true) ∧
    (
    (
    let s : State := withCmds [cmdW 0 8 1 0 0 [] 1, cmdW 1 7 1 0 0 [] 0] id
    let c : Fin 64 := 5
    ((s.core c).cmds.head?.toList : List (Cmd)).any fun m => decide ((s.waiting c 1 = some m) ∧ (s.core c).cmds.head? = some m)) = true) ∧
    (
    (
    let s : State := withCmds [cmdW 0 8 2 0 0 [] 1] id
    let c : Fin 64 := 5
    ((s.core c).cmds.head?.toList : List (Cmd)).any fun m => ((s.cmdUnit m).toList : List (Nat)).any fun u => decide ((s.waiting c 2 = some m) ∧
      (s.cmdUnit m = some u) ∧ (m.arg 1).toNat ≤ (s.rd .LNK_SIGNALS (muInst u) 0).toNat)) = true) := by
  refine ⟨?_, ?_, ?_, ?_, ?_, ?_⟩ <;> decide +kernel

/-- A state and operands that meet the hypotheses of each clause of `CancelSignalAndWaitCommandsComplete` (part 2). -/
theorem wit_CancelSignalAndWaitCommandsComplete_b :
    (
    (
    let s : State := withCmds [cmdW 0 8 0 9 0 [0, 0, 7] 1] id
    let c : Fin 64 := 5
    ((s.core c).cmds.head?.toList : List (Cmd)).any fun m => decide (((s.core c).cmds.find? (fun x => decide (x.phase = 1 ∧ x.code = 8)) = some m) ∧
      m.arg 2 ≠ 0)) = true) := by decide +kernel

def configured (s : State) : State := s.setTile 0 { s.tile 0 with active := { TileCfg.idle with record := [1] } }
def ref5 (t : Nat) : CmdRef := ⟨5, t⟩
def matrixAt (phase sub : Nat) : State :=
  (withCmds [{ cmdW 0 9 0 0 0 [0x8000000000000000, 0, 0, 0, 0, 0x10001] phase with sub := sub }] id).store .csram 8 (natToBytes 8 0x10000)
def loadRec (armed : Bool) : LoadRec := ⟨3, ref5 7, 0, 0, armed, false, false, false, 0, [], false⟩

/-- A state and operands that meet the hypotheses of each clause of `SeederCommandsComplete` (part 1). -/
theorem wit_SeederCommandsComplete_a :
    (
    (
    let s : State := configured (withCmds [cmdW 0 1 2 0 0 [] 1] id)
    let c : Fin 64 := 5
    ((s.core c).cmds.head?.toList : List (Cmd)).any fun m =>
    let r : CmdRef := ⟨c, m.ticket⟩
    (takenS (s.takeLoad m.ctx r (m.arg 0).toNat (fld (m.arg 1) 6 0) (m.flags % 2 = 1) (2 ≤ m.flags))).any fun t => (takenE (s.takeLoad m.ctx r (m.arg
      0).toNat (fld (m.arg 1) 6 0) (m.flags % 2 = 1) (2 ≤ m.flags))).any fun e => decide (s.inHand c 1 = some m)) = true) ∧
    (
    (
    let s : State := (withCmds [cmdW 0 2 0 7 0 [] 1] id).setPlot 0 { Plot.reset with loads := [loadRec false] }
    let c : Fin 64 := 5
    ((s.core c).cmds.head?.toList : List (Cmd)).any fun m => (((s.plot m.ctx).loads.find? (fun x => decide (x.cmd = ⟨c, m.ref⟩))).toList).any fun l =>
      decide ((s.inHand c 2 = some m) ∧ l.armed = false)) = true) ∧
    (
    (
    let s : State := withCmds [cmdW 0 3 0 7 0x80000 [] 1] id
    let c : Fin 64 := 5
    ((s.core c).cmds.head?.toList : List (Cmd)).any fun m => decide (s.inHand c 3 = some m)) = true) ∧
    (
    (
    let s : State := withCmds [cmdW 0 4 1 0 0 [0x201, 7 + 8 * 2 ^ 32] 1] id
    let c : Fin 64 := 5
    ((s.core c).cmds.head?.toList : List (Cmd)).any fun m =>
    let first := fld (m.arg 0) 5 0
    let n := fld (m.arg 0) 14 8
    let vs : List Word32 := [7, 8]
    decide ((s.inHand c 4 = some m) ∧ (m.flags = 1 ∧ n = 2 ∧ vs = ((List.range n).map fun k => BitVec.ofNat 32 (fld (m.arg (1 + k / 2)) (k % 2 * 32 +
      31) (k % 2 * 32)))) ∧ (0 < n) ∧ (first + n ≤ 64) ∧ s.armedWaits m.ctx = false)) = true) ∧
    (
    (
    let s : State := ((withCmds [cmdW 0 5 0 9 0x80000 [] 1] fun k => { k with done := [(9, 3 * 2 ^ 32)] }).setPlot 0
      { Plot.reset with loads := [loadRec true] }).setTile 1 { Tile.reset with shadow := some ⟨TileCfg.idle, 3⟩ }
    let c : Fin 64 := 5
    ((s.core c).cmds.head?.toList : List (Cmd)).any fun m =>
    let r : CmdRef := ⟨c, m.ticket⟩
    ((s.cmdUnit m).toList).any fun u =>
    let e := if m.eref then some ((s.core c).epochOf m.ref) else none
    (issueS (s.takeIssue m.ctx (fld (m.arg 0) 13 0) (fld (m.arg 0) 17 16) (fld (m.arg 0) 23 20) e (if m.flags = 1 then some (fld (m.arg 1) 59 0) else
      none) r)).any fun t => decide (s.inHand c 5 = some m)) = true) ∧
    (
    (
    let s : State := withCmds [cmdW 0 9 0 0 0 [0x8000000000000000] 1] id
    let c : Fin 64 := 5
    ((s.core c).cmds.head?.toList : List (Cmd)).any fun m => decide ((s.matrixInHand c = some m) ∧ (sramAddr (m.arg 0) 256).any (s.matrixBad m) =
      true)) = true) := by
  refine ⟨?_, ?_, ?_, ?_, ?_, ?_⟩ <;> decide +kernel

/-- A state and operands that meet the hypotheses of each clause of `SeederCommandsComplete` (part 2). -/
theorem wit_SeederCommandsComplete_b :
    (
    (
    let s : State := matrixAt 1 0
    let c : Fin 64 := 5
    ((s.core c).cmds.head?.toList : List (Cmd)).any fun m => ((sramAddr (m.arg 0) 256).toList).any fun a => decide ((s.matrixInHand c = some m) ∧
      (s.matrixBad m a = false) ∧ (m.phase = 1) ∧ s.armedWaits m.ctx = false)) = true) ∧
    (
    (
    let s : State := configured (matrixAt 2 1)
    let c : Fin 64 := 5
    ((s.core c).cmds.head?.toList : List (Cmd)).any fun m =>
    let r : CmdRef := ⟨c, m.ticket⟩
    ((sramAddr (m.arg 0) 256).toList).any fun a => (takenS (s.takeLoad m.ctx r (s.tmplWord a 0).toNat 0 true true)).any fun t => (takenE (s.takeLoad
      m.ctx r (s.tmplWord a 0).toNat 0 true true)).any fun e => decide ((s.matrixInHand c = some m) ∧ (s.matrixBad m a = false) ∧ (m.phase = 2) ∧
      (m.sub = 1) ∧ s.bcastBusy (c * 65536 + m.ticket) = false)) = true) ∧
    (
    (
    let s : State := (matrixAt 2 2).setTile 1 { Tile.reset with active := { TileCfg.idle with record := [1] } }
    let c : Fin 64 := 5
    ((s.core c).cmds.head?.toList : List (Cmd)).any fun m => ((sramAddr (m.arg 0) 256).toList).any fun a =>
    let h := s.tmplWord a 8
    let j := 0
    let x := up0
    let w := s.tmplWord a (0x10 + 16 * j)
    let base : Int := fld (m.arg (fld w 26 24)) 59 0
    decide ((s.matrixInHand c = some m) ∧ (s.matrixBad m a = false) ∧ (m.phase = 2) ∧ (m.sub = 2 + j) ∧ j < fld h 19 16)) = true) ∧
    (
    (
    let s : State := matrixAt 2 3
    let c : Fin 64 := 5
    ((s.core c).cmds.head?.toList : List (Cmd)).any fun m => ((sramAddr (m.arg 0) 256).toList).any fun a =>
    let h := s.tmplWord a 8
    decide ((s.matrixInHand c = some m) ∧ (s.matrixBad m a = false) ∧ (m.phase = 2) ∧ m.sub = 2 + fld h 19 16)) = true) := by
  refine ⟨?_, ?_, ?_, ?_⟩ <;> decide +kernel

def tl (i : Nat) (f : Tile → Tile) (s : State) : State := s.setTile i (f (s.tile i))
def pl0 (f : Plot → Plot) (s : State) : State := s.setPlot 0 (f (s.plot 0))
def run3 : Run := ⟨3, ref5 9, 0, false, false, false, 0, [], 0, 0, 0, true, [], false, false⟩
def landing (r : Nat) (t : TileCfg) : State := tl 1 (fun x => { x with incoming := [(⟨t, 4⟩, r == 0)] }) ((P.wrF .SEED_CTL 0 0 23 16 1).wrF .SEED_CFG_RING 0 0 3 0 r)

/-- A state and operands that meet the hypotheses of each clause of `SectionRowsComplete`. -/
theorem wit_SectionRowsComplete :
    (
    (
    let s : State := landing 0 TileCfg.idle
    let p : Fin 16 := 0
    let i : Fin 33792 := 1
    let j := 0
    let ecc : Ecc := Ecc.clean
    (((s.tile i).incoming).head?.toList).any fun e =>
    let xs := ((s.tile i).incoming).tail
    decide (((s.tile i).incoming = e :: xs) ∧ (s.plotOf i = some p.val) ∧ ((s.tile i).shadow = none) ∧ ((s.tile i).cfgLeft = []) ∧ ((i.val % 2 = 1 ∨
      mget dNat s.chf.tests (i / 2) = 0)) ∧ (ringGrant s.cfgRing s.arr.cfgPtr s.cfgAsks = some j) ∧ (s.cfgRing[j]? = some p.val) ∧ ecc = .clean)) =
      true) ∧
    (
    (
    let s : State := (fun (t : State) => (t.plotTiles 1).foldl (fun a i => tl i (fun x => { x with incoming := [(⟨TileCfg.idle, 4⟩, false)] }) a) t)
      (((landing 1 { TileCfg.idle with record := [1] }).wrF .SEED_CTL 0 0 8 8 1).wr .SEED_PLOT_BOUNDS 1 0 0x111)
    let p : Fin 16 := 0
    let i : Fin 33792 := 1
    let j := 0
    (((s.tile i).incoming).head?.toList).any fun e =>
    let xs := ((s.tile i).incoming).tail
    decide (((s.tile i).incoming = e :: xs) ∧ (s.plotOf i = some p.val) ∧ ((s.tile i).shadow = none) ∧ ((s.tile i).cfgLeft = []) ∧ ((i.val % 2 = 1 ∨
      mget dNat s.chf.tests (i / 2) = 0)) ∧ (ringGrant s.cfgRing s.arr.cfgPtr s.cfgAsks = some j) ∧ (s.cfgRing[j]? ≠ some p.val) ∧ (s.rdF .SEED_CTL 0
      0 8 8 = 1) ∧ (i.val % 2 = 1) ∧ e.1.cfg.record ≠ [])) = true) ∧
    (
    (
    let s : State := tl 1 (fun t => { t with shadow := some ⟨TileCfg.idle, 3⟩ }) (pl0 (fun x => { x with loads := [loadRec true] }) P)
    let p : Fin 16 := 0
    let i : Fin 33792 := 1
    (((s.tile i).shadow).toList).any fun sh => decide ((s.plotOf i = some p.val) ∧ (s.shadowArmed p i = true) ∧ (s.tileDone i = true) ∧ (s.preHeld p i
      = false) ∧ s.pwrHeld p i = false)) = true) ∧
    (
    let s : State := P
    let p : Fin 16 := 0
    let i : Fin 33792 := 1
    (s.plotOf i = some p.val) ∧ s.cfgWaits p i = true) ∧
    (
    (
    let s : State := pl0 (fun x => { x with runs := [{ run3 with status := 0x201 }] }) P
    let p : Fin 16 := 0
    let x := s.plot p
    ((x.runs.find? (fun r => decide (r.status ≠ 0))).toList).any fun r => decide (((∀ j ∈ s.plotTiles p, (s.tile j).aborting = true → s.tileDrained j
      = true)))) = true) ∧
    (
    let s : State := ((tl 1 (fun t => { t with epoch := 3 }) (pl0 (fun x => { x with runs := [{ run3 with closed := true }] }) P)).wrF .LNK_OSEL 1 12
      5 0 0x14).wrF .LNK_CRED 1 12 5 0 3
    let p : Fin 16 := 0
    let u : Fin 16896 := 0
    let x := s.plot p
    (s.plotOf (muInst u) = some p.val) ∧ ((s.tile (muInst u)).aborting = false) ∧ ((∃ r ∈ x.runs, r.epoch = (s.tile (muInst u)).epoch ∧ r.closed =
      true))) := by
  refine ⟨?_, ?_, ?_, ?_, ?_, ?_⟩ <;> decide +kernel

def heldRun : Run := { run3 with closed := true, cp := 1 }
def held0 : State := pl0 (fun x => { x with ended := some heldRun, pre := 1 }) (P.wr .SEED_PLOT_SAVEAREA 0 0 0x10000)
def held : State := (held0.plotTiles 0).foldl (fun a i => tl i (fun t => { t with epoch := 3 }) a) held0
def heldA : State := held.discardShadows 0
def heldImg : List Byte := saveImage (saveHeader 0 0 0 3 0) [] []
def go0 (s : State) : State := s.wr .SEED_PLOT_PREEMPT 0 0 0x8400000000000000

/-- A state and operands that meet the hypotheses of each clause of `PlotRowsComplete` (part 1). -/
theorem wit_PlotRowsComplete_a :
    (
    let s : State := up0
    let w : Agent := .firmware
    let p : Fin 16 := 0
    let v : BitVec 64 := 0x100
    (Allowed s w .SEED_PLOT_BOUNDS p 0) ∧ (s.hasp.wrq = []) ∧ (s.boundsBad p v = false) ∧ s.boundsHeld p v = false) ∧
    (
    let s : State := tl 1 (fun t => { t with active := { TileCfg.idle with record := [1] } }) (pl0 (fun x => { x with runs := [run3] }) P)
    let w : Agent := .firmware
    let p : Fin 16 := 0
    let v : BitVec 64 := 0x111
    let x := s.plot p
    (Allowed s w .SEED_PLOT_BOUNDS p 0) ∧ (s.hasp.wrq = []) ∧ (s.boundsBad p v = false) ∧ (s.boundsHeld p v = true) ∧ x.runs ≠ []) ∧
    (
    let s : State := P
    let w : Agent := .firmware
    let p : Fin 16 := 0
    (Allowed s w .SEED_PLOT_PREEMPT p 0) ∧ (s.rd .SEED_PLOT_PREEMPT p 0).getLsbD 63 = false) ∧
    (
    let s : State := go0 (pl0 (fun x => { x with pre := 1 }) P)
    let w : Agent := .firmware
    let p : Fin 16 := 0
    let x := s.plot p
    (Allowed s w .SEED_PLOT_PREEMPT p 0) ∧ ((s.rd .SEED_PLOT_PREEMPT p 0).getLsbD 63 = true) ∧ (x.pre = 1) ∧ x.preStat = 0) ∧
    (
    let s : State := up0
    let w : Agent := .firmware
    Allowed s w .SEED_LOAD_FAULT 0 0) ∧
    (
    let s : State := pl0 (fun x => { x with remapPending := true }) P
    let p : Fin 16 := 0
    let x := s.plot p
    (x.remapPending = true) ∧ (x.preStat = 0) ∧ (x.ended = none) ∧ x.forced = false) := by
  refine ⟨?_, ?_, ?_, ?_, ?_, ?_⟩ <;> decide +kernel

/-- A state and operands that meet the hypotheses of each clause of `PlotRowsComplete` (part 2). -/
theorem wit_PlotRowsComplete_b :
    (
    let s : State := ((P.wrF .CHF_STATUS 0 0 16 0 1).wrF .CHF_FMAP_A 0 0 63 63 1).wrF .CHF_FMAP_A 0 0 59 56 1
    ((∀ q ∈ List.range 16, s.remapReady q = true)) ∧ s.remapTarget ≠ s.rd .SEED_REMAP 0 0) ∧
    (
    let s : State := pl0 (fun x => { x with preStat := 5 }) P
    let p : Fin 16 := 0
    let x := s.plot p
    x.preStat = 5) ∧
    (
    let s : State := pl0 (fun x => { x with preStat := 7 }) P
    let p : Fin 16 := 0
    let x := s.plot p
    (x.preStat = 7) ∧ s.areaContent p = none) ∧
    (
    let s : State := pl0 (fun x => { x with pre := 1, deadline := 9 }) P
    let p : Fin 16 := 0
    let x := s.plot p
    (x.pre = 1) ∧ (x.deadline ≠ 0) ∧ (x.preStat = 0) ∧ x.ended = none) := by
  refine ⟨?_, ?_, ?_, ?_⟩ <;> decide +kernel

theorem saveHeader_length (p cp : Nat) (sec : Word) (ep : Byte) (n : Nat) : (saveHeader p cp sec ep n).length = 32 := by
  simp [saveHeader, natToBytes_length]

theorem saveImage_eq (h : List Byte) : ∃ z, z.length = 0xFF00 ∧ saveImage h [] [] = h ++ sha256 (h ++ z) ++ List.replicate 0xC0 0 ++ z := by
  refine ⟨List.replicate 0xFF00 0, List.length_replicate, ?_⟩
  simp only [saveImage, List.nil_append, List.append_nil, List.length_nil, Nat.sub_zero]

theorem saveImage_length (h : List Byte) (hh : h.length = 32) : (saveImage h [] []).length = 65536 := by
  obtain ⟨z, hz, e⟩ := saveImage_eq h
  rw [e]
  simp only [List.length_append, sha256_length, List.length_replicate, hh, hz]

/-- The digest of a save area's image covers what its reader hashes. -/
theorem saveImage_digest (h : List Byte) (hh : h.length = 32) :
    sha256 ((saveImage h [] []).take 32 ++ (saveImage h [] []).drop 0x100 ++ []) = ((saveImage h [] []).drop 32).take 32 := by
  obtain ⟨z, hz, e⟩ := saveImage_eq h
  have h1 : (h ++ sha256 (h ++ z) ++ List.replicate 0xC0 0 ++ z).take 32 = h := by
    rw [List.append_assoc, List.append_assoc, ← hh, List.take_left]
  have h2 : (h ++ sha256 (h ++ z) ++ List.replicate 0xC0 0 ++ z).drop 0x100 = z := by
    have : (h ++ sha256 (h ++ z) ++ List.replicate 0xC0 0).length = 0x100 := by
      simp only [List.length_append, sha256_length, List.length_replicate, hh]
    rw [← this, List.drop_left]
  have h3 : ((h ++ sha256 (h ++ z) ++ List.replicate 0xC0 0 ++ z).drop 32).take 32 = sha256 (h ++ z) := by
    rw [List.append_assoc, List.append_assoc, ← hh, List.drop_left, hh, ← sha256_length (h ++ z), List.take_left]
  rw [e, h1, h2, h3, List.append_nil]

/-- A state that meets the hypotheses of the clause of `PlotRowsComplete` on PLOT_HELD_SAVE. -/
theorem wit_PlotRowsComplete_held : ∃ b,
    ((held.plot 0).ended = some heldRun ∧ (held.plot 0).preStat = 0) ∧
    (∀ j ∈ held.plotTiles 0, (held.tile j).epoch = heldRun.epoch ∧ held.tileDone j = true ∧ (j % 2 = 1 → ∀ g ∈ List.range 4, (held.gen (j / 2) g).reqs = [])) ∧
    heldRun.kLive = false ∧ heldImg = saveImage (saveHeader 0 (heldRun.cp - 1) heldRun.secId heldRun.epoch 0) [] [] ∧
    heldA.readRanges heldRun.live = some [] ∧ heldImg.length ≤ heldA.areaSize 0 ∧ heldA.put (.plot 0) (heldA.areaBase 0) heldImg false = .ok b := by
  have hl : heldImg.length = 65536 := saveImage_length _ (saveHeader_length ..)
  refine ⟨_, by decide +kernel, by decide +kernel, rfl, rfl, by decide +kernel, ?_, put_ok (l := .silo 0x10000) ?_ ?_⟩
  · rw [hl]; decide +kernel
  · rw [hl]; decide +kernel
  · rw [hl]; decide +kernel

/-- A save area at silo address 0x10000 whose sheaf, at 0x100000, names no live range. -/
def sheaf0 : List Byte :=
  natToBytes 4 0x31464853 ++ [0, 1, 0, 0] ++ natToBytes 8 4096 ++ natToBytes 4 1 ++ natToBytes 4 0 ++ natToBytes 4 1 ++ natToBytes 4 0 ++
    natToBytes 8 0x800 ++ natToBytes 8 0x800 ++ natToBytes 8 0x7C0
def areaS0 : State := (pl0 (fun x => { x with preStat := 7, sheaf := 0x100000 }) (P.wr .SEED_PLOT_SAVEAREA 0 0 0x10000)).store .silo 0x100000 sheaf0
def areaS : State := areaS0.store .silo 0x10000 heldImg
theorem heldImg_length : heldImg.length = 65536 := saveImage_length _ (saveHeader_length ..)
theorem areaS_far : areaS.load .silo 0x100000 4096 = areaS0.load .silo 0x100000 4096 := by
  refine List.map_congr_left fun k hk => ?_
  have hl := heldImg_length
  rw [List.mem_range] at hk
  rw [areaS, byteAt_store, if_neg (by rw [hl]; omega)]
theorem areaS_area : areaS.fetch (.plot 0) (areaS.areaBase 0) 0x10000 false = .ok heldImg := by
  rw [fetch_ok (l := .silo 0x10000) (by decide +kernel) (by decide +kernel)]
  have := load_store areaS0 .silo 0x10000 heldImg
  rw [heldImg_length] at this
  exact congrArg Except.ok this
theorem areaS_head : areaS.fetch (.plot 0) 0x100000 4096 false = .ok (areaS0.load .silo 0x100000 4096) := by
  rw [fetch_ok (l := .silo 0x100000) (by decide +kernel) (by decide +kernel)]
  exact congrArg Except.ok areaS_far
theorem readSheaf_ok {s : State} {p a : Nat} {h : List Byte} (e : s.fetch (.plot p) a 4096 false = .ok h) (b : headerBad h = none)
    (c : le h 8 8 = 4096) : s.readSheaf p a = .ok h := by
  unfold State.readSheaf
  rw [e]
  show (if (headerBad h).isSome = true then Except.ok h else s.fetch (.plot p) a (le h 8 8) false) = _
  rw [if_neg (by rw [b]; exact Bool.false_ne_true), c, e]
theorem areaS_sheaf : areaS.readSheaf 0 (areaS.plot 0).sheaf = .ok (areaS0.load .silo 0x100000 4096) := by
  have a : (areaS.plot 0).sheaf = 0x100000 := by decide +kernel
  rw [a]
  exact readSheaf_ok areaS_head (by decide +kernel) (by decide +kernel)
theorem areaS_data : areaS.fetch (.plot 0) (areaS.areaBase 0 + 0x10000) 0 false = .ok [] := by
  rw [fetch_ok (l := .silo 0x20000) (by decide +kernel) (by decide +kernel)]
  exact congrArg Except.ok (List.eq_nil_of_length_eq_zero (readLoc_length ..))
theorem areaContent_ok {s : State} {p : Nat} {h img : List Byte} (f1 : s.fetch (.plot p) (s.areaBase p) 0x10000 false = .ok h)
    (f3 : s.readSheaf p (s.plot p).sheaf = .ok img) (g1 : le h 24 8 = 0) (g2 : le h 4 4 = 0) (g3 : liveAt img 0 = [])
    (g4 : ¬((headerBad img).isSome = true ∨ le h 0 4 ≠ p ∨ 0 ≥ le img 0x18 2 ∨ le h 8 8 ≠ le img 0x50 8 ∨ 0 ≠ liveBytes ([] : List (Nat × Nat × Nat))))
    (f4 : s.fetch (.plot p) (s.areaBase p + 0x10000) 0 false = .ok [])
    (g5 : (sha256 (h.take 32 ++ h.drop 0x100 ++ []) == (h.drop 32).take 32) = true) : ∃ kb, s.areaContent p = some ([], kb, []) := by
  refine ⟨if kLiveAt img 0 = true then some ((h.drop 0x100).take 256) else none, ?_⟩
  unfold State.areaContent
  simp only [f1, f3, g1, g2, g3, if_neg g4, f4, g5, List.all_nil, Bool.and_self, if_true]
/-- A state that meets the hypotheses of the clause of `PlotRowsComplete` on a restore whose area holds a save. -/
theorem wit_PlotRowsComplete_restore : (areaS.plot 0).preStat = 7 ∧ ∃ kb, areaS.areaContent 0 = some ([], kb, []) := by
  refine ⟨by decide +kernel, areaContent_ok areaS_area areaS_sheaf (by decide +kernel) (by decide +kernel) (by decide +kernel) (by decide +kernel)
    areaS_data ?_⟩
  rw [heldImg, saveImage_digest _ (saveHeader_length ..)]
  exact beq_self_eq_true _


def descOf (addr kind esz scalar dir buf n : Nat) : BitVec 512 :=
  BitVec.ofNat 512 (addr + kind * 2 ^ 80 + esz * 2 ^ 83 + scalar * 2 ^ 89 + dir * 2 ^ 90 + buf * 2 ^ 92 + (n - 1) * 2 ^ 272 + 4 * 2 ^ esz * 2 ^ 352)
def str1 (d : BitVec 512) (s : State) : State := s.setGen 0 1 { s.gen 0 1 with active := some (Stream.start d none), st := 2 }
def req1 : BinReq := ⟨7, 0, 0, 8, 0x40, 1, false, 0, 2, [], 0, none⟩

/-- A state and operands that meet the hypotheses of each clause of `StreamRowsComplete` (part 1). -/
theorem wit_StreamRowsComplete_a :
    (
    (
    let s : State := P.setGen 0 1 { Gen.reset with queued := some (Stream.start 0 none) }
    let u : Fin 16896 := 0
    let g : Fin 4 := 1
    ((s.gen u g).queued.toList : List (Stream)).any fun x =>
    let k := s.gen u g
    decide ((k.active = none) ∧ k.queued = some x)) = true) ∧
    (
    (
    let s : State := (str1 (descOf 0x100 0 0 1 2 0 8) P).wrF .LNK_CRED 1 6 5 0 3
    let u : Fin 16896 := 0
    let g : Fin 4 := 1
    ((s.gen u g).active.toList : List (Stream)).any fun x =>
    let rivals : List BankReq := []
    let k := s.gen u g
    let d : Desc := x.desc
    let b := d.binByte x.pos
    let i := muInst u
    let v := s.slotAt u (b / 64)
    let last := x.pos + 1 = d.total
    let leaves := d.scalar = true ∨ x.packB.length + d.esize = 64 ∨ d.runEnd x.pos = true ∨ last
    let moves := k.active = some x ∧ (s.tile i).aborting = false ∧ s.throttled = false ∧ x.pos < d.total
    decide ((moves) ∧ (d.kind = 0) ∧ ((leaves → s.canRead u d = true)) ∧ (d.whole x.pos = false) ∧ (s.tagCheck u v false = .go) ∧ (s.bankWins u
      (bankOf b) g rivals = true) ∧ ((∀ q, q < d.esize / 4 → mget dFalse s.mem.pBin (u * 0x10000 + b / 4 + q) = false)))) = true) ∧
    (
    (
    let s : State := (str1 (descOf 0x100 0 0 1 2 0 8) P).wrF .LNK_CRED 1 6 5 0 3
    let u : Fin 16896 := 0
    let g : Fin 4 := 1
    ((s.gen u g).active.toList : List (Stream)).any fun x =>
    let rivals : List BankReq := [BankReq.config]
    let k := s.gen u g
    let d : Desc := x.desc
    let b := d.binByte x.pos
    let i := muInst u
    let v := s.slotAt u (b / 64)
    let last := x.pos + 1 = d.total
    let leaves := d.scalar = true ∨ x.packB.length + d.esize = 64 ∨ d.runEnd x.pos = true ∨ last
    let moves := k.active = some x ∧ (s.tile i).aborting = false ∧ s.throttled = false ∧ x.pos < d.total
    decide ((moves) ∧ (d.kind = 0) ∧ (d.whole x.pos = false) ∧ ((leaves → s.canRead u d = true)) ∧ (s.tagCheck u v false = .go) ∧ s.bankWins u (bankOf
      b) g rivals = false)) = true) ∧
    (
    (
    let s : State := tl 1 (fun t => { t with queues := [(27, [⟨.scalar 7, false, 0, 0⟩])] }) (str1 (descOf 0x100 1 0 1 2 0 8) P)
    let u : Fin 16896 := 0
    let g : Fin 4 := 1
    ((s.gen u g).active.toList : List (Stream)).any fun x =>
    let rivals : List BankReq := []
    let k := s.gen u g
    let d : Desc := x.desc
    let b := d.binByte x.pos
    let i := muInst u
    let v := s.slotAt u (b / 64)
    let beat := match x.taken with | some (bt, n) => (natToBytes 64 bt.toNat, n) | none => payloadBytes d (((s.tile i).head (21 + d.dir + (if d.scalar
      then 4 else 0))).getD .eos)
    let used := if x.taken = none then 0 else x.packV
    let writes := used < beat.2 ∧ ∃ j, j < d.esize ∧ d.tailByte x.pos j = false
    let moves := k.active = some x ∧ (s.tile i).aborting = false ∧ s.throttled = false ∧ x.pos < d.total
    decide ((moves) ∧ (d.kind = 1) ∧ ((x.taken ≠ none ∨ (s.tile i).headData (21 + d.dir + (if d.scalar then 4 else 0)) = true)) ∧ ((s.tagCheck u v
      true = TagCheck.go ∧ s.bankWins u (bankOf b) g rivals = true)))) = true) ∧
    (
    let s : State := P.setGen 0 1 { Gen.reset with epoch := 5, reqs := [{ req1 with epoch := 2 }] }
    let u : Fin 16896 := 0
    let g : Fin 4 := 1
    let k := s.gen u g
    (∀ r ∈ k.reqs, (k.epoch - r.epoch).toNat < 4)) ∧
    (
    let s : State := (str1 0 P).setGen 0 1 { (str1 0 P).gen 0 1 with ttl := 2 ^ 20 }
    let u : Fin 16896 := 0
    let g : Fin 4 := 1
    let k := s.gen u g
    (k.st = 2) ∧ s.slotLimit u ≤ k.ttl) := by
  refine ⟨?_, ?_, ?_, ?_, ?_, ?_⟩ <;> decide +kernel

/-- A state and operands that meet the hypotheses of each clause of `StreamRowsComplete` (part 2). -/
theorem wit_StreamRowsComplete_b :
    (
    (
    let s : State := pl0 (fun x => { x with faults := [0x20103] }) P
    let p : Fin 16 := 0
    (((s.plot p).faults).head?.toList).any fun f =>
    let fs := ((s.plot p).faults).tail
    decide ((s.plot p).faults = f :: fs)) = true) ∧
    (
    let g : Nat := 1
    let h := 0
    h ≠ g) ∧
    (
    let u : Nat := 0
    let v := 1
    v ≠ u) := by
  refine ⟨?_, ?_, ?_⟩ <;> decide +kernel

def ring0 (addr kind pos : Nat) : State :=
  let s := (P.wr .MU_BUF 0 0 0x8000000000000000).wrF .MU_BUF 0 0 63 62 2
  s.setGen 0 1 { Gen.reset with active := some { Stream.start (descOf addr kind 0 0 0 0 8) none with pos := pos, visit := 1 } }
/-- A FETCH of chip 1 in a plot whose slice context is 3. -/
def farS : State := (ring0 (2 ^ 48 + 0x20000) 2 0).wr .HSP_PLOT_A 0 0 (BitVec.ofNat 64 (2 ^ 63 + 3 * 2 ^ 56)) |>.wr .HAY_CTX 3 0 (2 ^ 63)
def reqs1 (r : BinReq) (ep : Byte) : State := P.setGen 0 1 { Gen.reset with
  reqs := [r], epoch := ep, active := some (Stream.start (descOf 0x20000 2 0 0 0 0 8) none) }

/-- A state and operands that meet the hypotheses of each clause of `FetchAndFlushRowsComplete` (part 1). -/
theorem wit_FetchAndFlushRowsComplete_a :
    (
    (
    let s : State := ring0 0x20000 2 0
    let u : Fin 16896 := 0
    let g : Fin 4 := 1
    ((s.gen u g).active.toList : List (Stream)).any fun x =>
    let k := s.gen u g
    let d : Desc := x.desc
    let i := muInst u
    let plot := Who.plot (s.streamPlot u)
    let ga := d.globalAddr x.pos
    let la := ga % 2 ^ 48
    let v := s.ringVisit u d.buf true
    let n := mergeCount d x.pos (s.slotBytes u d.buf - x.vbytes)
    let len := (n - 1) * d.esize + d.realLen (x.pos + n - 1)
    let fetches := k.active = some x ∧ d.kind = 2 ∧ (s.tile i).aborting = false ∧ x.pos < d.total ∧ (x.visit ≠ 0 ∨ s.tagCheck u v true = .go)
    ((s.resolve plot la len false false true).toOption.toList).any fun l => decide ((fetches) ∧ (d.whole x.pos = false) ∧ (k.reqs.length < 1024) ∧ ga
      / 2 ^ 48 = s.chip)) = true) ∧
    (
    (
    let s : State := farS
    let u : Fin 16896 := 0
    let g : Fin 4 := 1
    ((s.gen u g).active.toList : List (Stream)).any fun x =>
    let k := s.gen u g
    let d : Desc := x.desc
    let i := muInst u
    let ga := d.globalAddr x.pos
    let v := s.ringVisit u d.buf true
    let n := mergeCount d x.pos (s.slotBytes u d.buf - x.vbytes)
    let len := (n - 1) * d.esize + d.realLen (x.pos + n - 1)
    let fetches := k.active = some x ∧ d.kind = 2 ∧ (s.tile i).aborting = false ∧ x.pos < d.total ∧ (x.visit ≠ 0 ∨ s.tagCheck u v true = .go)
    let s0 := up0
    decide ((fetches) ∧ (d.whole x.pos = false) ∧ (k.reqs.length < 1024) ∧ ga / 2 ^ 48 ≠ s.chip)) = true) ∧
    (
    (
    let s : State := ring0 (0x20000 + 2 ^ 218) 2 0
    let u : Fin 16896 := 0
    let g : Fin 4 := 1
    ((s.gen u g).active.toList : List (Stream)).any fun x =>
    let k := s.gen u g
    let d : Desc := x.desc
    let i := muInst u
    let v := s.ringVisit u d.buf true
    let fetches := k.active = some x ∧ d.kind = 2 ∧ (s.tile i).aborting = false ∧ x.pos < d.total ∧ (x.visit ≠ 0 ∨ s.tagCheck u v true = .go)
    decide ((fetches) ∧ d.whole x.pos = true)) = true) ∧
    (
    (
    let s : State := reqs1 req1 1
    let u : Fin 16896 := 0
    let g : Fin 4 := 1
    let req : Nat := 7
    let e : Byte := 0
    ((s.gen u g).reqs : List (BinReq)).any fun r =>
    let res : Resp := Resp.data (List.replicate 8 1)
    let k := s.gen u g
    let found := k.reqs.find? (fun q => decide (q.id = req ∧ q.epoch = e ∧ q.data = [])) = some r
    let bs := List.replicate 8 1
    decide ((found) ∧ (e ≠ k.epoch) ∧ r.answer res = .data bs)) = true) ∧
    (
    (
    let s : State := reqs1 req1 0
    let u : Fin 16896 := 0
    let g : Fin 4 := 1
    ((s.gen u g).active.toList : List (Stream)).any fun x =>
    let req : Nat := 7
    let e : Byte := 0
    ((s.gen u g).reqs : List (BinReq)).any fun r =>
    let res : Resp := Resp.data (List.replicate 8 1)
    let rivals : List BankReq := []
    let k := s.gen u g
    let d : Desc := x.desc
    let plot := Who.plot (s.streamPlot u)
    let v := s.ringVisit u d.buf true
    let dest := s.visitWord u v * 64 + x.vbytes
    let n := mergeCount d x.pos (s.slotBytes u d.buf - x.vbytes)
    let len := (n - 1) * d.esize + d.realLen (x.pos + n - 1)
    let found := k.reqs.find? (fun q => decide (q.id = req ∧ q.epoch = e ∧ q.data = [])) = some r
    let brings := fun (bs : List Byte) => r.answer res = .data bs ∨ (r.answer res = .ok ∧ r.addr / 2 ^ 48 = s.chip ∧ s.streamWindow u r.addr r.len
      false = none ∧ ∃ l, s.locate plot (r.addr % 2 ^ 48) r.len = .ok l ∧ s.media (r.addr % 2 ^ 48) l r.len false = 0 ∧ bs = s.readLoc (r.addr % 2 ^
      48) l r.len)
    let bs := List.replicate 8 1
    decide ((found) ∧ (e = k.epoch) ∧ (k.active = some x) ∧ (r.repeated = false) ∧ (r.answer res = .data bs) ∧ (∀ b ∈ banksOf r.dest (r.n * d.esize),
      s.bankWins u b 4 rivals = true))) = true) ∧
    (
    (
    let s : State := reqs1 req1 0
    let u : Fin 16896 := 0
    let g : Fin 4 := 1
    ((s.gen u g).active.toList : List (Stream)).any fun x =>
    let req : Nat := 7
    let e : Byte := 0
    ((s.gen u g).reqs : List (BinReq)).any fun r =>
    let res : Resp := Resp.data (List.replicate 8 1)
    let rivals : List BankReq := [BankReq.writeBack]
    let k := s.gen u g
    let d : Desc := x.desc
    let plot := Who.plot (s.streamPlot u)
    let v := s.ringVisit u d.buf true
    let dest := s.visitWord u v * 64 + x.vbytes
    let n := mergeCount d x.pos (s.slotBytes u d.buf - x.vbytes)
    let len := (n - 1) * d.esize + d.realLen (x.pos + n - 1)
    let found := k.reqs.find? (fun q => decide (q.id = req ∧ q.epoch = e ∧ q.data = [])) = some r
    let brings := fun (bs : List Byte) => r.answer res = .data bs ∨ (r.answer res = .ok ∧ r.addr / 2 ^ 48 = s.chip ∧ s.streamWindow u r.addr r.len
      false = none ∧ ∃ l, s.locate plot (r.addr % 2 ^ 48) r.len = .ok l ∧ s.media (r.addr % 2 ^ 48) l r.len false = 0 ∧ bs = s.readLoc (r.addr % 2 ^
      48) l r.len)
    let bs := List.replicate 8 1
    (((banksOf r.dest (r.n * d.esize)).find? (fun c => !s.bankWins u c 4 rivals)).toList).any fun b => decide ((found) ∧ (e = k.epoch) ∧ (k.active =
      some x) ∧ r.answer res = .data bs)) = true) := by
  refine ⟨?_, ?_, ?_, ?_, ?_, ?_⟩ <;> decide +kernel

/-- A state and operands that meet the hypotheses of each clause of `FetchAndFlushRowsComplete` (part 2). -/
theorem wit_FetchAndFlushRowsComplete_b :
    (
    (
    let s : State := reqs1 req1 0
    let u : Fin 16896 := 0
    let g : Fin 4 := 1
    let req : Nat := 7
    let e : Byte := 0
    ((s.gen u g).reqs : List (BinReq)).any fun r =>
    let res : Resp := Resp.error
    let k := s.gen u g
    let found := k.reqs.find? (fun q => decide (q.id = req ∧ q.epoch = e ∧ q.data = [])) = some r
    decide ((found) ∧ (e = k.epoch) ∧ (r.answer res = .error) ∧ r.repeated = false)) = true) ∧
    (
    (
    let s : State := reqs1 { req1 with repeated := true } 0
    let u : Fin 16896 := 0
    let g : Fin 4 := 1
    let req : Nat := 7
    let e : Byte := 0
    ((s.gen u g).reqs : List (BinReq)).any fun r =>
    let res : Resp := Resp.error
    let k := s.gen u g
    let found := k.reqs.find? (fun q => decide (q.id = req ∧ q.epoch = e ∧ q.data = [])) = some r
    decide ((found) ∧ (e = k.epoch) ∧ (r.answer res = .error) ∧ r.repeated = true)) = true) ∧
    (
    (
    let s : State := ring0 0x20000 3 0
    let u : Fin 16896 := 0
    let g : Fin 4 := 1
    ((s.gen u g).active.toList : List (Stream)).any fun x =>
    let rivals : List BankReq := []
    let k := s.gen u g
    let d : Desc := x.desc
    let i := muInst u
    let plot := Who.plot (s.streamPlot u)
    let ga := d.globalAddr x.pos
    let la := ga % 2 ^ 48
    let src := s.visitWord u (s.ringVisit u d.buf false) * 64 + x.vbytes
    let runs := runsOf ((List.range d.esize).filter fun j => !d.tailByte x.pos j)
    decide ((k.active = some x) ∧ (d.kind = 3) ∧ ((s.tile i).aborting = false) ∧ (s.throttled = false) ∧ (x.pos < d.total) ∧ ((x.visit ≠ 0 ∨
      s.tagCheck u (s.ringVisit u d.buf false) false = .go)) ∧ (k.reqs.length + runs.length ≤ 1024) ∧ (s.bankWins u (bankOf src) g rivals = true) ∧
      (ga / 2 ^ 48 = s.chip) ∧ (la + d.esize ≤ 0xA000000000) ∧ ((∀ q, q < d.esize / 4 → mget dFalse s.mem.pBin (u * 0x10000 + src / 4 + q) = false)) ∧
      ((∀ p ∈ runs, s.siloOk plot (la + p.1) p.2 true false = true ∧ s.media (la + p.1) (.silo (la + p.1)) p.2 true = 0)))) = true) ∧
    (
    (
    let s : State := reqs1 { req1 with data := [1] } 1
    let u : Fin 16896 := 0
    let g : Fin 4 := 1
    let req : Nat := 7
    let e : Byte := 0
    ((s.gen u g).reqs : List (BinReq)).any fun r =>
    let k := s.gen u g
    let sent := k.reqs.find? (fun q => decide (q.id = req ∧ q.epoch = e ∧ q.data ≠ [])) = some r
    decide ((sent) ∧ e ≠ k.epoch)) = true) ∧
    (
    (
    let s : State := reqs1 { req1 with data := [1] } 0
    let u : Fin 16896 := 0
    let g : Fin 4 := 1
    let req : Nat := 7
    let e : Byte := 0
    ((s.gen u g).reqs : List (BinReq)).any fun r =>
    let res : Resp := Resp.ok
    let k := s.gen u g
    let sent := k.reqs.find? (fun q => decide (q.id = req ∧ q.epoch = e ∧ q.data ≠ [])) = some r
    decide ((sent) ∧ (e = k.epoch) ∧ (r.repeated = false) ∧ (r.nack = 0) ∧ r.answer res = .ok)) = true) ∧
    (
    (
    let s : State := reqs1 { req1 with data := [1] } 0
    let u : Fin 16896 := 0
    let g : Fin 4 := 1
    let req : Nat := 7
    let e : Byte := 0
    ((s.gen u g).reqs : List (BinReq)).any fun r =>
    let res : Resp := Resp.error
    let k := s.gen u g
    let sent := k.reqs.find? (fun q => decide (q.id = req ∧ q.epoch = e ∧ q.data ≠ [])) = some r
    decide ((sent) ∧ (e = k.epoch) ∧ (r.repeated = false) ∧ (r.nack = 0) ∧ r.answer res = .error)) = true) := by
  refine ⟨?_, ?_, ?_, ?_, ?_, ?_⟩ <;> decide +kernel

/-- A state and operands that meet the hypotheses of each clause of `FetchAndFlushRowsComplete` (part 3). -/
theorem wit_FetchAndFlushRowsComplete_c :
    (
    (
    let s : State := reqs1 { req1 with data := [1] } 0
    let u : Fin 16896 := 0
    let g : Fin 4 := 1
    let req : Nat := 7
    let e : Byte := 0
    ((s.gen u g).reqs : List (BinReq)).any fun r =>
    let res : Resp := Resp.refused 2
    let k := s.gen u g
    let sent := k.reqs.find? (fun q => decide (q.id = req ∧ q.epoch = e ∧ q.data ≠ [])) = some r
    let st := (2 : BitVec 16)
    decide ((sent) ∧ (e = k.epoch) ∧ (r.nack = 0) ∧ r.answer res = .refused st)) = true) := by decide +kernel

/-- A remote request of a plot with a slice context is sent while a tag is free, whichever tag the free value takes. -/
theorem gwSend_ok (s : State) (p u g req addr len : Nat) (d : Option (List Byte)) (h : (s.plotSlice p).isSome = true) (ht : s.freeTags.isEmpty = false) :
    ∃ t, s.gwSend p u g req addr len d = .ok (some t) := by
  obtain ⟨sl, hs⟩ := Option.isSome_iff_exists.mp h
  unfold State.gwSend
  rw [hs]
  cases e : s.freeTags with
  | nil => rw [e] at ht; exact absurd ht (by decide)
  | cons c cs => exact ⟨_, rfl⟩
theorem wit_FetchAndFlushRowsComplete_remote : ∃ t, farS.gwSend (farS.streamPlot 0) 0 1 (farS.mu 0).nextReq (2 ^ 48 + 0x20000) 32 none = .ok (some t) :=
  gwSend_ok _ _ _ _ _ _ _ _ (by decide +kernel) (by decide +kernel)

def winOpen (bits : Nat) (f : Mu → Mu) : State := (P.wr .MU_WIN 3 2 (BitVec.ofNat 64 (bits * 2 ^ 60 + 7 * 2 ^ 32 + 0x1 * 2 ^ 16 + 1))).setMu 3 (f (P.mu 3))
def xf (p : Payload) : Xfer := ⟨p, false, 6 * 32 + 12, 0⟩
def joinS (k : BitVec 16) : State := tl 6 (fun t => { t with queues := [(32, [xf (.scalar 5)]), (33, [xf (.token k)])] }) (P.wr .LNK_JOIN 6 1 0x4504)
def flying (o : Nat) : State := tl 6 (fun t => { t with flight := [(o, [xf (.scalar 5)])] }) P

/-- A state and operands that meet the hypotheses of each clause of `RemoteWindowAndLinkRowsComplete` (part 1). -/
theorem wit_RemoteWindowAndLinkRowsComplete_a :
    (
    let s : State := winOpen 12 id
    let u : Fin 16896 := 3
    let q : Sender := .firmware
    let n : Fin 8 := 2
    let gen : BitVec 16 := 7
    let off : BitVec 18 := 0x40
    let bs : List Byte := [1, 2]
    let x := s.rd .MU_WIN u n
    let inside := fun (len : Nat) => fld x 11 0 * 64 ≤ off.toNat ∧ off.toNat + len ≤ (fld x 11 0 + fld x 27 16 + 1) * 64
    let open_ := s.senderOk u q = true ∧ x.getLsbD 63 = true ∧ gen.toNat = fld x 47 32
    (open_) ∧ (inside bs.length) ∧ x.getLsbD 62 = true) ∧
    (
    let s : State := winOpen 10 id
    let u : Fin 16896 := 3
    let q : Sender := .firmware
    let n : Fin 8 := 2
    let gen : BitVec 16 := 7
    let off : BitVec 18 := 0x40
    let k : Nat := 8
    let rv : List BankReq := []
    let x := s.rd .MU_WIN u n
    let inside := fun (len : Nat) => fld x 11 0 * 64 ≤ off.toNat ∧ off.toNat + len ≤ (fld x 11 0 + fld x 27 16 + 1) * 64
    let open_ := s.senderOk u q = true ∧ x.getLsbD 63 = true ∧ gen.toNat = fld x 47 32
    (open_) ∧ (inside k) ∧ (x.getLsbD 61 = true) ∧ (k ≤ 8) ∧ (∀ b ∈ banksOf off.toNat k, s.bankWins u b 5 rv = true)) ∧
    (
    (
    let s : State := winOpen 10 id
    let u : Fin 16896 := 3
    let q : Sender := .firmware
    let n : Fin 8 := 2
    let gen : BitVec 16 := 7
    let off : BitVec 18 := 0x40
    let k : Nat := 8
    let rv : List BankReq := [BankReq.writeBack]
    let x := s.rd .MU_WIN u n
    let inside := fun (len : Nat) => fld x 11 0 * 64 ≤ off.toNat ∧ off.toNat + len ≤ (fld x 11 0 + fld x 27 16 + 1) * 64
    let open_ := s.senderOk u q = true ∧ x.getLsbD 63 = true ∧ gen.toNat = fld x 47 32
    (((banksOf off.toNat k).find? (fun c => !s.bankWins u c 5 rv)).toList).any fun b => decide ((open_) ∧ (inside k) ∧ x.getLsbD 61 = true)) = true) ∧
    (
    let s : State := winOpen 12 id
    let u : Fin 16896 := 3
    let q : Sender := .firmware
    let n : Fin 8 := 2
    let gen : BitVec 16 := 8
    let off : BitVec 18 := 0x40
    let bs : List Byte := [1, 2]
    let k : Nat := 0
    let x := s.rd .MU_WIN u n
    let inside := fun (len : Nat) => fld x 11 0 * 64 ≤ off.toNat ∧ off.toNat + len ≤ (fld x 11 0 + fld x 27 16 + 1) * 64
    let acc : WinAcc := WinAcc.write [1, 2]
    let len : Nat := 2
    let perm : Bool := true
    ((acc = .write bs ∧ len = bs.length ∧ perm = x.getLsbD 62) ∨ (acc = .read k ∧ len = k ∧ perm = x.getLsbD 61)) ∧ (s.senderOk u q = true) ∧
      ((x.getLsbD 63 = false ∨ gen.toNat ≠ fld x 47 32 ∨ ¬ inside len))) ∧
    (
    let s : State := winOpen 10 id
    let u : Fin 16896 := 3
    let q : Sender := .firmware
    let n : Fin 8 := 2
    let gen : BitVec 16 := 7
    let off : BitVec 18 := 0x40
    let bs : List Byte := [1, 2]
    let k : Nat := 0
    let x := s.rd .MU_WIN u n
    let inside := fun (len : Nat) => fld x 11 0 * 64 ≤ off.toNat ∧ off.toNat + len ≤ (fld x 11 0 + fld x 27 16 + 1) * 64
    let open_ := s.senderOk u q = true ∧ x.getLsbD 63 = true ∧ gen.toNat = fld x 47 32
    let acc : WinAcc := WinAcc.write [1, 2]
    let len : Nat := 2
    let perm : Bool := false
    ((acc = .write bs ∧ len = bs.length ∧ perm = x.getLsbD 62) ∨ (acc = .read k ∧ len = k ∧ perm = x.getLsbD 61)) ∧ ((s.senderOk u q = false ∨ (open_
      ∧ inside len ∧ perm = false)))) ∧
    (
    let s : State := winOpen 12 id
    let w : Agent := .firmware
    let u : Fin 16896 := 3
    let n : Fin 8 := 2
    let x := s.rd .MU_WIN u n
    (Allowed s w .MU_WIN u n) ∧ x.getLsbD 63 = true) := by
  refine ⟨?_, ?_, ?_, ?_, ?_, ?_⟩ <;> decide +kernel

/-- A state and operands that meet the hypotheses of each clause of `RemoteWindowAndLinkRowsComplete` (part 2). -/
theorem wit_RemoteWindowAndLinkRowsComplete_b :
    (
    let s : State := winOpen 4 fun m => { m with wins := [⟨2, 0x40, [1, 2]⟩], closing := [⟨2, 0⟩] }
    let u : Fin 16896 := 3
    let n : Fin 8 := 2
    let off : BitVec 18 := 0x40
    let bs : List Byte := [1, 2]
    let b := 0
    ((s.mu u).wins = [⟨n, off.toNat, bs⟩]) ∧ (s.mu u).closing = [⟨n.val, b⟩]) ∧
    (
    let s : State := P
    let w : Agent := .firmware
    let u : Fin 16896 := 3
    Allowed s w .MU_SLOTFAULT u 0) ∧
    (
    (
    let s : State := flying 12
    let i : Fin 33792 := 6
    let o : Fin 18 := 12
    let t := s.tile i
    (((s.routeOf i o).ends.map (·.1))).any fun e => (((s.routeOf i o).ends.map (·.2))).any fun q =>
    let thru := (s.routeOf i o).thru
    let toks := (s.routeOf i o).toks
    ((mget dNil t.flight o).head?.toList).any fun x =>
    let xs := (mget dNil t.flight o).tail
    decide ((mget dNil t.flight o = x :: xs) ∧ (s.routeOf i o = ⟨[(e, q)], toks, thru⟩) ∧ ((s.tile e).aborting = false) ∧ ((s.tile e).ep = x.ep) ∧ ((∀
      h ∈ thru, (s.tile h.1).ep = x.ep)) ∧ (x.pay ≠ .eos) ∧ ((s.plotOf i).toList.all fun p => decide ((s.plot p).runs = [])) = true)) = true) ∧
    (
    ( ([flying 12].map fun a => ((a.routeOf 6 12).ends.map (·.1)).foldl (fun b e => tl e (fun t =>
      { t with active := { TileCfg.idle with record := [1] }, epoch := 3 }) b) a : List (State)).any fun s =>
    let i : Fin 33792 := 6
    let o : Fin 18 := 12
    let t := s.tile i
    ((mget dNil t.flight o).head?.toList).any fun x =>
    let xs := (mget dNil t.flight o).tail
    decide ((mget dNil t.flight o = x :: xs) ∧ (∃ h ∈ (s.routeOf i o).thru ++ (s.routeOf i o).ends, (s.tile h.1).ep ≠ x.ep))) = true) ∧
    (
    let s : State := tl 6 (fun t => { t with credBack := [(12, 1)] }) P
    let i : Fin 33792 := 6
    let o : Fin 18 := 12
    let t := s.tile i
    (0 < mget dNat t.credBack o) ∧ (t.queue 34 = []) ∧ (((s.plotOf i).toList.all fun p => decide ((s.plot p).runs = [])) = true) ∧ s.credits i o < 63) ∧
    (
    let s : State := flying 3
    let i : Fin 33792 := 6
    let o : Fin 18 := 3
    (o.val < 12) ∧ s.onLink i o ≠ []) := by
  refine ⟨?_, ?_, ?_, ?_, ?_, ?_⟩ <;> decide +kernel

/-- A state and operands that meet the hypotheses of each clause of `RemoteWindowAndLinkRowsComplete` (part 3). -/
theorem wit_RemoteWindowAndLinkRowsComplete_c :
    (
    let s : State := joinS 0x4002
    let i : Fin 33792 := 6
    let j : Fin 2 := 1
    let t := s.tile i
    let dq := 30 + 2 * j.val
    let d := Payload.scalar 5
    let k := 0x4002
    (s.joinEn i j = true) ∧ (t.aborting = false) ∧ (t.head dq = some d) ∧ (d ≠ .eos) ∧ (t.head (dq + 1) = some (.token k)) ∧ (k.getLsbD 15 = false) ∧
      (k.getLsbD 14 = true) ∧ (mget dNat t.jcount j < fld k 11 0) ∧ t.queue 34 = []) ∧
    (
    let s : State := joinS 0x9002
    let i : Fin 33792 := 6
    let j : Fin 2 := 1
    let t := s.tile i
    let dq := 30 + 2 * j.val
    let k := 0x9002
    (s.joinEn i j = true) ∧ (t.aborting = false) ∧ (t.head (dq + 1) = some (.token k)) ∧ (k.getLsbD 15 = true ∨ t.head dq = some .eos)) ∧
    (
    let s : State := tl 6 (fun t => { t with queues := [(17, [xf (.token 0x9002)])] }) P
    let i : Fin 33792 := 6
    let t := s.tile i
    let k := 0x9002
    (t.head 17 = some (.token k)) ∧ k.getLsbD 15 = true) := by
  refine ⟨?_, ?_, ?_⟩ <;> decide +kernel

def cwHdr : BitVec 256 := BitVec.ofNat 256 (7 * 2 ^ 252 + 1 * 2 ^ 246 + 0x103 * 2 ^ 224 + 0x101 * 2 ^ 208 + 31 * 2 ^ 94)
def arrS (f : ArrSt → ArrSt) : State := { P with arr := f P.arr }
def cwS (l : List CwPkt) : State := P.setCwQueue (cwKey cwHdr 0x101 0) l
def flagS : State := pl0 (fun x => { x with runs := [{ run3 with flagMode := true, started := true }] })
  ((P.plotTiles 0).foldl (fun a j => tl j (fun t => { t with epoch := 4 }) a) P)

/-- A state and operands that meet the hypotheses of each clause of `CartwayRowsComplete` (part 1). -/
theorem wit_CartwayRowsComplete_a :
    (
    let s : State := P
    let u : Fin 16896 := 3
    let q : Sender := .firmware
    let i := muInst u
    (s.senderOk u q = true) ∧ (((s.tile i).queue 34).length < 8) ∧ ((s.tile i).aborting = false) ∧ (s.outputsOf i 0x14 = []) ∧ s.joinQs i 0x14 = []) ∧
    (
    let s : State := P
    let u : Fin 16896 := 3
    let q : Sender := .core 9
    s.senderOk u q = false) ∧
    (
    let h : BitVec 256 := BitVec.ofNat 256 (1 * 2 ^ 252 + 9 * 2 ^ 246)
    (hdrBad h = true) ∧ isResponse h = true) ∧
    (
    let s : State := cwS [⟨cwHdr, [8]⟩]
    let node : BitVec 16 := 0x101
    let h : BitVec 256 := cwHdr
    let l : List (BitVec 256) := [7]
    let pk : CwPkt := ⟨h, l⟩
    let way := fun inp => hdrBad h = false ∧ s.cwInput h node.toNat = some inp ∧ l.length = hdrFlits h ∧ s.cwBound h = true
    let inp := 0
    (way inp) ∧ (node.toNat = hdrSrc h) ∧ (s.cwRoom (cwKey h node.toNat inp) pk = true) ∧ (s.cwQueue (cwKey h node.toNat inp) ≠ []) ∧ pk ∉ s.cwQueue
      (cwKey h node.toNat inp)) ∧
    (
    let s : State := cwS [⟨cwHdr, [7]⟩]
    let node : BitVec 16 := 0x101
    let h : BitVec 256 := cwHdr
    let l : List (BitVec 256) := [7]
    let pk : CwPkt := ⟨h, l⟩
    let way := fun inp => hdrBad h = false ∧ s.cwInput h node.toNat = some inp ∧ l.length = hdrFlits h ∧ s.cwBound h = true
    let inp := 0
    let rest := (s.cwQueue (cwKey h node.toNat inp)).tail
    let out := cwOut (isResponse h) node.toNat (hdrDst h)
    let dst := cwKey h (cwNext node.toNat out) (cwSide out)
    (way inp) ∧ (s.cwQueue (cwKey h node.toNat inp) = pk :: rest) ∧ (out ≠ 0) ∧ (s.cwRoom dst pk = true) ∧ s.cwHeads node.toNat (hdrPlane h)
      (isResponse h).toNat = [(inp, pk)]) ∧
    (
    (
    let s : State := cwS [⟨cwHdr, [8]⟩, ⟨cwHdr, [7]⟩]
    let node : BitVec 16 := 0x101
    let h : BitVec 256 := cwHdr
    let l : List (BitVec 256) := [7]
    let pk : CwPkt := ⟨h, l⟩
    let way := fun inp => hdrBad h = false ∧ s.cwInput h node.toNat = some inp ∧ l.length = hdrFlits h ∧ s.cwBound h = true
    let inp := 0
    ((s.cwQueue (cwKey h node.toNat inp)).head?.toList).any fun x =>
    let rest := (s.cwQueue (cwKey h node.toNat inp)).tail
    decide ((way inp) ∧ (s.cwQueue (cwKey h node.toNat inp) = x :: rest) ∧ (pk ≠ x) ∧ pk ∈ rest)) = true) := by
  refine ⟨?_, ?_, ?_, ?_, ?_, ?_⟩ <;> decide +kernel

/-- A state and operands that meet the hypotheses of each clause of `CartwayRowsComplete` (part 2). -/
theorem wit_CartwayRowsComplete_b :
    (
    (
    let s : State := P.setGen 3 1 { Gen.reset with reqs := [req1] }
    let u : Fin 16896 := 3
    let g : Fin 4 := 1
    let req : Nat := 7
    (((s.gen u g).reqs.find? (fun x => decide (x.id = req))).toList).any fun r => decide ((r.epoch = (s.gen u g).epoch) ∧ (r.repeated = false) ∧
      (r.data = []) ∧ r.addr / 2 ^ 48 = s.chip)) = true) ∧
    (
    let s : State := arrS fun a => { a with cross := [(2, [.seed 3 9 0])] }
    let path : Fin 17 := 2
    let v := 3
    let x := 9
    let b := 0
    let xs := []
    mget dNil s.arr.cross path = .seed v x b :: xs) ∧
    (
    let s : State := arrS fun a => { a with cross := [(2, [.event 3 9])] }
    let path : Fin 17 := 2
    let c := 3
    let b := 9
    let xs := []
    mget dNil s.arr.cross path = .event c b :: xs) ∧
    (
    (
    let s : State := arrS fun a => { a with seeds := [(3, [9])] }
    let u : Fin 16896 := 3
    ((mget dNil s.arr.seeds u).head?.toList).any fun x =>
    let xs := (mget dNil s.arr.seeds u).tail
    decide (mget dNil s.arr.seeds u = x :: xs)) = true) ∧
    (
    let s : State := arrS fun a => { a with kwr := [(3, [.kval 3 4 9 2])] }
    let u : Fin 16896 := 3
    let n := 4
    let v := 9
    let tag := 2
    let xs := []
    mget dNil s.arr.kwr u = .kval u n v tag :: xs) ∧
    (
    (
    let s : State := flagS
    let p : Fin 16 := 0
    (((s.plot p).runs).head?.toList).any fun a =>
    let as := ((s.plot p).runs).tail
    decide (((s.plot p).runs = a :: as) ∧ (a.flagMode = true) ∧ (a.flagsSeen = false) ∧ (a.started = true) ∧ (a.closed = false) ∧ ((∀ j ∈ s.plotTiles
      p, j % 2 = 0 → (s.tile j).epoch = a.epoch + 1 ∧ (s.tile j).holds a.epoch = false)))) = true) := by
  refine ⟨?_, ?_, ?_, ?_, ?_, ?_⟩ <;> decide +kernel

/-- A state and operands that meet the hypotheses of each clause of `CartwayRowsComplete` (part 3). -/
theorem wit_CartwayRowsComplete_c :
    (
    let s : State := (P.wrF .LNK_OSEL 6 12 5 0 0x18).wrF .LNK_CRED 6 12 5 0 8
    let i : Nat := 6
    let code : Nat := 0x18
    let o : Nat := 12
    (o < 18) ∧ (s.osel i o = code) ∧ s.canSend i code = true) ∧
    (
    let s : State := P
    let i : Nat := 6
    let code : Nat := 0x18
    let o : Nat := 12
    (o < 18) ∧ s.osel i o ≠ code) ∧
    (
    let i : Nat := 6
    let o : Nat := 12
    let k := 7
    (o < 18) ∧ k ≠ i) ∧
    (
    let o : Nat := 12
    o < 18) ∧
    (
    let o : Nat := 12
    let q := 29
    (o < 18) ∧ q < 30) := by
  refine ⟨?_, ?_, ?_, ?_, ?_⟩ <;> decide +kernel

def mkEnt (id opc flags fn cls st handle : Nat) (args : List Nat) : QEnt :=
  ⟨id, natToBytes 1 opc ++ natToBytes 1 flags ++ natToBytes 2 9 ++ natToBytes 4 handle ++ (args ++ List.replicate (7 - args.length) 0).flatMap (natToBytes 8),
    fn, cls, st, 0, 0, 0, 0, 0, false, 0, false, []⟩
def withQ (q : Nat) (es : List QEnt) (s : State) : State := s.setQp q { s.qp q with ents := es }
/-- Queue pair 9 of function 0: class `cls`, state `st`, rings of 16 entries at host memory 0x1000 and 0x2000, the bound core 5. -/
def qp9 (cls st : Nat) : State :=
  ((((P.wr .HOP_QP_OWNER 9 0 (BitVec.ofNat 64 (2 ^ 63 + cls * 2 ^ 56 + 5 * 2 ^ 32 + 3))).wr .HOP_QP_CFG 9 0
    (BitVec.ofNat 64 (2 ^ 59 + 4 * 2 ^ 32 + 4 * 2 ^ 24))).wr .HOP_QP_SQBASE 9 0 0x200000001000).wr .HOP_QP_CQBASE 9 0 0x200000002000).setQpState 9 st

/-- A state and operands that meet the hypotheses of each clause of `QueuePairControlRowsComplete`. -/
theorem wit_QueuePairControlRowsComplete :
    (
    let s : State := qp9 0 0
    let w : Agent := .firmware
    let q : Fin 16384 := 9
    (Allowed s w .HOP_QP_CTL q 0) ∧ (s.rdF .HOP_QP_OWNER q 0 63 63 = 1) ∧ (s.qpState q = 0) ∧ (s.isFatal = false) ∧ (s.qpCfgOk q (s.rd .HOP_QP_CFG q
      0) (s.rd .HOP_QP_SQBASE q 0).toNat (s.rd .HOP_QP_CQBASE q 0).toNat = true) ∧ ((s.qpClass q = 1 → s.stageOk q (s.rdF .HOP_QP_STAGEBASE q 0 24 12
      * 4096) = true))) ∧
    (
    let s : State := withQ 9 [mkEnt 1 0x10 0 0 3 1 0 []] (qp9 3 1)
    let w : Agent := .firmware
    let q : Fin 16384 := 9
    let x := s.qp q
    (Allowed s w .HOP_QP_CTL q 0) ∧ (s.qpState q ≠ 0) ∧ ((∀ e ∈ x.ents, 2 ≤ e.st → e.det = true))) ∧
    (
    let s : State := withQ 9 [mkEnt 1 0x10 0 0 3 2 0 []] (qp9 3 1)
    let w : Agent := .firmware
    let q : Fin 16384 := 9
    let x := s.qp q
    (Allowed s w .HOP_QP_CTL q 0) ∧ (s.qpState q ≠ 0) ∧ ((∃ e ∈ x.ents, 2 ≤ e.st ∧ e.det = false))) ∧
    (
    let s : State := qp9 0 1
    let w : Agent := .firmware
    let q : Fin 16384 := 9
    let v : BitVec 64 := 0x8101000000000000
    (Allowed s w .HOP_QP_OWNER q 0) ∧ (s.hasp.wrq = []) ∧ fld v 58 56 ≤ 4) ∧
    (
    (
    let s : State := withQ 9 [mkEnt 1 0x40 0 0 1 2 0 []] (qp9 1 1)
    let w : Agent := .core 5
    let q : Fin 16384 := 9
    let v : BitVec 64 := 0x20009
    let x := s.qp q
    ((x.ents.find? (fun e => decide (e.st = 2 ∧ e.cls = 1 ∧ e.cid = fld v 15 0))).toList).any fun e => decide (Allowed s w .HOP_QP_CPOST1 q 0)) = true) ∧
    (
    let s : State := (qp9 1 1).setQp 9 { Qp.reset with stUsed := 7 }
    let w : Agent := .core 5
    let q : Fin 16384 := 9
    Allowed s w .HOP_QP_STAGEHEAD q 0) := by
  refine ⟨?_, ?_, ?_, ?_, ?_, ?_⟩ <;> decide +kernel

def ringS (k : RingKind) (q : Nat) : State := (P.wrF k.cfg q 0 63 63 1).wrF .SILO_PMQ_PTRS 2 0 47 32 15

/-- A state and operands that meet the hypotheses of each clause of `DoorbellRowsComplete` (part 1). -/
theorem wit_DoorbellRowsComplete_a :
    (
    let s : State := qp9 0 1
    let f : Fin 128 := 0
    let q : Fin 16384 := 9
    let i : BitVec 16 := 15
    let n := s.sqSize q
    let new := (i.toNat + n - s.sqTail q % n) % n
    let used := (s.sqTail q + n - s.sqHead q % n) % n
    let live := s.qpVisible f q = true ∧ s.qpState q = 1 ∧ (s.qp q).stopping = false ∧ s.isFatal = false ∧ s.isReady = true
    (live) ∧ (s.pwr.idle ≠ 2) ∧ (i.toNat < n) ∧ new + used + 1 ≤ n) ∧
    (
    let s : State := qp9 0 1
    let f : Fin 128 := 0
    let q : Fin 16384 := 9
    let i : BitVec 16 := 16
    let n := s.sqSize q
    let new := (i.toNat + n - s.sqTail q % n) % n
    let used := (s.sqTail q + n - s.sqHead q % n) % n
    let live := s.qpVisible f q = true ∧ s.qpState q = 1 ∧ (s.qp q).stopping = false ∧ s.isFatal = false ∧ s.isReady = true
    (live) ∧ ((n ≤ i.toNat ∨ n < new + used + 1))) ∧
    (
    let s : State := (qp9 0 1).wr .HOP_QP_PTRS 9 0 0x000F00000000
    let f : Fin 128 := 0
    let q : Fin 16384 := 9
    let i : BitVec 16 := 15
    let m := s.cqSize q
    let live := s.qpVisible f q = true ∧ s.qpState q = 1 ∧ (s.qp q).stopping = false ∧ s.isFatal = false ∧ s.isReady = true
    (live) ∧ (s.pwr.idle ≠ 2) ∧ (i.toNat < m) ∧ (i.toNat + m - s.cqHead q % m) % m ≤ (s.cqTail q + m - s.cqHead q % m) % m) ∧
    (
    let s : State := qp9 0 1
    let f : Fin 128 := 0
    let q : Fin 16384 := 9
    let i : BitVec 16 := 1
    let m := s.cqSize q
    let live := s.qpVisible f q = true ∧ s.qpState q = 1 ∧ (s.qp q).stopping = false ∧ s.isFatal = false ∧ s.isReady = true
    (live) ∧ ((m ≤ i.toNat ∨ (s.cqTail q + m - s.cqHead q % m) % m < (i.toNat + m - s.cqHead q % m) % m))) ∧
    (
    let s : State := qp9 0 0
    let f : Fin 128 := 0
    let q : Fin 16384 := 9
    (s.qpVisible f q = true) ∧ s.qpState q ≠ 1) ∧
    (
    let s : State := ringS .pm 2
    let w : Agent := .firmware
    let r : Fin 64 := 2
    let i : BitVec 16 := 15
    let N := s.ringSize .pm r
    let p := s.rd .SILO_PMQ_PTRS r 0
    (Allowed s w .SILO_PMQ_DB r 0) ∧ (s.ringOn .pm r = true) ∧ (i.toNat < N) ∧ ringDist i.toNat (fld p 31 16) N + ringDist (fld p 31 16) (fld p 15 0)
      N + 1 ≤ N) := by
  refine ⟨?_, ?_, ?_, ?_, ?_, ?_⟩ <;> decide +kernel

/-- A state and operands that meet the hypotheses of each clause of `DoorbellRowsComplete` (part 2). -/
theorem wit_DoorbellRowsComplete_b :
    (
    let s : State := ringS .pm 2
    let w : Agent := .firmware
    let r : Fin 64 := 2
    let i : BitVec 16 := 15
    let N := s.ringSize .pm r
    let p := s.rd .SILO_PMQ_PTRS r 0
    (Allowed s w .SILO_PMQ_DB r 0) ∧ (s.ringOn .pm r = true) ∧ (i.toNat < N) ∧ ringDist i.toNat (fld p 63 48) N ≤ ringDist (fld p 47 32) (fld p 63 48)
      N) ∧
    (
    ((List.range 2).all fun nth =>
    let s : State := ringS .pm 2
    let w : Agent := .firmware
    let r : Fin 64 := 2
    let i : BitVec 16 := 16
    let N := s.ringSize .pm r
    (([Instr.pmqTailDoorbell w r i, .pmqHeadDoorbell w r i])[nth]?.toList).any fun c => decide ((Allowed s w .SILO_PMQ_DB r 0) ∧ (s.ringOn .pm r =
      true) ∧ N ≤ i.toNat)) = true) ∧
    (
    ((List.range 2).all fun nth =>
    let s : State := (ringS .win 2).wrF RingKind.hay.cfg 2 0 63 63 1
    let w : Agent := .firmware
    let i : BitVec 16 := 15
    let k : Fin 16 := 2
    (([(.winRingDoorbell w k (i.setWidth 64), .win, .WIN_Q_DB, .WIN_Q_PTRS), (.hayRingDoorbell w k (i.setWidth 64), .hay, .HAY_Q_DB, .HAY_Q_PTRS)] :
      List (Instr × RingKind × Reg × Reg))[nth]?.toList).any fun c =>
    let M := s.ringSize c.2.1 k
    let z := s.rd c.2.2.2 k 0
    decide ((Allowed s w c.2.2.1 k 0) ∧ (s.ringOn c.2.1 k = true) ∧ (i.toNat < M) ∧ ringDist i.toNat (fld z 31 16) M + ringDist (fld z 31 16) (fld z
      15 0) M + 1 ≤ M)) = true) := by
  refine ⟨?_, ?_, ?_⟩ <;> decide +kernel

def ring9 (es : List QEnt) : State := withQ 9 es (((qp9 3 1).wrF .HOP_QP_PTRS 9 0 31 16 15).store .host 0x1000 (0x10 :: List.replicate 63 0))

/-- A state and operands that meet the hypotheses of each clause of `FetchAndCompletionRowsComplete` (part 1). -/
theorem wit_FetchAndCompletionRowsComplete_a :
    (
    let s : State := (ring9 []).wr .HOP_LINK 0 0 0x25
    let q : Fin 16384 := 9
    (s.hop.live = [q.val]) ∧ (s.eligible q = true) ∧ (s.isFatal = false) ∧ (s.rdF .HOP_LINK 0 0 2 0 ≠ 0) ∧ (s.rdF .HOP_LINK 0 0 8 8 = 0) ∧ s.pwr.idle
      = 0) ∧
    (
    (
    let s : State := ring9 [mkEnt 1 0 0 0 3 1 0 []]
    let q : Fin 16384 := 9
    let x := s.qp q
    let a := (s.rd .HOP_QP_SQBASE q 0).toNat + 64 * s.sqHead q
    ((x.ents.find? (fun e => decide (e.st < 2))).toList).any fun e => ((s.fetch (.func e.fn) a 64 true).toOption.toList).any fun bs => decide ((e.bad
      = false) ∧ (s.isFatal = false) ∧ (x.cut = none) ∧ (opcOk e.cls (le bs 0 1) = true) ∧ (e.cls ≠ 1) ∧ ((e.cls = 2 → s.holdsModel e.fn (le bs 4 4) =
      true)) ∧ (s.sqSize q ≤ 65536) ∧ ((nbit (le bs 1 1) 0 = false ∨ ∀ y ∈ x.ents, y.st < 2 ∨ y.det = true)))) = true) ∧
    (
    (
    let s : State := (ring9 [mkEnt 1 0 0 0 1 1 0 []]).store .host 0x1000 [0x40]
    let q : Fin 16384 := 9
    let x := s.qp q
    let a := (s.rd .HOP_QP_SQBASE q 0).toNat + 64 * s.sqHead q
    ((x.ents.find? (fun e => decide (e.st < 2))).toList).any fun e => ((s.fetch (.func e.fn) a 64 true).toOption.toList).any fun bs => decide ((e.bad
      = false) ∧ (e.cls = 1) ∧ (s.isFatal = false) ∧ (x.cut = none) ∧ (opcOk 1 (le bs 0 1) = true) ∧ ((nbit (le bs 1 1) 0 = false ∨ ∀ y ∈ x.ents, y.st
      < 2 ∨ y.det = true)))) = true) ∧
    (
    (
    let s : State := (ring9 [mkEnt 1 0 0 0 3 1 0 []]).store .host 0x1000 [0xFF]
    let q : Fin 16384 := 9
    let x := s.qp q
    let a := (s.rd .HOP_QP_SQBASE q 0).toNat + 64 * s.sqHead q
    ((x.ents.find? (fun e => decide (e.st < 2))).toList).any fun e => ((s.fetch (.func e.fn) a 64 true).toOption.toList).any fun bs =>
    let st := 0x603
    decide ((e.bad = false) ∧ (e.det = false) ∧ (s.isFatal = false) ∧ (x.cut = none) ∧ ((nbit (le bs 1 1) 0 = false ∨ ∀ y ∈ x.ents, y.st < 2 ∨ y.det =
      true)) ∧ ((opcOk e.cls (le bs 0 1) = false ∧ st = 0x0603) ∨ (opcOk e.cls (le bs 0 1) = true ∧ e.cls = 2 ∧ s.holdsModel e.fn (le bs 4 4) = false
      ∧ st = 2)))) = true) ∧
    (
    (
    let s : State := ring9 [mkEnt 1 0x10 0 0 3 3 0 []]
    let q : Fin 16384 := 9
    let x := s.qp q
    ((s.nextCpl q).toList).any fun e => (((s.setQp q { x with ents := x.ents.filter fun y => decide (y.id ≠ e.id) }).put (.func e.fn) ((s.rd
      .HOP_QP_CQBASE q 0).toNat + 16 * s.cqTail q) (cplBytes e.result e.head e.cid e.status x.phase) true).toOption.toList).any fun b => decide
      ((x.cut = none) ∧ (x.stopping = false) ∧ s.cqSize q ≤ 65536)) = true) ∧
    (
    let s : State := (ring9 []).setQp 9 { Qp.reset with pend := 3 } |>.wrF .HOP_QP_MOD 9 0 9 0 1
    let q : Fin 16384 := 9
    let x := s.qp q
    (x.pend ≠ 0) ∧ (s.rdF .HOP_QP_MOD q 0 9 0 ≠ 0) ∧ s.rdF .HOP_QP_CFG q 0 59 59 = 1) := by
  refine ⟨?_, ?_, ?_, ?_, ?_, ?_⟩ <;> decide +kernel

/-- A state and operands that meet the hypotheses of each clause of `FetchAndCompletionRowsComplete` (part 2). -/
theorem wit_FetchAndCompletionRowsComplete_b :
    (
    let f : Fin 128 := 0
    let v : Fin 1032 := 1031
    v.val < (if f.val = 0 then 1032 else 8)) ∧
    (
    (
    let s : State := ring9 [mkEnt 1 0 0 0 3 0 0 []]
    let q : Fin 16384 := 9
    ((s.hostReader q).toList).any fun e => decide (e.bad = false)) = true) ∧
    (
    (
    let s : State := ring9 [{ mkEnt 1 0 0 0 3 0 0 [] with bad := true }]
    let q : Fin 16384 := 9
    ((s.hostReader q).toList).any fun e => decide ((e.bad = true) ∧ (e.st = 0) ∧ s.qpState q = 1)) = true) := by
  refine ⟨?_, ?_, ?_⟩ <;> decide +kernel

def adm (opc sub : Nat) (args : List Nat) (st10 own10 : Nat) : State :=
  (withQ 9 [{ mkEnt 1 opc 0 0 0 2 0 args with sub := sub }] ((qp9 0 1).wr .HOP_QP_OWNER 10 0 (BitVec.ofNat 64 (own10 * 2 ^ 63 + 3 * 2 ^ 56)))).setQpState 10 st10
def blk (opc : Nat) (args : List Nat) : State := withQ 9 [mkEnt 1 opc 0 0 3 2 0 args] (qp9 3 1)

/-- A state and operands that meet the hypotheses of each clause of `AdminAndBulkCommandsComplete` (part 1). -/
theorem wit_AdminAndBulkCommandsComplete_a :
    (
    (
    let s : State := adm 1 0 [10, 0x1000, 0x200000001000, 0x404000000] 0 1
    let q : Fin 16384 := 9
    ((s.entFirst q 1).toList).any fun e =>
    let t := e.arg 0 % 16384
    let cfg : Word := BitVec.ofNat 64 (e.arg 3)
    decide ((e.cls = 0) ∧ (s.adminOwns e t = true) ∧ (s.qpState t = 0) ∧ (s.qpCfgOk t cfg (e.arg 1) (e.arg 2) = true) ∧ ((s.qpClass t = 1 → s.stageOk
      t (e.arg 5) = true)))) = true) ∧
    (
    (
    let s : State := adm 1 0 [10] 0 0
    let q : Fin 16384 := 9
    ((s.entFirst q 1).toList).any fun e =>
    let t := e.arg 0 % 16384
    decide ((e.cls = 0) ∧ s.adminOwns e t = false)) = true) ∧
    (
    (
    let s : State := adm 1 0 [10] 1 1
    let q : Fin 16384 := 9
    ((s.entFirst q 1).toList).any fun e =>
    let t := e.arg 0 % 16384
    decide ((e.cls = 0) ∧ (s.adminOwns e t = true) ∧ s.qpState t ≠ 0)) = true) ∧
    (
    (
    let s : State := adm 2 0 [10] 1 1
    let q : Fin 16384 := 9
    ((s.entFirst q 2).toList).any fun e =>
    let t := e.arg 0 % 16384
    decide ((e.cls = 0) ∧ (e.sub ≠ 1) ∧ (s.adminOwns e t = true) ∧ (s.qpState t = 1) ∧ t ≠ q.val)) = true) ∧
    (
    (
    let s : State := adm 2 0 [9] 1 1
    let q : Fin 16384 := 9
    ((s.entFirst q 2).toList).any fun e =>
    let t := e.arg 0 % 16384
    decide ((e.cls = 0) ∧ (e.sub ≠ 1) ∧ (s.adminOwns e t = true) ∧ (s.qpState t = 1) ∧ t = q.val)) = true) ∧
    (
    (
    let s : State := adm 2 1 [10] 0 1
    let q : Fin 16384 := 9
    ((s.entFirst q 2).toList).any fun e =>
    let t := e.arg 0 % 16384
    decide ((e.cls = 0) ∧ (e.sub = 1) ∧ s.qpState t = 0)) = true) := by
  refine ⟨?_, ?_, ?_, ?_, ?_, ?_⟩ <;> decide +kernel

/-- A state and operands that meet the hypotheses of each clause of `AdminAndBulkCommandsComplete` (part 2). -/
theorem wit_AdminAndBulkCommandsComplete_b :
    (
    (
    let s : State := adm 3 0 [10, 7] 1 1
    let q : Fin 16384 := 9
    ((s.entFirst q 3).toList).any fun e =>
    let t := e.arg 0 % 16384
    decide ((e.cls = 0) ∧ s.adminOwns e t = true)) = true) ∧
    (
    (
    let s : State := adm 4 0 [0x200000001000] 1 1
    let q : Fin 16384 := 9
    ((s.entFirst q 4).toList).any fun e =>
    let b := up0
    decide ((e.cls = 0) ∧ (s.put (.func e.fn) (e.arg 0 / 64 * 64) (List.replicate 4096 0) true).toOption.isSome = true)) = true) ∧
    (
    (
    let s : State := blk 0x10 [0x200000001000, 0x100, 4]
    let q : Fin 16384 := 9
    ((s.entOf q 0x10).toList).any fun e => ((s.fetch (.func e.fn) (e.arg 0) 4 true).toOption.toList).any fun bs => ((s.put (.func e.fn) (e.arg 1) bs
      true).toOption.toList).any fun b => decide ((e.cls = 3) ∧ (e.bad = false) ∧ (e.arg 2 = 4) ∧ (e.arg 0 % 65536 ≤ 65532) ∧ e.arg 1 % 65536 ≤
      65532)) = true) ∧
    (
    (
    let s : State := blk 0x10 [0xFFFFFFFF0000, 0x100, 4]
    let q : Fin 16384 := 9
    ((s.entOf q 0x10).toList).any fun e => (errOf (s.fetch (.func e.fn) (e.arg 0) 4 true)).any fun st => decide ((e.cls = 3) ∧ (e.bad = false) ∧
      (e.arg 2 = 4) ∧ (e.arg 0 % 65536 ≤ 65532) ∧ e.arg 1 % 65536 ≤ 65532)) = true) ∧
    (
    (
    let s : State := blk 0x11 [0x100, 5, 4]
    let q : Fin 16384 := 9
    ((s.entOf q 0x11).toList).any fun e => ((s.put (.func e.fn) (e.arg 0) ((natToBytes 8 (e.arg 1)).take 4) true).toOption.toList).any fun b => decide
      ((e.cls = 3) ∧ (e.arg 2 = 4) ∧ e.arg 0 % 65536 ≤ 65532)) = true) := by
  refine ⟨?_, ?_, ?_, ?_, ?_⟩ <;> decide +kernel

def msgS : State :=
  withQ 10 [mkEnt 2 0x21 0 0 4 2 0 [0x200000003000]] (withQ 9 [mkEnt 1 0x20 0 0 4 2 0 [0]] (((qp9 4 1).wr .HOP_QP_OWNER 10 0 (BitVec.ofNat 64 (2 ^ 63 + 4 * 2 ^ 56))).setQpState 10 1))

/-- A state and operands that meet the hypotheses of each clause of `MessageLinkAndFunctionRowsComplete` (part 1). -/
theorem wit_MessageLinkAndFunctionRowsComplete_a :
    (
    (
    let s : State := msgS
    let q : Fin 16384 := 9
    let qr : Fin 16384 := 10
    ((s.qp q).ents : List (QEnt)).any fun e => (((oldestMsg (s.msgs 0x21 fun y => decide (y.fn = e.arg 0 % 256))).map (·.2)).toList).any fun r =>
    let a := r.arg 0 / 64 * 64
    let bs := natToBytes 2 e.fn ++ natToBytes 2 e.cid ++ List.replicate 12 0 ++ (e.bytes.drop 0x10).take 48
    ((s.put (.func r.fn) a bs true).toOption.toList).any fun b => decide ((s.entOf q 0x20 = some e) ∧ oldestMsg (s.msgs 0x21 fun y => decide (y.fn =
      e.arg 0 % 256)) = some (qr.val, r))) = true) ∧
    (
    (
    let s : State := msgS
    let q : Fin 16384 := 10
    let qr : Fin 16384 := 9
    ((s.entOf q 0x21).toList).any fun r =>
    let a := r.arg 0 / 64 * 64
    (((oldestMsg (s.msgs 0x20 fun y => decide (y.arg 0 % 256 = r.fn))).map (·.2)).toList).any fun e =>
    let bs := natToBytes 2 e.fn ++ natToBytes 2 e.cid ++ List.replicate 12 0 ++ (e.bytes.drop 0x10).take 48
    ((s.put (.func r.fn) a bs true).toOption.toList).any fun b => decide ((oldestMsg (s.msgs 0x20 fun y => decide (y.arg 0 % 256 = r.fn)) = some
      (qr.val, e)) ∧ oldestMsg (s.msgs 0x21 fun y => decide (y.fn = r.fn)) = some (q.val, r))) = true) ∧
    (
    (
    let s : State := withQ 10 [] msgS
    let q : Fin 16384 := 9
    ((s.entOf q 0x20).toList).any fun e => decide ((e.arg 0 % 256 ≠ 0x80) ∧ s.msgs 0x21 (fun y => decide (y.fn = e.arg 0 % 256)) = [])) = true) ∧
    (
    (
    let s : State := msgS
    let q : Fin 16384 := 9
    ((s.qp q).ents).any fun y =>
    let st := 0
    decide ((y ∈ (s.qp q).ents) ∧ (y.st ≠ 3) ∧ (y.det = false) ∧ ((∀ z ∈ (s.qp q).ents, z.id = y.id → z = y)))) = true) ∧
    (
    (
    let s : State := msgS
    let q : Fin 16384 := 9
    ((s.qp q).ents).any fun y =>
    let st := 0
    let p := 10
    decide ((y ∈ (s.qp q).ents) ∧ (y.st ≠ 3) ∧ (y.det = false) ∧ ((∀ z ∈ (s.qp q).ents, z.id = y.id → z = y)) ∧ p ≠ q.val)) = true) ∧
    (
    let rate : Fin 7 := 5
    rate.val ≠ 0) := by
  refine ⟨?_, ?_, ?_, ?_, ?_, ?_⟩ <;> decide +kernel

/-- A state and operands that meet the hypotheses of each clause of `MessageLinkAndFunctionRowsComplete` (part 2). -/
theorem wit_MessageLinkAndFunctionRowsComplete_b :
    (
    (
    let s : State := P
    let f : Fin 128 := 0
    let off : BitVec 36 := 0x100
    let bs : List Byte := [1, 2]
    let a := s.rdF .HOP_FN_BAR4 f 0 47 30 * 2 ^ 30 + off.toNat
    ((s.put (.func f) a bs true).toOption.toList).any fun b => decide ((off.toNat < s.bar4Size f) ∧ (bs ≠ []) ∧ a + bs.length ≤ 0xA000000000)) = true) ∧
    (
    let s : State := { P with hop := { P.hop with bar4 := [(0, 0)] } }
    let f : Fin 128 := 0
    let off : BitVec 36 := 0xFFFFFFFFF
    s.bar4Size f ≤ off.toNat) ∧
    (
    let s : State := P.wrF .HOP_FN_BAR4 0 0 47 30 640
    let f : Fin 128 := 0
    let off : BitVec 36 := 0x100
    let bs : List Byte := [1, 2]
    let a := s.rdF .HOP_FN_BAR4 f 0 47 30 * 2 ^ 30 + off.toNat
    (off.toNat < s.bar4Size f) ∧ (bs ≠ []) ∧ 0xA000000000 < a + bs.length) ∧
    (
    (
    let s : State := P
    let f : Fin 128 := 0
    let off : BitVec 36 := 0x100
    let n : Nat := 8
    let a := s.rdF .HOP_FN_BAR4 f 0 47 30 * 2 ^ 30 + off.toNat
    ((s.fetch (.func f) a n true).toOption.toList).any fun b => decide ((off.toNat < s.bar4Size f) ∧ (n ≠ 0) ∧ a + n ≤ 0xA000000000)) = true) ∧
    (
    let s : State := up0
    let f : Fin 128 := 0
    let off : BitVec 36 := 0x100
    let n : Nat := 8
    let a := s.rdF .HOP_FN_BAR4 f 0 47 30 * 2 ^ 30 + off.toNat
    (off.toNat < s.bar4Size f) ∧ (n ≠ 0) ∧ (a + n ≤ 0xA000000000) ∧ errOf (s.fetch (.func f) a n true) = [2]) := by
  refine ⟨?_, ?_, ?_, ?_, ?_⟩ <;> decide +kernel

/-- A state and operands that meet the hypotheses of each clause of `SiloRowsComplete` (part 1). -/
theorem wit_SiloRowsComplete_a :
    (
    (
    let s : State := P.wrF .SILO_SCRUB 0 0 8 8 1
    let addr : BitVec 40 := 0x20000
    let n : Nat := 8
    let rv : List Rival := []
    let a := addr.toNat
    let z := a / 65536 % 8
    let asks := fun i => decide (i = intakeOf a) || rv.any fun r => decide (r.idx % 128 = i)
    let free := fun (len : Nat) => 0 < len ∧ a + len ≤ 0xA000000000 ∧ a % 64 + len ≤ 64 ∧ s.rowBusy a len = false
    let within := fun (len : Nat) => free len ∧ s.intakeGrant z asks = some (intakeOf a)
    let poison := mget dFalse s.mem.pSilo (a / 64)
    decide ((within n) ∧ (a / 65536 ∉ s.mem.retired) ∧ poison = false)) = true) ∧
    (
    (
    let s : State := { P with mem := { P.mem with pSilo := [(0x800, true)] } }
    let addr : BitVec 40 := 0x20000
    let n : Nat := 8
    let rv : List Rival := []
    let a := addr.toNat
    let z := a / 65536 % 8
    let asks := fun i => decide (i = intakeOf a) || rv.any fun r => decide (r.idx % 128 = i)
    let free := fun (len : Nat) => 0 < len ∧ a + len ≤ 0xA000000000 ∧ a % 64 + len ≤ 64 ∧ s.rowBusy a len = false
    let within := fun (len : Nat) => free len ∧ s.intakeGrant z asks = some (intakeOf a)
    let poison := mget dFalse s.mem.pSilo (a / 64)
    decide ((within n) ∧ (a / 65536 ∉ s.mem.retired) ∧ poison = true)) = true) ∧
    (
    (
    let s : State := P.wrF .SILO_SCRUB 0 0 8 8 1
    let addr : BitVec 40 := 0x20000
    let bs : List Byte := [1, 2]
    let rv : List Rival := []
    let a := addr.toNat
    let z := a / 65536 % 8
    let asks := fun i => decide (i = intakeOf a) || rv.any fun r => decide (r.idx % 128 = i)
    let free := fun (len : Nat) => 0 < len ∧ a + len ≤ 0xA000000000 ∧ a % 64 + len ≤ 64 ∧ s.rowBusy a len = false
    let within := fun (len : Nat) => free len ∧ s.intakeGrant z asks = some (intakeOf a)
    let poison := mget dFalse s.mem.pSilo (a / 64)
    let whole := a % 64 = 0 ∧ bs.length = 64
    decide ((within bs.length) ∧ (a / 65536 ∉ s.mem.retired) ∧ ((poison = false ∨ whole)))) = true) ∧
    (
    (
    let s : State := { P with mem := { P.mem with pSilo := [(0x800, true)] } }
    let addr : BitVec 40 := 0x20000
    let bs : List Byte := [1, 2]
    let rv : List Rival := []
    let a := addr.toNat
    let z := a / 65536 % 8
    let asks := fun i => decide (i = intakeOf a) || rv.any fun r => decide (r.idx % 128 = i)
    let free := fun (len : Nat) => 0 < len ∧ a + len ≤ 0xA000000000 ∧ a % 64 + len ≤ 64 ∧ s.rowBusy a len = false
    let within := fun (len : Nat) => free len ∧ s.intakeGrant z asks = some (intakeOf a)
    let poison := mget dFalse s.mem.pSilo (a / 64)
    let whole := a % 64 = 0 ∧ bs.length = 64
    decide ((within bs.length) ∧ (a / 65536 ∉ s.mem.retired) ∧ (poison = true) ∧ ¬ whole)) = true) ∧
    (
    ((List.range 2).all fun nth =>
    let s : State := { P with mem := { P.mem with retired := [2] } }
    let addr : BitVec 40 := 0x20000
    let bs : List Byte := [1, 2]
    let n : Nat := 8
    let first : List (Fin 36) := []
    let again : List (Fin 36) := []
    let plot : Option (Fin 16) := none
    let rv : List Rival := []
    let a := addr.toNat
    let z := a / 65536 % 8
    let asks := fun i => decide (i = intakeOf a) || rv.any fun r => decide (r.idx % 128 = i)
    let free := fun (len : Nat) => 0 < len ∧ a + len ≤ 0xA000000000 ∧ a % 64 + len ≤ 64 ∧ s.rowBusy a len = false
    let within := fun (len : Nat) => free len ∧ s.intakeGrant z asks = some (intakeOf a)
    let rd := fun f g => Instr.siloIntakeAccess addr (.read n) f g plot rv
    (([rd first again, .siloIntakeAccess addr (.write bs) first again plot rv])[nth]?.toList).any fun c => decide ((within n) ∧ (within bs.length) ∧ a
      / 65536 ∈ s.mem.retired)) = true) ∧
    (
    (
    let s : State := { P with tier := { P.tier with siloPtr := [(2, 5)] } }
    let addr : BitVec 40 := 0x20000
    let n : Nat := 8
    let rv : List Rival := [⟨5, 2, none⟩]
    let a := addr.toNat
    let z := a / 65536 % 8
    let asks := fun i => decide (i = intakeOf a) || rv.any fun r => decide (r.idx % 128 = i)
    let free := fun (len : Nat) => 0 < len ∧ a + len ≤ 0xA000000000 ∧ a % 64 + len ≤ 64 ∧ s.rowBusy a len = false
    ((s.intakeGrant z asks).toList).any fun w => decide ((free n) ∧ w ≠ intakeOf a)) = true) := by
  refine ⟨?_, ?_, ?_, ?_, ?_, ?_⟩ <;> decide +kernel

/-- A state and operands that meet the hypotheses of each clause of `SiloRowsComplete` (part 2). -/
theorem wit_SiloRowsComplete_b :
    (
    let s : State := { P with tier := { P.tier with fixing := [128] } }
    let addr : BitVec 40 := 0x20000
    let n : Nat := 8
    let a := addr.toNat
    s.rowBusy a n = true) ∧
    (
    let s : State := P.wrF .SILO_SCRUB 0 0 8 8 1
    let line : Fin 10737418240 := 2048
    (s.rdF .SILO_SCRUB 0 0 8 8 = 1) ∧ (mget dFalse s.mem.pSilo line = false) ∧ (line.val / 1024 ∉ s.mem.retired) ∧ s.rowBusy (line * 64) 64 = false) ∧
    (
    let s : State := P.wrF .SILO_SCRUB 0 0 8 8 1
    let line : Fin 10737418240 := 2048
    let first : List (Fin 36) := [0, 1]
    let again : List (Fin 36) := [0, 1]
    let dup := fun (l : List (Fin 36)) => l.eraseDups.length
    (s.rdF .SILO_SCRUB 0 0 8 8 = 1) ∧ (mget dFalse s.mem.pSilo line = false) ∧ (line.val / 1024 ∉ s.mem.retired) ∧ (s.rowBusy (line * 64) 64 = false)
      ∧ (2 ≤ dup first) ∧ 2 ≤ dup again) ∧
    (
    let s : State := { P with tier := { P.tier with fixing := [128], bad := [2048] } }
    let row : Fin 671088640 := 128
    row.val ∈ s.tier.fixing) ∧
    (
    let s : State := P.wrF .SILO_SCRUB 0 0 8 8 1
    let k : Fin 8 := 2
    (s.rdF .SILO_STATUS k 0 1 1 = 0) ∧ s.rdF .SILO_SCRUB 0 0 8 8 = 1) := by
  refine ⟨?_, ?_, ?_, ?_, ?_⟩ <;> decide +kernel

/-- Ring 2 of the page mover, on and owned by function 0: 16 entries at silo address 0x100000. -/
def pmS (es : List QEnt) : State :=
  ((P.wr .SILO_PMQ_CFG 2 0 0xC000000000100000).wr .SILO_PMQ_PTRS 2 0 0x10000).setRing .pm 2 { Qp.reset with ents := es }
def pmE (opc flags sub np : Nat) (args : List Nat) : QEnt :=
  { mkEnt 1 opc flags 256 0 2 np args with sub := sub }
def pmFetch : State := (pmS []).store .silo 0x100000 (pmE 1 0 0 0 [0x200000, 0x300000, 64]).bytes
def wpage (n : Nat) : WPage := ⟨1, 256, 16, n, false, 0x200000000100, 0x500000, 7, 1, 1, 24, false, 0, [], true⟩
def cacheS (fs : NMap (Option Frame)) (es : List QEnt) : State :=
  let s := ((pmS es).wr .SILO_CACHE 1 0 0x8000000000000050).wr .HSP_KSLOT_A 0 0 (BitVec.ofNat 64 (2 ^ 59 + 2 ^ 55))
  { s with tier := { s.tier with frames := fs } }
def frm (pins : Nat) (filling : Bool) : Frame := ⟨7, 1, 1, filling, false, pins, 0⟩
def cacheW (fs : NMap (Option Frame)) (es : List QEnt) : State :=
  let s := cacheS fs es
  s.setWin { s.win with pages := [wpage 0x100000] }
/-- The sealed form of a page of zeros, in clear, at host address 0x100. -/
def zeroPage (s : State) : State := s.store .host 0x100 (natToBytes 2 0x4346 ++ [1, 0] ++ natToBytes 4 24 ++ List.replicate 8 0 ++ [2, 0, 0, 0] ++ natToBytes 4 0)
def look (page : Nat) : QEnt := pmE 0x10 0 0 0 [0x200000000100, page * 2 ^ 32 + 7, 24 * 2 ^ 32 + 1, 0x10000]

/-- A state and operands that meet the hypotheses of each clause of `MoverRowsComplete` (part 1). -/
theorem wit_MoverRowsComplete_a :
    (
    let s : State := P
    let w : Agent := .firmware
    let r : Fin 64 := 2
    let v : BitVec 64 := 0x4000000000000000
    (Allowed s w .SILO_PMQ_CFG r 0) ∧ (s.hasp.wrq = []) ∧ (fld v 62 61 ≠ 3) ∧ (fld v 53 50 ≤ 8) ∧ ((s.rd .SILO_PMQ_CFG r 0).getLsbD 63 = false) ∧
      s.rdF .SILO_PMQ_ERR r 0 16 16 = 0) ∧
    (
    let s : State := pmS []
    let w : Agent := .firmware
    let r : Fin 64 := 2
    let v : BitVec 64 := 0x4000000000100000
    (Allowed s w .SILO_PMQ_CFG r 0) ∧ (s.hasp.wrq = []) ∧ (fld v 62 61 ≠ 3) ∧ (fld v 53 50 ≤ 8) ∧ ((s.rd .SILO_PMQ_CFG r 0).getLsbD 63 = true) ∧ (fld
      v 62 54 = s.rdF .SILO_PMQ_CFG r 0 62 54) ∧ (fld v 53 50 = s.rdF .SILO_PMQ_CFG r 0 53 50) ∧ fld v 47 12 = s.rdF .SILO_PMQ_CFG r 0 47 12) ∧
    (
    (
    let s : State := pmFetch
    let r : Fin 64 := 2
    let p := s.rd .SILO_PMQ_PTRS r 0
    let N := s.ringSize .pm r
    let x := s.ring .pm r
    ((s.fetch (s.ringOwner .pm r) (s.ringBase .pm r + 64 * fld p 15 0) 64 false).toOption.toList).any fun bs => decide ((s.ringOn .pm r = true) ∧
      (s.isFatal = false) ∧ (N ≤ 65536) ∧ (fld p 31 16 ≠ fld p 15 0) ∧ (s.ringHeld .pm r < N - 1) ∧ (x.ents = []) ∧
      ({ mkEnt 1 0 0 256 0 2 0 [] with bytes := bs }).pmMalformed = false)) = true) ∧
    (
    ((List.range 7).all fun nth => ((List.range 7).map fun j => pmS [pmE (j + 1) 0 0 0 [1, 2, 65, 0, 0, 0, 7]] : List (State)).any fun s =>
    let r : Fin 64 := 2
    (([(.pmCopy r, 1), (.gather r, 2), (.scatter r, 3), (.convert r, 4), (.pmFill r, 5), (.dirtyGet r, 6), (.writeback r, 7)] : List (Instr ×
      Nat))[nth]?.toList).any fun o => ((s.ringReady .pm r).toList).any fun e => decide ((e.opc = o.2) ∧ e.pmBad = true)) = true) ∧
    (
    ((List.range 7).all fun nth => ([(1, 0, [0x200000, 0x300000, 64]), (2, 1, [0x400000, 0x300000]), (3, 1, [0x400000, 0x300000]), (4, 0, [0x200000,
      0x300000, 64, 0, 0, 0x11]), (5, 0, [0, 0x300000, 64, 0, 0, 5]), (6, 1, [0x400000, 0x300000]), (7, 1, [0x400000, 0x300000])].map fun x => pmS
      [pmE x.1 0 0 x.2.1 x.2.2] : List (State)).any fun s =>
    let r : Fin 64 := 2
    (([(.pmCopy r, 1), (.gather r, 2), (.scatter r, 3), (.convert r, 4), (.pmFill r, 5), (.dirtyGet r, 6), (.writeback r, 7)] : List (Instr ×
      Nat))[nth]?.toList).any fun o => ((s.ring .pm r).ents).any fun e =>
    let l := (if o.2 = 2 ∨ o.2 = 3 then (s.fetch e.owner (e.arg 0) (8 * e.npages) false).toOption.getD [] else [])
    let e1 := { e with bytes := e.bytes ++ l, sub := 1 }
    decide ((s.ringReady .pm r = some e) ∧ (e.opc = o.2) ∧ (e.pmBad = false) ∧ (((s.fetch e.owner (e.arg 0) (8 * e.npages) false).toOption.isSome =
      true ∨ l = [])) ∧ ((o.2 = 2 ∨ o.2 = 3 → ∀ j ∈ List.range e.npages, e1.listed j % 65536 = 0)) ∧ ((6 ≤ o.2 → e.arg 0 + 65536 * e.npages ≤
      0xA000000000)) ∧ ((∀ y ∈ e1.ranges, s.rangeBad e.owner y.1 y.2.1 y.2.2 = 0)) ∧ e1.pieces ≠ 0)) = true) ∧
    (
    (
    let s : State := pmS [pmE 5 0 1 0 [0, 0x300000, 64, 0, 0, 5]]
    let r : Fin 64 := 2
    let k : Nat := 0
    let piece : Nat := 0
    let x := s.ring .pm r
    (((x.ents.filter fun e => decide (0 < e.sub ∧ e.opc < 0x10))[k]?).toList).any fun e =>
    let dst := e.dst piece
    let t := (State.writeAt e.owner 16 s dst.1 ((List.range dst.2).map fun k => lget (natToBytes 8 (e.arg 5)) ((dst.1 - e.arg 1 + k) % 8) 0)).2
    decide ((s.isFatal = false) ∧ (e.nextOn (e.die piece) = some piece) ∧ (s.pieceWaits e piece = false) ∧ (e.opc = 5) ∧ State.writeAt e.owner 16 s
      dst.1 ((List.range dst.2).map fun k => lget (natToBytes 8 (e.arg 5)) ((dst.1 - e.arg 1 + k) % 8) 0) = (0, t))) = true) := by
  refine ⟨?_, ?_, ?_, ?_, ?_, ?_⟩ <;> decide +kernel

/-- A state and operands that meet the hypotheses of each clause of `MoverRowsComplete` (part 2). -/
theorem wit_MoverRowsComplete_b :
    (
    ( ([pmS [pmE 6 0 1 1 [0x400000, 0x300000]], pmS [pmE 7 0 1 1 [0x400000, 0x300000]]] : List (State)).any fun s =>
    let r : Fin 64 := 2
    let k : Nat := 0
    let piece : Nat := 0
    let x := s.ring .pm r
    ((s.ring .pm r).ents).any fun e =>
    let t := (if e.opc = 6 then (s.dirtyGet e piece).2.1 else (s.writeback e piece).2.1)
    let units := (if e.opc = 6 then (s.dirtyGet e piece).2.2 else (s.writeback e piece).2.2)
    decide (((x.ents.filter fun e => decide (0 < e.sub ∧ e.opc < 0x10))[k]? = some e) ∧ (s.isFatal = false) ∧ (e.nextOn (e.die piece) = some piece) ∧
      (s.pieceWaits e piece = false) ∧ ((e.opc = 4 ∧ s.convPiece e piece = (0, t) ∧ units = e.convElems (e.convBlocks piece).1 (e.convBlocks piece).2)
      ∨ (e.opc = 6 ∧ s.dirtyGet e piece = (0, t, units)) ∨ (e.opc = 7 ∧ s.writeback e piece = (0, t, units))))) = true) ∧
    (
    (
    let s : State := pmS [pmE 1 0 1 0 [0x200000, 0x300000, 64]]
    let r : Fin 64 := 2
    let k : Nat := 0
    let piece : Nat := 0
    let x := s.ring .pm r
    (((x.ents.filter fun e => decide (0 < e.sub ∧ e.opc < 0x10))[k]?).toList).any fun e =>
    let st : BitVec 16 := 4
    decide ((s.isFatal = false) ∧ (e.nextOn (e.die piece) = some piece) ∧ (s.pieceWaits e piece = false) ∧ st ≠ 0)) = true) ∧
    (
    (
    let s : State := pmS [pmE 1 0 1 0 [0x200000, 0x300000, 64]]
    let r : Fin 64 := 2
    let k : Nat := 0
    let piece : Nat := 0
    let first : List (Fin 36) := [0, 1]
    let again : List (Fin 36) := [0, 1]
    let x := s.ring .pm r
    (((x.ents.filter fun e => decide (0 < e.sub ∧ e.opc < 0x10))[k]?).toList).any fun e =>
    let src := e.srcOf piece
    let inSilo := 0 < src.2 ∧ src.1 + src.2 ≤ 0xA000000000
    decide ((s.isFatal = false) ∧ (e.nextOn (e.die piece) = some piece) ∧ (s.pieceWaits e piece = false) ∧ (inSilo) ∧ (2 ≤ first.eraseDups.length) ∧ 2
      ≤ again.eraseDups.length)) = true) ∧
    (
    (
    let s : State := pmS [pmE 1 0 1 0 [0x200000, 0x300000, 64]]
    let r : Fin 64 := 2
    let k : Nat := 0
    let piece : Nat := 1
    let x := s.ring .pm r
    (((x.ents.filter fun e => decide (0 < e.sub ∧ e.opc < 0x10))[k]?).toList).any fun e => decide ((s.isFatal = false) ∧ ((e.nextOn (e.die piece) ≠
      some piece ∨ s.pieceWaits e piece = true)))) = true) ∧
    (
    (
    let s : State := cacheS [(0x100000, some (frm 0 false))] [look 1]
    let r : Fin 64 := 2
    let p := s.rd .SILO_PMQ_PTRS r 0
    ((s.ringReady .pm r).toList).any fun e =>
    let c := nbits (e.arg 3) 19 16
    let hit := (s.regionFrames c).find? fun p => decide (!p.2.stale ∧ p.2.obj = e.arg 1 % 2 ^ 32 ∧ p.2.page = e.arg 1 / 2 ^ 32 ∧ p.2.ver = e.arg 2 % 2
      ^ 32)
    (((hit).map (·.1)).toList).any fun n => (((hit).map (·.2)).toList).any fun f => decide ((e.pmBad = false) ∧ (e.opc = 0x10) ∧ (s.rdF .SILO_CACHE c
      0 63 63 = 1) ∧ hit = (some (n, f) : Option (Nat × Frame)))) = true) ∧
    (
    (
    let s : State := cacheS [(0x100000, some (frm 1 false))] [look 2]
    let r : Fin 64 := 2
    let p := s.rd .SILO_PMQ_PTRS r 0
    ((s.ringReady .pm r).toList).any fun e =>
    let c := nbits (e.arg 3) 19 16
    let hit := (s.regionFrames c).find? fun p => decide (!p.2.stale ∧ p.2.obj = e.arg 1 % 2 ^ 32 ∧ p.2.page = e.arg 1 / 2 ^ 32 ∧ p.2.ver = e.arg 2 % 2
      ^ 32)
    let t := (s.takeFrame c).2
    decide ((e.pmBad = false) ∧ (e.opc = 0x10) ∧ (s.rdF .SILO_CACHE c 0 63 63 = 1) ∧ (hit = (none : Option (Nat × Frame))) ∧ (s.pagesFull false =
      false) ∧ s.takeFrame c = (none, t))) = true) := by
  refine ⟨?_, ?_, ?_, ?_, ?_, ?_⟩ <;> decide +kernel

/-- A state and operands that meet the hypotheses of each clause of `MoverRowsComplete` (part 3). -/
theorem wit_MoverRowsComplete_c :
    (
    (
    let s : State := cacheS [(0x100000, some (frm 0 false))] [look 2]
    let r : Fin 64 := 2
    let rv : List Rival := []
    let p := s.rd .SILO_PMQ_PTRS r 0
    ((s.ringReady .pm r).toList).any fun e =>
    let c := nbits (e.arg 3) 19 16
    let hit := (s.regionFrames c).find? fun p => decide (!p.2.stale ∧ p.2.obj = e.arg 1 % 2 ^ 32 ∧ p.2.page = e.arg 1 / 2 ^ 32 ∧ p.2.ver = e.arg 2 % 2
      ^ 32)
    ((s.takeFrame c).1.toList).any fun n =>
    let t := (s.takeFrame c).2
    let g : WPage := ⟨0, e.fn, 16, n, false, e.arg 0, t.frameAddr n, e.arg 1 % 2 ^ 32, e.arg 1 / 2 ^ 32, e.arg 2 % 2 ^ 32, e.arg 2 / 2 ^ 32, true, 0,
      [], false⟩
    let u := (t.winIntake g rv).2
    decide ((e.pmBad = false) ∧ (e.opc = 0x10) ∧ (s.rdF .SILO_CACHE c 0 63 63 = 1) ∧ (hit = (none : Option (Nat × Frame))) ∧ (s.pagesFull false =
      false) ∧ (s.takeFrame c = (some n, t)) ∧ (t.pageRefused g (e.arg 3 % 4096) true = 0) ∧ t.winIntake g rv = (true, u))) = true) ∧
    (
    ( ((List.range 64).map fun n => (cacheS [(0x100000, some (frm 0 false))] [look 2]).setWin { P.win with ringPtr := n } : List (State)).any fun s =>
    let r : Fin 64 := 2
    let rv : List Rival := [⟨2, 2, none⟩]
    let p := s.rd .SILO_PMQ_PTRS r 0
    ((s.ringReady .pm r).toList).any fun e =>
    let c := nbits (e.arg 3) 19 16
    let hit := (s.regionFrames c).find? fun p => decide (!p.2.stale ∧ p.2.obj = e.arg 1 % 2 ^ 32 ∧ p.2.page = e.arg 1 / 2 ^ 32 ∧ p.2.ver = e.arg 2 % 2
      ^ 32)
    ((s.takeFrame c).1.toList).any fun n =>
    let t := (s.takeFrame c).2
    let g : WPage := ⟨0, e.fn, 16, n, false, e.arg 0, t.frameAddr n, e.arg 1 % 2 ^ 32, e.arg 1 / 2 ^ 32, e.arg 2 % 2 ^ 32, e.arg 2 / 2 ^ 32, true, 0,
      [], false⟩
    let u := up0
    decide ((e.pmBad = false) ∧ (e.opc = 0x10) ∧ (s.rdF .SILO_CACHE c 0 63 63 = 1) ∧ (hit = (none : Option (Nat × Frame))) ∧ (s.pagesFull false =
      false) ∧ (s.takeFrame c = (some n, t)) ∧ (t.pageRefused g (e.arg 3 % 4096) true = 0) ∧ (t.winIntake g rv).1 = false)) = true) ∧
    (
    (
    let s : State := cacheS [(0x100000, some (frm 1 false))] [pmE 0x11 0 0 0 [0x500000]]
    let r : Fin 64 := 2
    ((s.ringReady .pm r).toList).any fun e => (((s.frameAt (e.arg 0)).map (·.1)).toList).any fun n => (((s.frameAt (e.arg 0)).map (·.2)).toList).any
      fun f => decide ((e.pmBad = false) ∧ (e.opc = 0x11) ∧ (s.frameAt (e.arg 0) = some (n, f)) ∧ f.pins ≠ 0)) = true) ∧
    (
    (
    let s : State := cacheS [(0x100000, some (frm 1 false))] [pmE 0x12 0 0 0 [0, 7, 1, 0x10000]]
    let r : Fin 64 := 2
    ((s.ringReady .pm r).toList).any fun e => decide ((e.pmBad = false) ∧ e.opc = 0x12)) = true) ∧
    (
    (
    let s : State := let a := zeroPage (cacheW [(0x100000, some (frm 1 true))] []); a.setWin
      { a.win with pages := [{ wpage 0x100000 with enc := false }] }
    let r : Fin 64 := 2
    let k : Nat := 0
    let p := s.rd .SILO_PMQ_PTRS r 0
    (s.win.pages).any fun g =>
    let t := (s.inbound g 0).2
    let f := frm 1 true
    decide (((s.win.pages.filter fun p => decide (p.ring = 16))[k]? = some g) ∧ ((s.inbound g 0).1 = some 0) ∧ t.frame g.ent = some f)) = true) ∧
    (
    (
    let s : State := cacheW [(0x100000, some (frm 1 true))] []
    let r : Fin 64 := 2
    let k : Nat := 0
    let p := s.rd .SILO_PMQ_PTRS r 0
    let st := 6
    (((s.win.pages.filter fun p => decide (p.ring = 16))[k]?).toList).any fun g =>
    let m : BitVec 16 := 6
    let t := (s.inbound g m.toNat).2
    decide ((st ≠ 0) ∧ s.inbound g m.toNat = (some st, t))) = true) := by
  refine ⟨?_, ?_, ?_, ?_, ?_, ?_⟩ <;> decide +kernel

/-- A state and operands that meet the hypotheses of each clause of `MoverRowsComplete` (part 4). -/
theorem wit_MoverRowsComplete_d :
    (
    (
    let s : State := pmS [pmE 1 0 1 0 [0x200000, 0x300000, 64]]
    let r : Fin 64 := 2
    let p := s.rd .SILO_PMQ_PTRS r 0
    let N := s.ringSize .pm r
    let x := s.ring .pm r
    ((s.ring .pm r).ents).any fun e =>
    let status := 0
    let result := 0
    (((s.setRing .pm r { x with ents := x.ents.filter fun y => decide (y.id ≠ e.id) }).put e.owner (s.ringBase .pm r + 64 * N + 16 * fld p 47 32)
      (cplBytes result (fld p 15 0) e.cid status x.phase) false).toOption.toList).any fun b => decide ((x.ents.find? (fun y => decide (y.id = e.id)) =
      some e) ∧ N ≤ 65536)) = true) := by decide +kernel

theorem piece_ok {s : State} {w : Who} {a b n : Nat} {la lb : Loc} (h1 : s.resolve w a n false false false = .ok la) (m1 : s.media a la n false = 0)
    (h2 : s.resolve w b n true false false = .ok lb) (m2 : s.media b lb n true = 0) :
    ∃ bs t, s.fetch w a n false = .ok bs ∧ s.put w b bs false = .ok t :=
  ⟨_, _, fetch_ok h1 m1, put_ok (l := lb) (by rw [readLoc_length]; exact h2) (by rw [readLoc_length]; exact m2)⟩
def piece (opc : Nat) (args : List Nat) : QEnt := pmE opc 0 1 (if opc = 1 then 0 else 1) args
def underWay (e : QEnt) : Prop := (((pmS [e]).ring .pm 2).ents.filter fun e => decide (0 < e.sub ∧ e.opc < 0x10))[0]? = some e ∧ (pmS [e]).isFatal = false

/-- A COPY, a GATHER and a SCATTER with a piece under way that can be read and written (clause 5 of `MoverRowsComplete`). -/
theorem wit_MoverRowsComplete_pieces :
    (underWay (piece 1 [0x200000, 0x300000, 64]) ∧ ∃ bs t, (pmS [piece 1 [0x200000, 0x300000, 64]]).fetch (.func 0) 0x200000 64 false = .ok bs ∧
      (pmS [piece 1 [0x200000, 0x300000, 64]]).put (.func 0) 0x300000 bs false = .ok t) ∧
    (underWay (piece 2 [0x400000, 0x300000]) ∧ ∃ bs t, (pmS [piece 2 [0x400000, 0x300000]]).fetch (.func 0) 0 65536 false = .ok bs ∧
      (pmS [piece 2 [0x400000, 0x300000]]).put (.func 0) 0x300000 bs false = .ok t) ∧
    (underWay (piece 3 [0x400000, 0x300000]) ∧ ∃ bs t, (pmS [piece 3 [0x400000, 0x300000]]).fetch (.func 0) 0x300000 65536 false = .ok bs ∧
      (pmS [piece 3 [0x400000, 0x300000]]).put (.func 0) 0 bs false = .ok t) := by
  refine ⟨⟨by unfold underWay; decide +kernel, piece_ok (la := .silo 0x200000) (lb := .silo 0x300000) ?_ ?_ ?_ ?_⟩,
    ⟨by unfold underWay; decide +kernel, piece_ok (la := .silo 0) (lb := .silo 0x300000) ?_ ?_ ?_ ?_⟩,
    ⟨by unfold underWay; decide +kernel, piece_ok (la := .silo 0x300000) (lb := .silo 0) ?_ ?_ ?_ ?_⟩⟩ <;> decide +kernel

def grn (st : Nat) (f : GrnPort → GrnPort) : State := (P.wrF .GRN_PORT_STATUS 2 0 2 0 st).setGport 2 (f (P.gport 2))
def grq (again wr : Bool) : GrnReq := ⟨5, wr, 0x300, 1, 0, again, 0, []⟩
def ctl0 : List Byte :=
  let b := natToBytes 2 0x00C1 ++ natToBytes 2 0 ++ natToBytes 2 1 ++ natToBytes 2 0 ++ natToBytes 4 3 ++ natToBytes 4 4 ++ List.replicate 236 0
  b ++ natToBytes 4 (crc32 b).toNat

/-- A state and operands that meet the hypotheses of each clause of `GranaryRowsComplete` (part 1). -/
theorem wit_GranaryRowsComplete_a :
    (
    let s : State := P
    let p : Fin 4 := 2
    let st := s.rdF .GRN_PORT_STATUS p 0 2 0
    (s.isFenced 8 (24 + p) = false) ∧ st ≤ 1) ∧
    (
    let s : State := grn 2 id
    let p : Fin 4 := 2
    let major : BitVec 8 := 1
    let st := s.rdF .GRN_PORT_STATUS p 0 2 0
    (st = 2) ∧ major = 1) ∧
    (
    let s : State := grn 2 id
    let p : Fin 4 := 2
    let major : BitVec 8 := 2
    let st := s.rdF .GRN_PORT_STATUS p 0 2 0
    (st = 2) ∧ major ≠ 1) ∧
    (
    let s : State := grn 3 id
    let p : Fin 4 := 2
    let ctl : List Byte := []
    let data : List (List Byte) := []
    let x := s.gport p
    let st := s.rdF .GRN_PORT_STATUS p 0 2 0
    ((st = 2 ∨ st = 3)) ∧ (groupOk ctl data = false) ∧ x.nackSent = false) ∧
    (
    let s : State := grn 3 fun x => { x with nackSent := true }
    let p : Fin 4 := 2
    let ctl : List Byte := []
    let data : List (List Byte) := []
    let x := s.gport p
    let st := s.rdF .GRN_PORT_STATUS p 0 2 0
    ((st = 2 ∨ st = 3)) ∧ (groupOk ctl data = false) ∧ x.nackSent = true) ∧
    (
    let s : State := grn 3 fun x => { x with replay := [⟨0, false, [], []⟩, ⟨1, false, [], []⟩] }
    let p : Fin 4 := 2
    let ctl : List Byte := ctl0
    let data : List (List Byte) := []
    let x := s.gport p
    let st := s.rdF .GRN_PORT_STATUS p 0 2 0
    ((st = 2 ∨ st = 3)) ∧ (groupOk ctl data = true) ∧ (le ctl 2 2 = x.rxSeq) ∧ (le ctl 6 1 = 0) ∧ (nbit (le ctl 7 1) 0 = false) ∧ x.rx = []) := by
  refine ⟨?_, ?_, ?_, ?_, ?_, ?_⟩ <;> decide +kernel

/-- A state and operands that meet the hypotheses of each clause of `GranaryRowsComplete` (part 2). -/
theorem wit_GranaryRowsComplete_b :
    (
    let s : State := grn 3 id
    let p : Fin 4 := 2
    let st := s.rdF .GRN_PORT_STATUS p 0 2 0
    ((st = 2 ∨ st = 3))) ∧
    (
    let s : State := grn 3 id
    let p : Fin 4 := 2
    let x := s.gport p
    let st := s.rdF .GRN_PORT_STATUS p 0 2 0
    (st = 3) ∧ x.replay.length < 64) ∧
    (
    (
    let s : State := grn 3 fun x => { x with msgCr := 1, dataCr := 1 }
    let w : Agent := .firmware
    let p : Fin 4 := 2
    let who : Fin 4 := 1
    let ra : BitVec 56 := 0x300
    let units : Fin 16 := 0
    let rv : List Rival := []
    let x := s.gport p
    let st := s.rdF .GRN_PORT_STATUS p 0 2 0
    let grant := ringGrant s.grnSlots (mget dNat s.tier.grnPtr p) fun w => decide (w = who.val) || rv.any fun r => decide (r.idx % 4 = w)
    let wins := ∃ i, grant = some i ∧ s.grnSlots[i]? = some who.val
    decide ((st = 3) ∧ (x.again = []) ∧ (wins) ∧ (ra.toNat % 256 = 0) ∧ (0 < x.msgCr) ∧ (x.replay.length < 64) ∧ (x.freeTags ≠ []) ∧ units.val + 1 ≤
      x.room)) = true) ∧
    (
    (
    let s : State := grn 3 fun x => { x with msgCr := 1, dataCr := 1 }
    let w : Agent := .firmware
    let p : Fin 4 := 2
    let bs : List Byte := List.replicate 256 7
    let who : Fin 4 := 1
    let ra : BitVec 56 := 0x300
    let units : Fin 16 := 0
    let rv : List Rival := []
    let x := s.gport p
    let st := s.rdF .GRN_PORT_STATUS p 0 2 0
    let grant := ringGrant s.grnSlots (mget dNat s.tier.grnPtr p) fun w => decide (w = who.val) || rv.any fun r => decide (r.idx % 4 = w)
    let wins := ∃ i, grant = some i ∧ s.grnSlots[i]? = some who.val
    decide ((st = 3) ∧ (x.again = []) ∧ (wins) ∧ (ra.toNat % 256 = 0) ∧ (0 < x.msgCr) ∧ (x.replay.length < 64) ∧ (x.freeTags ≠ []) ∧ (units.val + 1 ≤
      x.dataCr) ∧ bs.length = 256 * (units.val + 1))) = true) ∧
    (
    ( ((List.range 16).map fun k => { P with tier := { P.tier with grnPtr := [(2, k)] } } : List (State)).any fun s =>
    let w : Agent := .firmware
    let p : Fin 4 := 2
    let who : Fin 4 := 1
    let ra : BitVec 56 := 0x300
    let rv : List Rival := [⟨2, 2, none⟩]
    let x := s.gport p
    let grant := ringGrant s.grnSlots (mget dNat s.tier.grnPtr p) fun w => decide (w = who.val) || rv.any fun r => decide (r.idx % 4 = w)
    ((grant).toList).any fun i => decide ((x.again = []) ∧ (ra.toNat % 256 = 0) ∧ s.grnSlots[i]? ≠ some who.val)) = true) ∧
    (
    (
    let s : State := grn 3 fun x => { x with out := [grq false true] }
    let p : Fin 4 := 2
    let tag : Fin 4096 := 5
    let x := s.gport p
    let st := s.rdF .GRN_PORT_STATUS p 0 2 0
    ((x.out.find? (fun r => decide (r.tag = tag.val))).toList).any fun q => decide ((st = 3) ∧ (q.again = false) ∧ q.wr = true)) = true) := by
  refine ⟨?_, ?_, ?_, ?_, ?_, ?_⟩ <;> decide +kernel

/-- A state and operands that meet the hypotheses of each clause of `GranaryRowsComplete` (part 3). -/
theorem wit_GranaryRowsComplete_c :
    (
    (
    let s : State := grn 3 fun x => { x with out := [grq false false] }
    let p : Fin 4 := 2
    let tag : Fin 4096 := 5
    let x := s.gport p
    let st := s.rdF .GRN_PORT_STATUS p 0 2 0
    ((x.out.find? (fun r => decide (r.tag = tag.val))).toList).any fun q => decide ((st = 3) ∧ q.again = false)) = true) ∧
    (
    (
    let s : State := grn 3 fun x => { x with out := [grq true false] }
    let p : Fin 4 := 2
    let tag : Fin 4096 := 5
    let x := s.gport p
    let st := s.rdF .GRN_PORT_STATUS p 0 2 0
    ((x.out.find? (fun r => decide (r.tag = tag.val))).toList).any fun q => decide ((st = 3) ∧ q.again = true)) = true) ∧
    (
    (
    let s : State := grn 3 fun x => { x with out := [grq false false] }
    let p : Fin 4 := 2
    let tag : Fin 4096 := 5
    let x := s.gport p
    ((x.out.find? (fun r => decide (r.tag = tag.val))).toList).any fun q => decide ((x.quar.length < 1024) ∧ q.again = false)) = true) ∧
    (
    let s : State := up0
    let w : Agent := .firmware
    let p : Fin 4 := 2
    (Allowed s w .GRN_PORT_CTL p 0) ∧ s.isFenced 8 (24 + p) = false) := by
  refine ⟨?_, ?_, ?_, ?_⟩ <;> decide +kernel

/-- Ring 3 of the winnower, on and owned by function `fn`: 16 entries at silo address 0x100000. -/
def winS (fn : Nat) (es : List QEnt) : State :=
  ((P.wr .WIN_Q_CFG 3 0 (BitVec.ofNat 64 (0xC000000000100000 + fn * 2 ^ 54))).wr .WIN_Q_PTRS 3 0 0x10000).setRing .win 3 { Qp.reset with ents := es }
def winE (opc flags fn : Nat) (args : List Nat) : QEnt := mkEnt 1 opc flags (256 + fn) 0 2 1 args
def man0 (kind model : Nat) : List Byte :=
  natToBytes 4 0x4E4D4C46 ++ [0, 1, BitVec.ofNat 8 kind, 0] ++ natToBytes 8 256 ++ natToBytes 8 model ++ natToBytes 4 9 ++ natToBytes 4 1 ++
    natToBytes 4 1 ++ natToBytes 2 2 ++ natToBytes 2 0 ++ natToBytes 8 64 ++ natToBytes 8 128 ++ natToBytes 4 1 ++ natToBytes 4 0 ++ natToBytes 4 7 ++
    natToBytes 4 0 ++ natToBytes 4 1 ++ List.replicate 52 0 ++ natToBytes 4 7 ++ List.replicate 12 0 ++ natToBytes 8 0x200000000100 ++ List.replicate 40 0
/-- A manifest of `kind` at silo address 0x600000, under key slot 2. -/
def withMan (kind model key sig : Nat) (s : State) : State :=
  let t := (s.store .silo 0x600000 (man0 kind model ++ beBytes 32 sig ++ beBytes 32 sig)).wr .HSP_KSLOT_A 2 0
    (BitVec.ofNat 64 (2 * 2 ^ 62 + 2 ^ 61 + 2 ^ 55))
  t.setHasp { t.hasp with keys := [(2, beBytes 64 key)] }
def man00 (s : State) : State := withMan 0 1 0x2b432e05a77c0ed18230dbc0832115484f92d711841a59f1589a8439ab16acbd74f71f97c185c52fde7cb1499c02372aa614da468e4efa28a10f90e8a95054a4
  0x12ab3362196f618c3400a383f12cbb98a3bcead8fd88bc32ed8fb735ed67b76 s
def man11 (s : State) : State := withMan 1 3 0x55c0952a6d4bbece74dd17f4fe10024c4d80e402029b3b066f82a2d0330be9ea22c4c1fcd0856bb5ca68fbbadb0663e4f02c90ea1f4769cd66963faaa6eb7686
  0x681646edb0a711a09562316137542899b51de2e70db3b91fc4b71b6f2380fc30 s
def sw (flags : Nat) (f : WModel → WModel) (ver : Nat) : State :=
  let s := man00 (winS 0 [winE 0x10 flags 0 [0x600000, 4, 0]])
  (s.wrF .WIN_WS_A 5 0 63 32 ver).setWin { s.win with models := [(4, f (s.wmodel 4))] }
/-- A page operation of winnower ring 3. -/
def pageS (out again : Bool) (f : State → State) : State :=
  let s := f (winS 0 [{ winE 1 0 0 [] with sub := 1 }])
  s.setWin { s.win with pages := [{ wpage 1 with ring := 3, enc := false, again := again, out := out }] }
def loadS (f : Load → Load) : State :=
  let s := winS 0 []
  s.setWin { s.win with loads := [f ⟨1, 3, 1, 256, false, 4, 0, man0 0 1, 5, 0x90, 0, 1, [⟨0, 0, 0, none, []⟩], 0⟩] }

/-- A state and operands that meet the hypotheses of each clause of `WinnowerRowsComplete` (part 1). -/
theorem wit_WinnowerRowsComplete_a :
    (
    ((List.range 2).all fun nth => ([(1, [0x200000000100, 0x500000, 7, 24 * 2 ^ 32 + 1, 0]), (2, [0x500000, 0x200000000100, 7, 1, 0])].map fun x =>
      winS 0 [winE x.1 0 0 x.2] : List (State)).any fun s =>
    let r : Fin 16 := 3
    let e : QEnt := (s.ring .win r).ents.headD (mkEnt 0 0 0 0 0 0 0 [])
    let rv : List Rival := []
    let at' := fun (op : Nat) => s.ringReady .win r = some e ∧ e.winBad = false ∧ e.opc = op
    let pg : WPage := ⟨0, e.fn, r, e.id, false, e.arg 0, e.arg 1, e.arg 2 % 2 ^ 32, e.arg 2 / 2 ^ 32, e.arg 3 % 2 ^ 32, e.arg 3 / 2 ^ 32, nbit (e.arg
      4) 16, 0, [], false⟩
    let pgOut : WPage := { pg with out := true, lower := e.arg 1, silo := e.arg 0, slen := 0, wcode := nbits (e.arg 4) 25 24 }
    (([(.openPage r rv, 1, pg), (.sealPage r rv, 2, pgOut)] : List (Instr × Nat × WPage))[nth]?.toList).any fun o =>
    let t := (s.winIntake o.2.2 rv).2
    decide ((at' o.2.1) ∧ (s.pagesFull o.2.2.out = false) ∧ (s.pageRefused o.2.2 (e.arg 4 % 4096) false = 0) ∧ s.winIntake o.2.2 rv = (true, t))) =
      true) ∧
    (
    ((List.range 2).all fun nth => ([(1, 2, [0x200000000100, 0x500000, 7, 24 * 2 ^ 32 + 1, 0]), (2, 0, [0x500000, 0x200000000100, 7, 1, 0])].map fun x
      => (winS 0 [winE x.1 0 0 x.2.2]).setWin { P.win with ringPtr := x.2.1 } : List (State)).any fun s =>
    let r : Fin 16 := 3
    let e : QEnt := (s.ring .win r).ents.headD (mkEnt 0 0 0 0 0 0 0 [])
    ([[⟨2, 2, none⟩], [⟨0, 2, none⟩]] : List (List Rival)).any fun rv =>
    let at' := fun (op : Nat) => s.ringReady .win r = some e ∧ e.winBad = false ∧ e.opc = op
    let pg : WPage := ⟨0, e.fn, r, e.id, false, e.arg 0, e.arg 1, e.arg 2 % 2 ^ 32, e.arg 2 / 2 ^ 32, e.arg 3 % 2 ^ 32, e.arg 3 / 2 ^ 32, nbit (e.arg
      4) 16, 0, [], false⟩
    let pgOut : WPage := { pg with out := true, lower := e.arg 1, silo := e.arg 0, slen := 0, wcode := nbits (e.arg 4) 25 24 }
    (([(.openPage r rv, 1, pg), (.sealPage r rv, 2, pgOut)] : List (Instr × Nat × WPage))[nth]?.toList).any fun o =>
    let t := (s.winIntake o.2.2 rv).2
    decide ((at' o.2.1) ∧ (s.pagesFull o.2.2.out = false) ∧ (s.pageRefused o.2.2 (e.arg 4 % 4096) false = 0) ∧ s.winIntake o.2.2 rv = (false, t))) =
      true) ∧
    (
    ((List.range 2).all fun nth => ([(1, [0x200000000100, 0x500000, 7, 24 * 2 ^ 32 + 1, 0x10000]), (2, [0x500000, 0x200000000100, 7, 1, 0x10000])].map
      fun x => winS 0 [winE x.1 0 0 x.2] : List (State)).any fun s =>
    let r : Fin 16 := 3
    let e : QEnt := (s.ring .win r).ents.headD (mkEnt 0 0 0 0 0 0 0 [])
    let rv : List Rival := []
    let at' := fun (op : Nat) => s.ringReady .win r = some e ∧ e.winBad = false ∧ e.opc = op
    let pg : WPage := ⟨0, e.fn, r, e.id, false, e.arg 0, e.arg 1, e.arg 2 % 2 ^ 32, e.arg 2 / 2 ^ 32, e.arg 3 % 2 ^ 32, e.arg 3 / 2 ^ 32, nbit (e.arg
      4) 16, 0, [], false⟩
    let pgOut : WPage := { pg with out := true, lower := e.arg 1, silo := e.arg 0, slen := 0, wcode := nbits (e.arg 4) 25 24 }
    (([(.openPage r rv, 1, pg), (.sealPage r rv, 2, pgOut)] : List (Instr × Nat × WPage))[nth]?.toList).any fun o =>
    let st := 2
    decide ((at' o.2.1) ∧ (s.pagesFull o.2.2.out = false) ∧ (st ≠ 0) ∧ s.pageRefused o.2.2 (e.arg 4 % 4096) false = st)) = true) ∧
    (
    (
    let s : State := pageS false false zeroPage
    let k : Nat := 0
    (s.win.pages).any fun g =>
    let t := (s.inbound g 0).2
    decide (((s.win.pages.filter fun p => decide (p.ring < 16 ∧ !p.out))[k]? = some g) ∧ (s.inbound g 0).1 = some 0)) = true) ∧
    (
    (
    let s : State := pageS false false id
    let k : Nat := 0
    (s.win.pages).any fun g =>
    let t := (s.inbound g 0).2
    decide (((s.win.pages.filter fun p => decide (p.ring < 16 ∧ !p.out))[k]? = some g) ∧ (s.inbound g 0).1 = none)) = true) ∧
    (
    (
    let s : State := pageS false true id
    let k : Nat := 0
    (s.win.pages).any fun g =>
    let t := (s.inbound g 0).2
    let st := 0x0901
    decide (((s.win.pages.filter fun p => decide (p.ring < 16 ∧ !p.out))[k]? = some g) ∧ (st ≠ 0) ∧ (s.inbound g 0).1 = some st)) = true) := by
  refine ⟨?_, ?_, ?_, ?_, ?_, ?_⟩ <;> decide +kernel

/-- A state and operands that meet the hypotheses of each clause of `WinnowerRowsComplete` (part 2). -/
theorem wit_WinnowerRowsComplete_b :
    (
    (
    let s : State := pageS true false id
    let k : Nat := 0
    (s.win.pages).any fun g =>
    let st := (s.outbound g 0).1
    let n := (s.outbound g 0).2.1
    let t := (s.outbound g 0).2.2
    decide (((s.win.pages.filter fun p => decide (p.ring < 16 ∧ p.out))[k]? = some g))) = true) ∧
    (
    (
    let s : State := sw 0 (fun x => { x with op := 1 }) 1
    let r : Fin 16 := 3
    let e : QEnt := (s.ring .win r).ents.headD (mkEnt 0 0 0 0 0 0 0 [])
    let m := e.arg 1 % 256
    let x := s.wmodel m
    let at' := fun (op : Nat) => s.ringReady .win r = some e ∧ e.winBad = false ∧ e.opc = op
    let priv := fun (op : Nat) => at' op ∧ s.ownerPl1 e.fn = true
    ((s.manifest e.fn (e.arg 0) 0).toOption.toList).any fun man => decide (((s.win.models.all fun y => decide (¬ (y.2.op = 2 ∧ y.2.wants = true ∧
      y.2.ring = r.val))) = true) ∧ (priv 0x10) ∧ (x.op ≠ 0 ∨ (x.rets ≠ [] ∧ nbit e.flags 1 = false)))) = true) ∧
    (
    (
    let s : State := sw 0 (fun x => { x with cur := some 5 }) 9
    let r : Fin 16 := 3
    let e : QEnt := (s.ring .win r).ents.headD (mkEnt 0 0 0 0 0 0 0 [])
    let m := e.arg 1 % 256
    let x := s.wmodel m
    let at' := fun (op : Nat) => s.ringReady .win r = some e ∧ e.winBad = false ∧ e.opc = op
    let priv := fun (op : Nat) => at' op ∧ s.ownerPl1 e.fn = true
    ((s.manifest e.fn (e.arg 0) 0).toOption.toList).any fun man => decide (((s.win.models.all fun y => decide (¬ (y.2.op = 2 ∧ y.2.wants = true ∧
      y.2.ring = r.val))) = true) ∧ (priv 0x10) ∧ (x.op = 0) ∧ ((x.rets = [] ∨ nbit e.flags 1 = true)) ∧ (∃ w ∈ x.cur.toList ++ x.rets, s.rdF
      .WIN_WS_A w 0 63 32 = manVersion man))) = true) ∧
    (
    (
    let s : State := sw 2 (fun x => { x with cur := some 5 }) 8
    let r : Fin 16 := 3
    let e : QEnt := (s.ring .win r).ents.headD (mkEnt 0 0 0 0 0 0 0 [])
    let m := e.arg 1 % 256
    let x := s.wmodel m
    let at' := fun (op : Nat) => s.ringReady .win r = some e ∧ e.winBad = false ∧ e.opc = op
    let priv := fun (op : Nat) => at' op ∧ s.ownerPl1 e.fn = true
    ((s.manifest e.fn (e.arg 0) 0).toOption.toList).any fun man => decide (((s.win.models.all fun y => decide (¬ (y.2.op = 2 ∧ y.2.wants = true ∧
      y.2.ring = r.val))) = true) ∧ (priv 0x10) ∧ (x.op = 0) ∧ ((x.rets = [] ∨ nbit e.flags 1 = true)) ∧ ((∀ w ∈ x.cur.toList ++ x.rets, s.rdF
      .WIN_WS_A w 0 63 32 ≠ manVersion man)) ∧ (nbit e.flags 1 = true) ∧ x.cur.toList ++ x.rets ≠ [])) = true) ∧
    (
    (
    let s : State := sw 0 id 8
    let r : Fin 16 := 3
    let e : QEnt := (s.ring .win r).ents.headD (mkEnt 0 0 0 0 0 0 0 [])
    let base : Option (BitVec 24) := some 0x90
    let m := e.arg 1 % 256
    let x := s.wmodel m
    let at' := fun (op : Nat) => s.ringReady .win r = some e ∧ e.winBad = false ∧ e.opc = op
    let priv := fun (op : Nat) => at' op ∧ s.ownerPl1 e.fn = true
    ((s.manifest e.fn (e.arg 0) 0).toOption.toList).any fun man => ((((s.countAt (e.arg 0) man.length).setWModel m
      { x with op := 1, ring := r, ent := e.id, fn := e.fn, closed := 0 }).takeImage false e.fn r e.id m 0 (e.arg 2) man (base.map
      BitVec.toNat)).toOption.toList).any fun t => decide (((s.win.models.all fun y => decide (¬ (y.2.op = 2 ∧ y.2.wants = true ∧ y.2.ring = r.val)))
      = true) ∧ (priv 0x10) ∧ (x.op = 0) ∧ ((x.rets = [] ∨ nbit e.flags 1 = true)) ∧ ((∀ w ∈ x.cur.toList ++ x.rets, s.rdF .WIN_WS_A w 0 63 32 ≠
      manVersion man)) ∧ (nbit e.flags 1 = false ∨ x.cur.toList ++ x.rets = []))) = true) ∧
    (
    (
    let s : State := sw 0 id 8
    let r : Fin 16 := 3
    let e : QEnt := (s.ring .win r).ents.headD (mkEnt 0 0 0 0 0 0 0 [])
    let base : Option (BitVec 24) := none
    let m := e.arg 1 % 256
    let x := s.wmodel m
    let at' := fun (op : Nat) => s.ringReady .win r = some e ∧ e.winBad = false ∧ e.opc = op
    let priv := fun (op : Nat) => at' op ∧ s.ownerPl1 e.fn = true
    ((s.manifest e.fn (e.arg 0) 0).toOption.toList).any fun man => (errOf (((s.countAt (e.arg 0) man.length).setWModel m
      { x with op := 1, ring := r, ent := e.id, fn := e.fn, closed := 0 }).takeImage false e.fn r e.id m 0 (e.arg 2) man (base.map BitVec.toNat))).any
      fun st => decide (((s.win.models.all fun y => decide (¬ (y.2.op = 2 ∧ y.2.wants = true ∧ y.2.ring = r.val))) = true) ∧ (priv 0x10) ∧ (x.op = 0)
      ∧ ((x.rets = [] ∨ nbit e.flags 1 = true)) ∧ ((∀ w ∈ x.cur.toList ++ x.rets, s.rdF .WIN_WS_A w 0 63 32 ≠ manVersion man)) ∧ (nbit e.flags 1 =
      false ∨ x.cur.toList ++ x.rets = []))) = true) := by
  refine ⟨?_, ?_, ?_, ?_, ?_, ?_⟩ <;> decide +kernel

/-- A state and operands that meet the hypotheses of each clause of `WinnowerRowsComplete` (part 3). -/
theorem wit_WinnowerRowsComplete_c :
    (
    (
    let s : State := man11 (winS 0 [winE 0x11 0 0 [0x600000, 4 + 2 ^ 32, 0]])
    let r : Fin 16 := 3
    let e : QEnt := (s.ring .win r).ents.headD (mkEnt 0 0 0 0 0 0 0 [])
    let base : Option (BitVec 24) := some 0x90
    let m := e.arg 1 % 256
    let at' := fun (op : Nat) => s.ringReady .win r = some e ∧ e.winBad = false ∧ e.opc = op
    let priv := fun (op : Nat) => at' op ∧ s.ownerPl1 e.fn = true
    ((s.manifest e.fn (e.arg 0) 1).toOption.toList).any fun man => (((s.countAt (e.arg 0) man.length).takeImage true e.fn r e.id m (e.arg 1 / 2 ^ 32)
      (e.arg 2) man (base.map BitVec.toNat)).toOption.toList).any fun t => decide (priv 0x11)) = true) ∧
    (
    let s : State := (winS 0 [winE 0x12 0 0 [0, 4 + 7 * 2 ^ 32]]).setWModel 4 { WModel.reset with binds := [(7, 3)] }
    let r : Fin 16 := 3
    let e : QEnt := (s.ring .win r).ents.headD (mkEnt 0 0 0 0 0 0 0 [])
    let m := e.arg 1 % 256
    let at' := fun (op : Nat) => s.ringReady .win r = some e ∧ e.winBad = false ∧ e.opc = op
    let priv := fun (op : Nat) => at' op ∧ s.ownerPl1 e.fn = true
    (priv 0x12) ∧ (s.binding m (e.arg 1 / 2 ^ 32)).isSome = true) ∧
    (
    let s : State := winS 0 [winE 0x12 0 0 [0, 4 + 7 * 2 ^ 32]]
    let r : Fin 16 := 3
    let e : QEnt := (s.ring .win r).ents.headD (mkEnt 0 0 0 0 0 0 0 [])
    let m := e.arg 1 % 256
    let x := s.wmodel m
    let at' := fun (op : Nat) => s.ringReady .win r = some e ∧ e.winBad = false ∧ e.opc = op
    let priv := fun (op : Nat) => at' op ∧ s.ownerPl1 e.fn = true
    (priv 0x12) ∧ (s.binding m (e.arg 1 / 2 ^ 32) = none) ∧ (∀ b ∈ x.pbinds, b.1 ≠ e.arg 1 / 2 ^ 32)) ∧
    (
    let s : State := winS 0 [winE 0x13 0 0 [0, 4]]
    let r : Fin 16 := 3
    let e : QEnt := (s.ring .win r).ents.headD (mkEnt 0 0 0 0 0 0 0 [])
    let m := e.arg 1 % 256
    let x := s.wmodel m
    let at' := fun (op : Nat) => s.ringReady .win r = some e ∧ e.winBad = false ∧ e.opc = op
    let priv := fun (op : Nat) => at' op ∧ s.ownerPl1 e.fn = true
    (priv 0x13) ∧ x.op = 0) ∧
    (
    ((List.range 3).all fun nth => ([(0x11, [0x600000, 4, 0]), (0x12, [0, 4, 0]), (0x13, [0, 4])].map fun x => winS 3 [winE x.1 0 3 x.2] : List
      (State)).any fun s =>
    let r : Fin 16 := 3
    let e : QEnt := (s.ring .win r).ents.headD (mkEnt 0 0 0 0 0 0 0 [])
    let base : Option (BitVec 24) := some 0x90
    let at' := fun (op : Nat) => s.ringReady .win r = some e ∧ e.winBad = false ∧ e.opc = op
    let op := e.opc
    (([(.adapterLoad r base, 0x11), (.adapterUnbind r, 0x12), (.unload r, 0x13)] : List (Instr × Nat))[nth]?.toList).any fun o => decide ((at' op) ∧
      (s.ownerPl1 e.fn = false) ∧ o.2 = op)) = true) ∧
    (
    (
    let s : State := loadS id
    let k : Nat := 0
    let j : Nat := 0
    ((s.win.loads[k]?).toList).any fun l => ((l.live.find? (fun h => decide (h.idx = j))).toList).any fun h => decide (l.isBcast = false)) = true) := by
  refine ⟨?_, ?_, ?_, ?_, ?_, ?_⟩ <;> decide +kernel

/-- A state and operands that meet the hypotheses of each clause of `WinnowerRowsComplete` (part 4). -/
theorem wit_WinnowerRowsComplete_d :
    (
    (
    let s : State := loadS fun l => { l with bcast := 1 }
    let k : Nat := 0
    let j : Nat := 0
    ((s.win.loads[k]?).toList).any fun l => ((l.live.find? (fun h => decide (h.idx = j))).toList).any fun h => ((s.shardBytes l
      h).toOption.toList).any fun bs => decide ((l.isBcast = true) ∧ (l.reads h.idx = true) ∧ h.attempt = 0)) = true) ∧
    (
    (
    let s : State := loadS id
    let k : Nat := 0
    let j : Nat := 0
    ((s.win.loads[k]?).toList).any fun l => ((l.live.find? (fun h => decide (h.idx = j))).toList).any fun h => decide (True)) = true) ∧
    (
    (
    let s : State := loadS fun l => { l with bcast := 1 + 2 ^ 16 + 2 ^ 20 }
    let k : Nat := 0
    let j : Nat := 0
    ((s.win.loads[k]?).toList).any fun l => ((l.live.find? (fun h => decide (h.idx = j))).toList).any fun h => decide ((h.attempt = 0) ∧ l.reads h.idx
      = false)) = true) ∧
    (
    (
    let s : State := loadS id
    let k : Nat := 0
    let j : Nat := 0
    ((s.win.loads[k]?).toList).any fun l => ((l.live.find? (fun h => decide (h.idx = j))).toList).any fun h => decide ((l.failed = 0) ∧ h.attempt =
      0)) = true) ∧
    (
    (
    let s : State := loadS fun l => { l with live := [] }
    let k : Nat := 0
    ((s.win.loads[k]?).toList).any fun l => decide ((l.failed = 0) ∧ (l.live = []) ∧ manNshard l.man ≤ l.next)) = true) := by
  refine ⟨?_, ?_, ?_, ?_, ?_⟩ <;> decide +kernel

/-- A request descriptor of class 0: one prompt token at 0x200000002000, `maxNew` new tokens to 0x200000003000. -/
def desc (maxNew : Nat) : List Byte :=
  natToBytes 4 0 ++ natToBytes 4 1 ++ natToBytes 4 maxNew ++ natToBytes 4 0 ++ natToBytes 8 0x200000002000 ++ natToBytes 8 0x200000003000 ++
    natToBytes 4 4 ++ List.replicate 220 0
/-- Model 4 enabled with weight set 5, class 0 enabled, and a request-class entry on queue pair 9. -/
def glnS (opc addr maxNew : Nat) : State :=
  let s := withQ 9 [mkEnt 1 opc 0 0 2 2 4 [addr]] (qp9 2 1)
  let t := (((s.wr .GLN_CLS_CFG 0 0 0x8000000000000000).wr .GLN_MODEL_A 4 0 0x8000000000000000).wr .GLN_MODEL_B 4 0 0x0010010000001000).wr .GLN_PTAB 0 0 0x8000000000000000
  (t.store .host 0x4000 (desc maxNew)).setWin { t.win with models := [(4, { WModel.reset with cur := some 5 })] }
def reqS (f : Req → Req) : State := P.setReq 3 (f { Req.reset with st := 1, model := 4 })
def copyS : State :=
  let s := reqS fun r => { r with copying := true, lender := some 2, pages := [8] }
  ((s.setPfx 2 { Pfx.reset with st := 2, pages := [7] }).wrF .SILO_PMQ_CFG 0 0 63 61 5).wr .GLN_MODEL_B 4 0 0x0010010000001000
def out3 : GOut := ⟨3, 0, 0x200000003000, [7], 0, 0, none⟩

/-- A state and operands that meet the hypotheses of each clause of `RequestRowsComplete` (part 1). -/
theorem wit_RequestRowsComplete_a :
    (
    ((List.range 2).all fun nth => ([(0x30, 1), (0x32, 0)].map fun x => glnS x.1 0x200000004020 x.2 : List (State)).any fun s =>
    let q : Fin 16384 := 9
    (([(.submit q, 0x30, false), (.prefixCreate q, 0x32, true)] : List (Instr × Nat × Bool))[nth]?.toList).any fun o => ((s.glnEnt q
      o.2.1).toList).any fun e => (errOf (s.submitCheck q e o.2.2)).any fun st => decide (True)) = true) ∧
    (
    ((List.range 2).all fun nth => ([(0x30, 1), (0x32, 0)].map fun x => glnS x.1 0x200000004000 x.2 : List (State)).any fun s =>
    let q : Fin 16384 := 9
    (([(.submit q, 0x30, false), (.prefixCreate q, 0x32, true)] : List (Instr × Nat × Bool))[nth]?.toList).any fun o => ((s.glnEnt q
      o.2.1).toList).any fun e => ((s.submitCheck q e o.2.2).toOption.toList).any fun d => decide ((s.req 0).st = 0)) = true) ∧
    (
    ((List.range 3).all fun nth => ([0x31, 0x33, 0x34].map fun x => glnS x 7 1 : List (State)).any fun s =>
    let q : Fin 16384 := 9
    (([(.cancel q, 0x31), (.prefixRelease q, 0x33), (.prefixPin q, 0x34)] : List (Instr × Nat))[nth]?.toList).any fun o => ((s.glnEnt q
      o.2).toList).any fun e => decide (True)) = true) ∧
    (
    let s : State := reqS id
    let k : Fin 65536 := 3
    (s.req k).st = 1) ∧
    (
    (
    let s : State := { P with gln := { P.gln with out := [out3] } }
    let k : Fin 65536 := 3
    ((s.gln.out.find? (fun o => decide (o.req = k.val))).toList).any fun o => decide (s.isFatal = false)) = true) ∧
    (
    let s : State := copyS
    let k : Fin 65536 := 3
    let fail : BitVec 16 := 5
    let r := s.req k
    let ok := r.copying = true ∧ s.isFatal = false ∧ s.rdF .SILO_PMQ_CFG (s.rdF .GLN_CTL 0 0 37 32) 0 63 61 = 5
    (ok) ∧ fail ≠ 0) := by
  refine ⟨?_, ?_, ?_, ?_, ?_, ?_⟩ <;> decide +kernel

/-- A state and operands that meet the hypotheses of each clause of `RequestRowsComplete` (part 2). -/
theorem wit_RequestRowsComplete_b :
    (
    let s : State := P
    let w : Agent := .firmware
    let c : Fin 16 := 0
    let v : BitVec 64 := 1
    (Allowed s w .GLN_CLS_HCTL c 0) ∧ (v.getLsbD 0 = true) ∧ s.anyStep = false) ∧
    (
    let s : State := P.setGStep 4 { GStep.reset with stage := 1 }
    let w : Agent := .firmware
    let c : Fin 16 := 0
    let v : BitVec 64 := 1
    (Allowed s w .GLN_CLS_HCTL c 0) ∧ (v.getLsbD 0 = true) ∧ s.anyStep = true) := by
  refine ⟨?_, ?_⟩ <;> decide +kernel

theorem mget_const {α : Type} (d : Nat → α) (x : α) (k : Nat) (l : List Nat) (h : k ∈ l) : mget d (l.map fun i => (i, x)) k = x := by
  induction l with
  | nil => cases h
  | cons a l ih =>
    by_cases ha : a = k
    · simp [mget, ha]
    · have : k ∈ l := by
        rcases List.mem_cons.mp h with h | h
        · exact absurd h.symm ha
        · exact h
      simp [mget, ha, ih this]

def busyS : State :=
  let s := glnS 0x30 0x200000004000 1
  { s with gln := { s.gln with reqs := (List.range 65536).map fun i => (i, { Req.reset with st := 1 }) } }
theorem wit_RequestRowsComplete_2 : ∃ e d, busyS.glnEnt 9 0x30 = some e ∧ busyS.submitCheck 9 e false = .ok d ∧ ∀ i, i < 65536 → (busyS.req i).st ≠ 0 := by
  have hany : (busyS.ownReqs.any fun p => busyS.attached 9 p.2 && p.2.live &&
      decide (p.2.cid = ((busyS.glnEnt 9 0x30).getD (mkEnt 0 0 0 0 0 0 0 [])).cid)) = false := by
    rw [List.any_eq_false]
    intro p hp
    obtain ⟨i, -, rfl⟩ := List.mem_map.mp (List.mem_filter.mp hp).1
    have : busyS.attached 9 { Req.reset with st := 1 } = false := by decide +kernel
    simp only [this, Bool.false_and, Bool.false_eq_true, not_false_eq_true]
  have f : busyS.submitCheck 9 ((busyS.glnEnt 9 0x30).getD (mkEnt 0 0 0 0 0 0 0 [])) false = .ok (busyS.load .host 0x4000 256) := by
    have e : ((busyS.glnEnt 9 0x30).getD (mkEnt 0 0 0 0 0 0 0 [])).arg 0 % 64 = 0 := by decide +kernel
    have a : busyS.fetch (.func ((busyS.glnEnt 9 0x30).getD (mkEnt 0 0 0 0 0 0 0 [])).fn) (((busyS.glnEnt 9 0x30).getD (mkEnt 0 0 0 0 0 0 0 [])).arg 0) 256 true =
        .ok (busyS.load .host 0x4000 256) := by decide +kernel
    unfold State.submitCheck
    simp only [a, hany]
    decide +kernel
  refine ⟨_, _, by decide +kernel, f, fun i hi => ?_⟩
  have : busyS.req i = { Req.reset with st := 1 } := mget_const dReq _ i _ (List.mem_range.mpr hi)
  rw [this]
  decide

theorem wit_RequestRowsComplete_7 : ∃ h bs t, (copyS.req 3).copying = true ∧ copyS.isFatal = false ∧ copyS.rdF .SILO_PMQ_CFG (copyS.rdF .GLN_CTL 0 0 37 32) 0 63 61 = 5 ∧
    copyS.mPPB (copyS.req 3).model = 1 ∧ (copyS.req 3).lender = some h ∧
    copyS.fetch .gleaner (copyS.pageAddr (lget ((copyS.pfx h).pages.drop (copyS.req 3).shared) 0 0)) 65536 false = .ok bs ∧
    copyS.put .gleaner (copyS.pageAddr (lget ((copyS.req 3).pages.drop (copyS.req 3).shared) 0 0)) bs false = .ok t := by
  refine ⟨2, _, _, by decide +kernel, by decide +kernel, by decide +kernel, by decide +kernel, by decide +kernel,
    fetch_ok (l := .silo 0x70000) (by decide +kernel) (by decide +kernel), put_ok (l := .silo 0x80000) ?_ ?_⟩
  · rw [readLoc_length]; decide +kernel
  · rw [readLoc_length]; decide +kernel

/-- Model 4 of core 5 with `role`, its step, and a COMMIT of core 5 with `flags` for step `n`. -/
def stepS (role flags n : Nat) (f : GStep → GStep) : State :=
  let s := (withCmds [cmdW 2 11 flags 0 0 [4, n] 1] id).setGStep 4 (f { GStep.reset with stage := 1, no := 3 })
  (s.wr .GLN_MODEL_A 4 0 (BitVec.ofNat 64 (2 ^ 63 + role * 2 ^ 61 + 5 * 2 ^ 54))).wr .GLN_MODEL_STEP 4 0 3
def com (g : GStep) : GStep := { g with commit := some (5, 2), allReady := true }
def seg1 : Seg := ⟨3, 0, 0, 7, 1, [], [], 0, SegRes.reset⟩
/-- One decode segment in its target phase; a vocabulary of two tokens, FP32 rows at silo address 0x20000. -/
def rowS : State :=
  (stepS 0 0 3 fun g => { g with phase := 1, segs := [seg1], siva := BitVec.ofNat 64 (2 ^ 18), sivb := 2 }).setReq 3
    { Req.reset with st := 3, model := 4, desc := List.replicate 256 0 }
def moveSeg : Seg := { seg1 with spec := 64, ntok := 3, res := { SegRes.reset with path := [1] } }
def compS (gs : List Seg) : State :=
  (((stepS 0 0 3 fun g => { g with compact := true, segs := gs }).wrF .SILO_PMQ_CFG 0 0 63 61 5).wr .GLN_MODEL_B 4 0 0x0010010000001000).setReq 3
    { Req.reset with st := 3, model := 4, pages := [8] }
def treeS (h : Nat) : State := (P.wr .SIV_TREE 4 0 0x8000000000400000).wr .SIV_MODEL_A 4 0 (BitVec.ofNat 64 (h * 2 ^ 52))

/-- A state and operands that meet the hypotheses of each clause of `StepRowsComplete` (part 1). -/
theorem wit_StepRowsComplete_a :
    (
    let s : State := stepS 0 0 3 fun g => { g with stage := 2 }
    let mf : Fin 256 := 4
    let m := mf.val
    let st := (s.gmodel m).step
    (s.isFatal = false) ∧ 2 ≤ st.stage) ∧
    (
    let s : State := (stepS 0 0 3 fun g => { g with stage := 0 }).glnDue 4
    let mf : Fin 256 := 4
    let m := mf.val
    let st := (s.gmodel m).step
    (s.isFatal = false) ∧ (st.stage = 0) ∧ (s.gmodel m).due = true) ∧
    (
    (
    let s : State := stepS 0 0 2 id
    let core : Fin 64 := 5
    let mf : Fin 256 := 4
    let m := mf.val
    let st := (s.gmodel m).step
    ((s.inHand core 11).toList).any fun c => decide ((s.isFatal = false) ∧ ((c.arg 0).toNat = m) ∧ (s.mCore m = core.val) ∧ ((c.arg 1).toNat ≠ s.mStep
      m ∨ st.stage ≠ 1 ∨ st.commit.isSome = true))) = true) ∧
    (
    (
    let s : State := stepS 0 1 3 id
    let core : Fin 64 := 5
    let mf : Fin 256 := 4
    let m := mf.val
    let st := (s.gmodel m).step
    ((s.inHand core 11).toList).any fun c => decide ((s.isFatal = false) ∧ ((c.arg 0).toNat = m) ∧ (s.mCore m = core.val) ∧ ((c.arg 1).toNat = s.mStep
      m) ∧ (st.stage = 1) ∧ (st.commit = none) ∧ (s.mRole m ≠ 2) ∧ c.flags % 2 = 1)) = true) ∧
    (
    (
    let s : State := stepS 0 0 3 fun g => { g with faulted := true }
    let core : Fin 64 := 5
    let mf : Fin 256 := 4
    let m := mf.val
    let st := (s.gmodel m).step
    ((s.inHand core 11).toList).any fun c => decide ((s.isFatal = false) ∧ ((c.arg 0).toNat = m) ∧ (s.mCore m = core.val) ∧ ((c.arg 1).toNat = s.mStep
      m) ∧ (st.stage = 1) ∧ (st.commit = none) ∧ (s.mRole m ≠ 2) ∧ (c.flags % 2 = 0) ∧ st.faulted = true)) = true) ∧
    (
    (
    let s : State := stepS 0 0 3 id
    let core : Fin 64 := 5
    let mf : Fin 256 := 4
    let m := mf.val
    let st := (s.gmodel m).step
    ((s.inHand core 11).toList).any fun c => decide ((s.isFatal = false) ∧ ((c.arg 0).toNat = m) ∧ (s.mCore m = core.val) ∧ ((c.arg 1).toNat = s.mStep
      m) ∧ (st.stage = 1) ∧ (st.commit = none) ∧ (s.mRole m ≠ 2) ∧ (c.flags % 2 = 0) ∧ st.faulted = false)) = true) := by
  refine ⟨?_, ?_, ?_, ?_, ?_, ?_⟩ <;> decide +kernel

/-- A state and operands that meet the hypotheses of each clause of `StepRowsComplete` (part 2). -/
theorem wit_StepRowsComplete_b :
    (
    let s : State := stepS 0 0 3 com
    let mf : Fin 256 := 4
    let m := mf.val
    let st := (s.gmodel m).step
    (s.isFatal = false) ∧ (st.stage = 1) ∧ (st.commit.isSome = true) ∧ (s.mRole m ≠ 2) ∧ s.commitReady m = true) ∧
    (
    let s : State := stepS 0 0 3 fun g => { com g with compact := true }
    let mf : Fin 256 := 4
    let m := mf.val
    let st := (s.gmodel m).step
    (s.isFatal = false) ∧ (st.stage = 1) ∧ (st.commit.isSome = true) ∧ (s.mRole m ≠ 2) ∧ s.commitReady m = false) ∧
    (
    let s : State := stepS 2 0 3 fun g => { g with stage := 0 }
    let mf : Fin 256 := 4
    let m := mf.val
    let st := (s.gmodel m).step
    (s.isFatal = false) ∧ (s.mRole m = 2) ∧ (s.mEn m = true) ∧ st.stage ≠ 1) ∧
    (
    let s : State := stepS 2 0 3 id
    let mf : Fin 256 := 4
    let status : BitVec 16 := 0x0A0D
    let m := mf.val
    let st := (s.gmodel m).step
    (s.isFatal = false) ∧ (s.mRole m = 2) ∧ (st.stage = 1) ∧ status ≠ 0) ∧
    (
    let s : State := stepS 2 0 3 id
    let mf : Fin 256 := 4
    let recs : List MemRec := [⟨3, 9, some 7, false⟩]
    let status : BitVec 16 := 0
    let m := mf.val
    let st := (s.gmodel m).step
    (s.isFatal = false) ∧ (s.mRole m = 2) ∧ (st.stage = 1) ∧ (status = 0) ∧ recs ≠ []) ∧
    (
    let s : State := stepS 1 0 3 id
    let mf : Fin 256 := 4
    let ok : Bool := false
    let m := mf.val
    let st := (s.gmodel m).step
    (s.isFatal = false) ∧ (st.stage = 1) ∧ (s.mRole m = 1) ∧ ok = false) := by
  refine ⟨?_, ?_, ?_, ?_, ?_, ?_⟩ <;> decide +kernel

/-- A state and operands that meet the hypotheses of each clause of `StepRowsComplete` (part 3). -/
theorem wit_StepRowsComplete_c :
    (
    let s : State := stepS 1 0 3 id
    let mf : Fin 256 := 4
    let ok : Bool := true
    let last : Bool := true
    let m := mf.val
    let st := (s.gmodel m).step
    (s.isFatal = false) ∧ (st.stage = 1) ∧ (s.mRole m = 1) ∧ (ok = true) ∧ last = true) ∧
    (
    let s : State := stepS 1 0 3 id
    let mf : Fin 256 := 4
    let ok : Bool := true
    let last : Bool := false
    let m := mf.val
    let st := (s.gmodel m).step
    (s.isFatal = false) ∧ (st.stage = 1) ∧ (s.mRole m = 1) ∧ (ok = true) ∧ last = false) ∧
    (
    let s : State := stepS 0 0 3 id
    let core : Fin 64 := 5
    let mf : Fin 256 := 4
    let no : Nat := 3
    let v : BitVec 64 := 0x0000000000000003
    let m := mf.val
    let st := (s.gmodel m).step
    (s.isFatal = false) ∧ (st.stage = 1) ∧ (s.mCore m = core.val) ∧ (fld v 31 0 = st.no % 2 ^ 32) ∧ fld v 59 56 ≤ 8) ∧
    (
    let s : State := stepS 0 0 3 id
    let core : Fin 64 := 6
    let mf : Fin 256 := 4
    let m := mf.val
    (s.isFatal = false) ∧ s.mCore m ≠ core.val) ∧
    (
    (
    let s : State := rowS
    let mf : Fin 256 := 4
    let segs : List PlanSeg := []
    let m := mf.val
    let st := (s.gmodel m).step
    (st.segs).any fun g => (((s.rowFor st (s.req g.req) 0 g.res.toks g.res.gst).map (·.1)).toList).any fun d => (((s.rowFor st (s.req g.req) 0
      g.res.toks g.res.gst).map (·.2)).toList).any fun mk => decide ((s.isFatal = false) ∧ (st.stage = 1) ∧ (st.phase = 1) ∧ (st.segs = [g]) ∧ (g.kind
      = 0) ∧ (g.spec = 0) ∧ (g.ntok = 1) ∧ (g.res.rows = 0) ∧ s.rowFor st (s.req g.req) 0 g.res.toks g.res.gst = some (d, mk))) = true) ∧
    (
    (
    let s : State := rowS
    let mf : Fin 256 := 4
    let segs : List PlanSeg := []
    let m := mf.val
    let st := (s.gmodel m).step
    (st.segs).any fun g => decide ((s.isFatal = false) ∧ (st.stage = 1) ∧ (st.phase = 1) ∧ (st.segs = [g]) ∧ (g.kind = 0) ∧ (g.spec = 0) ∧ (g.ntok =
      1) ∧ g.res.rows = 0)) = true) := by
  refine ⟨?_, ?_, ?_, ?_, ?_, ?_⟩ <;> decide +kernel

/-- A state and operands that meet the hypotheses of each clause of `StepRowsComplete` (part 4). -/
theorem wit_StepRowsComplete_d :
    (
    let s : State := compS []
    let mf : Fin 256 := 4
    let m := mf.val
    let st := (s.gmodel m).step
    (s.isFatal = false) ∧ (st.stage = 1) ∧ st.compact = true) ∧
    (
    let s : State := compS [seg1]
    let mf : Fin 256 := 4
    let segs : List PlanSeg := []
    let m := mf.val
    let st := (s.gmodel m).step
    (s.isFatal = false) ∧ (st.stage = 1) ∧ (st.compact = true) ∧ (s.rdF .SILO_PMQ_CFG (s.rdF .GLN_CTL 0 0 37 32) 0 63 61 = 5) ∧ (∀ g ∈ st.segs,
      g.moves = [])) ∧
    (
    (
    let s : State := compS [moveSeg]
    let mf : Fin 256 := 4
    let segs : List PlanSeg := []
    let ok : Bool := true
    let m := mf.val
    let st := (s.gmodel m).step
    let a := s.setGStep m { st with compact := false }
    (st.segs).any fun g =>
    let from_ := 9
    let to_ := 8
    let n := (fld st.siva 9 0 + 1) * 64
    let at' := fun p => s.pageAddr (lget (s.req g.req).pages (p / s.mPT m) 0) + p % s.mPT m * n
    ((a.fetch .gleaner (at' from_) n false).toOption.toList).any fun bs => ((a.put .gleaner (at' to_) bs false).toOption.toList).any fun u => decide
      ((s.isFatal = false) ∧ (st.stage = 1) ∧ (st.compact = true) ∧ (s.rdF .SILO_PMQ_CFG (s.rdF .GLN_CTL 0 0 37 32) 0 63 61 = 5) ∧ (s.mPPB m = 1) ∧
      (st.segs = [g]) ∧ g.moves = [(from_, to_)])) = true) ∧
    (
    (
    let s : State := treeS 8
    let mf : Fin 256 := 4
    let w : Agent := .firmware
    let node : Fin 64 := 1
    let v : BitVec 64 := 0x8000000000400000
    let m := mf.val
    (((okStat s).treeWrite m node v).toList).any fun t => decide ((s.isFatal = false) ∧ Allowed s w .SIV_TREE m node)) = true) ∧
    (
    let s : State := treeS 0
    let mf : Fin 256 := 4
    let w : Agent := .firmware
    let node : Fin 64 := 1
    let v : BitVec 64 := 0x8000000000400000
    let m := mf.val
    (s.isFatal = false) ∧ (Allowed s w .SIV_TREE m node) ∧ (okStat s).treeWrite m node v = none) ∧
    (
    (
    let s : State := treeS 8
    let mf : Fin 256 := 4
    let node : Fin 64 := 1
    let v : BitVec 64 := 0
    let m := mf.val
    ((s.treeWrite m node v).toList).any fun t => decide ((s.isFatal = false) ∧ v.getLsbD 63 = false)) = true) := by
  refine ⟨?_, ?_, ?_, ?_, ?_, ?_⟩ <;> decide +kernel

/-- A state and operands that meet the hypotheses of each clause of `StepRowsComplete` (part 5). -/
theorem wit_StepRowsComplete_e :
    (
    (
    let s : State := treeS 8
    let mf : Fin 256 := 4
    let node : Fin 64 := 1
    let v : BitVec 64 := 0
    let m := mf.val
    ((s.treeWrite m node v).toList).any fun t =>
    let k := 63
    decide ((s.isFatal = false) ∧ (v.getLsbD 63 = false) ∧ (node.val < k) ∧ k < 64)) = true) := by decide +kernel

def jobDesc (op cf tlocal : Nat) : List Byte :=
  natToBytes 2 op ++ natToBytes 2 2 ++ natToBytes 2 0 ++ natToBytes 2 1 ++ natToBytes 4 tlocal ++ natToBytes 4 0 ++ natToBytes 8 7 ++ natToBytes 4 cf ++
    natToBytes 4 16 ++ natToBytes 8 (if op = 1 then 0x10000 else 0) ++ natToBytes 8 0x20000 ++ natToBytes 4 64 ++ natToBytes 4 0 ++ natToBytes 8 0x30000 ++
    natToBytes 8 0x1000 ++ natToBytes 8 0 ++ natToBytes 8 0x40000 ++ natToBytes 8 0x50 ++ natToBytes 4 0x3F800000 ++ natToBytes 4 64 ++ List.replicate 24 0
/-- Slice context 3 of two members, of which this chip is the first, and a DISPATCH of core 5 with its job at control SRAM 0x800. -/
def rdlS (en op cf tlocal : Nat) : State :=
  let s := withCmds [cmdW 2 10 0 0 (3 * 2 ^ 12) [0x800] 1] id
  ((s.store .csram 0x800 (jobDesc op cf tlocal)).wr .RDL_CTX_CFG 3 0 (BitVec.ofNat 64 (en * 2 ^ 63 + 2 ^ 39 + 0x2000))).wr .SILO_RGN_B 0 0 0xFFFFFFFF
def rjob (op stage : Nat) (inbox : List RdlMsg) : RdlJob := ⟨1, 3, 5, 2, jobDesc op 256 0, stage, [(0, [⟨9, 0, 0, 0x3F800000, 0x3F800000⟩])], [], [], [], inbox, false⟩
def jobsS (js : List RdlJob) (f : RdlSt → RdlSt) : State := let s := rdlS 1 1 256 0; s.setRdl (f { s.rdl with jobs := js })
def rid (op : Nat) : JobId := ⟨7, 2, op, 0, 1, 256⟩
def allOf (j : RdlJob) : List (Nat × List RRec) := j.recs ++ j.inbox.filterMap fun m => match m.body with
  | .records _ rs => some (m.member, rs)
  | _ => none
def recJob : RdlJob := rjob 1 0 [⟨rid 1, 1, .records 0 []⟩]
def rmap : RMap := ⟨3, rid 1, [(⟨0, 0, 0, 0x3F800000, 0x3F800000⟩, 0)], [(0, [⟨0, 0, 0, 0x3F800000, 0x3F800000⟩])]⟩

/-- A state and operands that meet the hypotheses of each clause of `RiddleRowsComplete` (part 1). -/
theorem wit_RiddleRowsComplete_a :
    (
    ((List.range 2).all fun nth =>
    let s : State := rdlS 0 1 256 0
    let core : Fin 64 := 5
    let x : Fin 16 := 3
    ((s.inHand core 10).toList).any fun c => (([Instr.route core, .combine core])[nth]?.toList).any fun o => decide ((c.ctx % 16 = x.val) ∧ (s.isFatal
      = false) ∧ (s.rdF .RDL_CTX_CFG x 0 63 63 = 0 ∨ inCsram (c.arg 0).toNat 128 64 = false))) = true) ∧
    (
    (
    let s : State := rdlS 1 1 0 0
    let core : Fin 64 := 5
    let x : Fin 16 := 3
    ((s.inHand core 10).toList).any fun c =>
    let j : RdlJob := ⟨s.rdl.no, x, core, c.ticket, s.load .csram (c.arg 0).toNat 128, 0, [], [], [], [], [], false⟩
    let a := (s.setCmd core { c with phase := 2 }).setRdl { s.rdl with no := s.rdl.no + 1, jobs := s.rdl.jobs ++ [j] }
    decide ((c.ctx % 16 = x.val) ∧ (s.isFatal = false) ∧ (s.rdF .RDL_CTX_CFG x 0 63 63 = 1) ∧ (inCsram (c.arg 0).toNat 128 64 = true) ∧ ((s.ctxJobs
      x).length < 4) ∧ (j.op = 1) ∧ a.jobOk j = false)) = true) ∧
    (
    (
    let s : State := let t := rdlS 1 1 256 1; { t with mem := { t.mem with pSilo := [(0x400, true)] } }
    let core : Fin 64 := 5
    let x : Fin 16 := 3
    ((s.inHand core 10).toList).any fun c =>
    let j : RdlJob := ⟨s.rdl.no, x, core, c.ticket, s.load .csram (c.arg 0).toNat 128, 0, [], [], [], [], [], false⟩
    let a := (s.setCmd core { c with phase := 2 }).setRdl { s.rdl with no := s.rdl.no + 1, jobs := s.rdl.jobs ++ [j] }
    decide ((c.ctx % 16 = x.val) ∧ (s.isFatal = false) ∧ (s.rdF .RDL_CTX_CFG x 0 63 63 = 1) ∧ (inCsram (c.arg 0).toNat 128 64 = true) ∧ ((s.ctxJobs
      x).length < 4) ∧ (j.op = 1) ∧ (a.jobOk j = true) ∧ a.gateAll j = none)) = true) ∧
    (
    (
    let s : State := rdlS 1 1 256 0
    let core : Fin 64 := 5
    let x : Fin 16 := 3
    ((s.inHand core 10).toList).any fun c =>
    let j : RdlJob := ⟨s.rdl.no, x, core, c.ticket, s.load .csram (c.arg 0).toNat 128, 0, [], [], [], [], [], false⟩
    let a := (s.setCmd core { c with phase := 2 }).setRdl { s.rdl with no := s.rdl.no + 1, jobs := s.rdl.jobs ++ [j] }
    ((a.gateAll j).toList).any fun rs => decide ((c.ctx % 16 = x.val) ∧ (s.isFatal = false) ∧ (s.rdF .RDL_CTX_CFG x 0 63 63 = 1) ∧ (inCsram (c.arg
      0).toNat 128 64 = true) ∧ ((s.ctxJobs x).length < 4) ∧ (j.op = 1) ∧ a.jobOk j = true)) = true) ∧
    (
    (
    let s : State := rdlS 1 2 0 0
    let core : Fin 64 := 5
    let x : Fin 16 := 3
    ((s.inHand core 10).toList).any fun c =>
    let j : RdlJob := ⟨s.rdl.no, x, core, c.ticket, s.load .csram (c.arg 0).toNat 128, 0, [], [], [], [], [], false⟩
    let a := (s.setCmd core { c with phase := 2 }).setRdl { s.rdl with no := s.rdl.no + 1, jobs := s.rdl.jobs ++ [j] }
    decide ((c.ctx % 16 = x.val) ∧ (s.isFatal = false) ∧ (s.rdF .RDL_CTX_CFG x 0 63 63 = 1) ∧ (inCsram (c.arg 0).toNat 128 64 = true) ∧ ((s.ctxJobs
      x).length < 4) ∧ (j.op = 2) ∧ a.jobOk j = false)) = true) ∧
    (
    (
    let s : State := rdlS 1 2 256 0
    let core : Fin 64 := 5
    let x : Fin 16 := 3
    ((s.inHand core 10).toList).any fun c =>
    let j : RdlJob := ⟨s.rdl.no, x, core, c.ticket, s.load .csram (c.arg 0).toNat 128, 0, [], [], [], [], [], false⟩
    let a := (s.setCmd core { c with phase := 2 }).setRdl { s.rdl with no := s.rdl.no + 1, jobs := s.rdl.jobs ++ [j] }
    decide ((c.ctx % 16 = x.val) ∧ (s.isFatal = false) ∧ (s.rdF .RDL_CTX_CFG x 0 63 63 = 1) ∧ (inCsram (c.arg 0).toNat 128 64 = true) ∧ ((s.ctxJobs
      x).length < 4) ∧ (j.op = 2) ∧ (a.jobOk j = true) ∧ (a.rdl.maps.find? (fun m => decide (m.ctx = x.val ∧ m.job.step = j.step ∧ m.job.layer =
      j.layer)) = none))) = true) := by
  refine ⟨?_, ?_, ?_, ?_, ?_, ?_⟩ <;> decide +kernel

/-- A state and operands that meet the hypotheses of each clause of `RiddleRowsComplete` (part 2). -/
theorem wit_RiddleRowsComplete_b :
    (
    (
    let s : State := let t := rdlS 1 2 256 1; t.setRdl { t.rdl with maps := [rmap] }
    let core : Fin 64 := 5
    let x : Fin 16 := 3
    ((s.inHand core 10).toList).any fun c =>
    let j : RdlJob := ⟨s.rdl.no, x, core, c.ticket, s.load .csram (c.arg 0).toNat 128, 0, [], [], [], [], [], false⟩
    let a := (s.setCmd core { c with phase := 2 }).setRdl { s.rdl with no := s.rdl.no + 1, jobs := s.rdl.jobs ++ [j] }
    (s.rdl.maps).any fun m => (m.acc.map (·.1)).any fun r => (m.acc.map (·.2)).any fun n =>
    let me := a.rdlMember x
    let j1 := { j with stage := 1, acc := m.acc, recs := m.recs, hdrs := [(me, 1)], rows := mput dNat [] me 1 }
    let b := (a.setJob j1).sendHeaders j1 [me]
    let y := (b.xtabOf j1 (b.expertHome x r.e).2).2.2 + n * j1.yrowBytes
    ((b.rowBytes x y j1.yrowBytes).toList).any fun d => decide ((c.ctx % 16 = x.val) ∧ (s.isFatal = false) ∧ (s.rdF .RDL_CTX_CFG x 0 63 63 = 1) ∧
      (inCsram (c.arg 0).toNat 128 64 = true) ∧ ((s.ctxJobs x).length < 4) ∧ (j.op = 2) ∧ (a.jobOk j = true) ∧ (a.rdl.maps.find? (fun m => decide
      (m.ctx = x.val ∧ m.job.step = j.step ∧ m.job.layer = j.layer)) = some m) ∧ (m.acc = [(r, n)]) ∧ (m.recs = [(me, [r])]) ∧ (a.expertHome x r.e).1
      = me)) = true) ∧
    (
    (
    let s : State := jobsS [rjob 1 1 [⟨rid 1, 1, .header 2⟩]] id
    let x : Fin 16 := 3
    let pre := []
    (s.rdl.jobs).any fun j =>
    let post := []
    let u := []
    (j.inbox).any fun m =>
    let v := []
    let first := fun (k : RdlMsg → Prop) => (∀ i ∈ pre, i.stage ≠ 1 ∨ ∀ y ∈ i.inbox, ¬ k y) ∧ ∀ y ∈ u, ¬ k y
    let n := 2
    decide ((s.ctxJobs x = pre ++ j :: post) ∧ (j.stage = 1) ∧ (j.inbox = u ++ m :: v) ∧ (m.body = .header n) ∧ (pre = [] ∧ u = []))) = true) ∧
    (
    (
    let s : State := jobsS [rjob 1 1 [⟨rid 1, 1, .row 0 0 [1] [2]⟩]] id
    let x : Fin 16 := 3
    let pre := []
    (s.rdl.jobs).any fun j =>
    let post := []
    let u := []
    (j.inbox).any fun m =>
    let v := []
    let first := fun (k : RdlMsg → Prop) => (∀ i ∈ pre, i.stage ≠ 1 ∨ ∀ y ∈ i.inbox, ¬ k y) ∧ ∀ y ∈ u, ¬ k y
    let e := 0
    let r := 0
    let d := [1]
    let sc := [2]
    decide ((s.ctxJobs x = pre ++ j :: post) ∧ (j.stage = 1) ∧ (j.inbox = u ++ m :: v) ∧ (m.body = .row e r d sc) ∧ (pre = [] ∧ u = []))) = true) ∧
    (
    (
    let s : State := jobsS [rjob 2 1 [⟨rid 2, 1, .crow 0 0 [1]⟩]] id
    let x : Fin 16 := 3
    let pre := []
    (s.rdl.jobs).any fun j =>
    let post := []
    let u := []
    (j.inbox).any fun m =>
    let v := []
    let first := fun (k : RdlMsg → Prop) => (∀ i ∈ pre, i.stage ≠ 1 ∨ ∀ y ∈ i.inbox, ¬ k y) ∧ ∀ y ∈ u, ¬ k y
    let g := 0
    let c := 0
    let d := [1]
    decide ((s.ctxJobs x = pre ++ j :: post) ∧ (j.stage = 1) ∧ (j.inbox = u ++ m :: v) ∧ (m.body = .crow g c d) ∧ (pre = [] ∧ u = []))) = true) ∧
    (
    (
    let s : State := jobsS [rjob 1 2 []] id
    let x : Fin 16 := 3
    (((s.ctxJobs x).find? (fun j => decide (j.op = 1 ∧ j.stage = 2))).toList).any fun j => decide (True)) = true) ∧
    (
    (
    let s : State := jobsS [rjob 1 0 []] id
    let x : Fin 16 := 3
    (((s.ctxJobs x).find? (fun j => decide (j.stage < 2))).toList).any fun j => decide (True)) = true) := by
  refine ⟨?_, ?_, ?_, ?_, ?_, ?_⟩ <;> decide +kernel

/-- A state and operands that meet the hypotheses of each clause of `RiddleRowsComplete` (part 3). -/
theorem wit_RiddleRowsComplete_c :
    (
    (
    let s : State := jobsS [rjob 1 0 []] id
    let x : Fin 16 := 3
    let msg : RdlMsg := ⟨⟨7, 2, 1, 5, 1, 256⟩, 1, .header 2⟩
    (((s.ctxJobs x).find? (fun j => j.ident.same msg.job)).toList).any fun j => decide (msg.clash j = true)) = true) ∧
    (
    (
    let s : State := jobsS [rjob 1 0 []] id
    let x : Fin 16 := 3
    let msg : RdlMsg := ⟨⟨7, 2, 1, 0, 1, 256⟩, 1, .header 2⟩
    (((s.ctxJobs x).find? (fun j => j.ident.same msg.job)).toList).any fun j => decide (msg.clash j = false)) = true) ∧
    (
    let s : State := jobsS [] fun r => { r with ended := [(3, [rid 1])] }
    let x : Fin 16 := 3
    let msg : RdlMsg := ⟨⟨7, 2, 1, 0, 1, 256⟩, 1, .header 2⟩
    ((s.ctxJobs x).find? (fun j => j.ident.same msg.job) = none) ∧ ((mget dNil s.rdl.ended x).any fun i => i.same msg.job) = true) ∧
    (
    let s : State := jobsS [] id
    let x : Fin 16 := 3
    let msg : RdlMsg := ⟨⟨7, 2, 1, 0, 1, 256⟩, 1, .header 2⟩
    let early := mget dNil s.rdl.early x
    ((s.ctxJobs x).find? (fun j => j.ident.same msg.job) = none) ∧ (((mget dNil s.rdl.ended x).all fun i => !i.same msg.job) = true) ∧ early.length <
      64) ∧
    (
    let s : State := jobsS [] fun r => { r with early := [(3, List.replicate 64 ⟨rid 1, 1, .header 2⟩)] }
    let x : Fin 16 := 3
    let msg : RdlMsg := ⟨⟨7, 2, 1, 0, 1, 256⟩, 1, .header 2⟩
    let early := mget dNil s.rdl.early x
    ((s.ctxJobs x).find? (fun j => j.ident.same msg.job) = none) ∧ (((mget dNil s.rdl.ended x).all fun i => !i.same msg.job) = true) ∧ 64 ≤
      early.length) := by
  refine ⟨?_, ?_, ?_, ?_, ?_⟩ <;> decide +kernel

/-- Port 2 in state `st`. -/
def hay (st : Nat) (f : HPort → HPort) : State := (P.wrF .HAY_PORT_STATUS 2 0 3 0 st).setHport 2 (f HPort.reset)
def idrec (ver : Nat) : List Byte := natToBytes 4 0x4E594148 ++ [BitVec.ofNat 8 ver, 2, 0, 0] ++ natToBytes 8 77 ++ natToBytes 2 9 ++ List.replicate 46 0
def flit0 (kind : Nat) : List Byte := let b := natToBytes 4 (kind * 1024) ++ List.replicate 248 0; b ++ natToBytes 4 (crc32 b).toNat
def hfl : List Byte := let b := natToBytes 4 (7 * 2 ^ 22 + 256) ++ List.replicate 248 5; b ++ natToBytes 4 (crc32 b).toNat
def fenced (s : State) : State := s.addFence 8 2
/-- Ports 2 and 4 both held in EXPECT after a swap. -/
def swapped : State := ((hay 3 id).wrF .HAY_PORT_STATUS 2 0 23 16 8).wrF .HAY_PORT_STATUS 4 0 23 16 8 |>.wrF .HAY_PORT_STATUS 4 0 3 0 3

/-- A state and operands that meet the hypotheses of each clause of `PortRowsComplete` (part 1). -/
theorem wit_PortRowsComplete_a :
    (
    let s : State := hay 8 id
    let w : Agent := .firmware
    let p : Fin 24 := 2
    Allowed s w .HAY_PORT_CTL p 0) ∧
    (
    let s : State := (hay 6 id).wr .HAY_PORT_CTL 2 0 0x8000000000000000
    let w : Agent := .firmware
    let p : Fin 24 := 2
    let ctl := s.rd .HAY_PORT_CTL p 0
    (Allowed s w .HAY_PORT_CTL p 0) ∧ bit ctl 63 = true) ∧
    (
    let s : State := hay 2 id
    let p : Fin 24 := 2
    let x := s.hport p
    let st := s.rdF .HAY_PORT_STATUS p 0 3 0
    (st = 2 ∨ st = 3) ∧ x.replay.length < 1023) ∧
    (
    let s : State := hay 2 id
    let p : Fin 24 := 2
    let r : List Byte := idrec 1
    let st := s.rdF .HAY_PORT_STATUS p 0 3 0
    (st = 2 ∨ st = 3) ∧ le r 0 4 = 0x4E594148) ∧
    (
    let s : State := hay 6 id
    let p : Fin 24 := 2
    let r : List Byte := []
    let st := s.rdF .HAY_PORT_STATUS p 0 3 0
    ((st ≠ 2 ∧ st ≠ 3) ∨ le r 0 4 ≠ 0x4E594148)) ∧
    (
    let s : State := hay 3 id
    let w : Agent := .firmware
    let p : Fin 24 := 2
    let st := s.rdF .HAY_PORT_STATUS p 0 3 0
    let pair := fun (q : Nat) => s.rdF .HAY_PORT_STATUS p 0 23 16 = 8 ∧ q ≠ p.val ∧ s.rdF .HAY_PORT_STATUS q 0 3 0 = 3 ∧ s.rdF .HAY_PORT_STATUS q 0 23
      16 = 8 ∧ s.foundFor p q = true ∧ s.foundFor q p = true
    (Allowed s w .HAY_PORT_CTL p 0) ∧ (st = 3) ∧ (∀ q ∈ List.range 24, ¬ pair q)) := by
  refine ⟨?_, ?_, ?_, ?_, ?_, ?_⟩ <;> decide +kernel

/-- A state and operands that meet the hypotheses of each clause of `PortRowsComplete` (part 2). -/
theorem wit_PortRowsComplete_b :
    (
    let s : State := swapped
    let w : Agent := .firmware
    let p : Fin 24 := 2
    let st := s.rdF .HAY_PORT_STATUS p 0 3 0
    let pair := fun (q : Nat) => s.rdF .HAY_PORT_STATUS p 0 23 16 = 8 ∧ q ≠ p.val ∧ s.rdF .HAY_PORT_STATUS q 0 3 0 = 3 ∧ s.rdF .HAY_PORT_STATUS q 0 23
      16 = 8 ∧ s.foundFor p q = true ∧ s.foundFor q p = true
    let q := (4 : Nat)
    (Allowed s w .HAY_PORT_CTL p 0) ∧ (st = 3) ∧ (q < 24) ∧ (pair q) ∧ (∀ o ∈ List.range q, ¬ pair o)) ∧
    (
    let s : State := fenced (hay 4 id)
    let w : Agent := .firmware
    let p : Fin 24 := 2
    let st := s.rdF .HAY_PORT_STATUS p 0 3 0
    let ctl := s.rd .HAY_PORT_CTL p 0
    (Allowed s w .HAY_PORT_CTL p 0) ∧ (bit ctl 8 = false) ∧ st ≠ 8) ∧
    (
    let s : State := hay 3 id
    let w : Agent := .firmware
    let p : Fin 24 := 2
    (Allowed s w .HAY_PORT_EXPECT p 0) ∧ s.hasp.wrq = []) ∧
    (
    let s : State := hay 5 id
    let p : Fin 24 := 2
    let st := s.rdF .HAY_PORT_STATUS p 0 3 0
    st = 5) ∧
    (
    let s : State := hay 6 id
    let p : Fin 24 := 2
    let st := s.rdF .HAY_PORT_STATUS p 0 3 0
    st = 6) ∧
    (
    let s : State := up0
    let p : Fin 24 := 2
    let x := s.hport p
    ((∀ k ∈ x.lost, k.cls = 0 ∨ k.own.1 = 0))) := by
  refine ⟨?_, ?_, ?_, ?_, ?_, ?_⟩ <;> decide +kernel

/-- A state and operands that meet the hypotheses of each clause of `PortRowsComplete` (part 3). -/
theorem wit_PortRowsComplete_c :
    (
    let s : State := hay 6 id
    let p : Fin 24 := 2
    let x := s.hport p
    let st := s.rdF .HAY_PORT_STATUS p 0 3 0
    (st = 6) ∧ x.replay.length < 1023) ∧
    (
    let s : State := hay 7 id
    let p : Fin 24 := 2
    let st := s.rdF .HAY_PORT_STATUS p 0 3 0
    (st ≠ 2) ∧ (st ≠ 3) ∧ st ≠ 6) ∧
    (
    let s : State := hay 2 id
    let p : Fin 24 := 2
    let flit : List Byte := flit0 3
    let st := s.rdF .HAY_PORT_STATUS p 0 3 0
    let good := flit.length = 256 ∧ crc32 (flit.take 252) = le flit 252 4
    (st = 2 ∨ st = 3) ∧ good) ∧
    (
    let s : State := hay 6 fun x => { x with rxSeq := 7 }
    let p : Fin 24 := 2
    let flit : List Byte := hfl
    let x := s.hport p
    let st := s.rdF .HAY_PORT_STATUS p 0 3 0
    let word := le flit 0 4
    let good := flit.length = 256 ∧ crc32 (flit.take 252) = le flit 252 4
    (st = 6) ∧ (good) ∧ (nbits word 11 10 = 0) ∧ (nbit word 9 = false) ∧ nbits word 31 22 = x.rxSeq) ∧
    (
    let s : State := hay 6 id
    let p : Fin 24 := 2
    let flit : List Byte := flit0 2
    let x := s.hport p
    let st := s.rdF .HAY_PORT_STATUS p 0 3 0
    let word := le flit 0 4
    let good := flit.length = 256 ∧ crc32 (flit.take 252) = le flit 252 4
    (st = 6) ∧ (good) ∧ (nbits word 11 10 = 2) ∧ (nbit word 9 = false) ∧ (nbits word 31 22 = x.rxSeq) ∧ (x.block = []) ∧ (nbits word 7 4 = 0) ∧ (∀ i ∈
      List.range 9, le ((flit.drop 4).take 248) (0x1C + 2 * i) 2 = mget dNat x.crBack (i + 1) % 65536)) ∧
    (
    let s : State := hay 6 id
    let p : Fin 24 := 2
    let flit : List Byte := [1]
    let x := s.hport p
    let st := s.rdF .HAY_PORT_STATUS p 0 3 0
    let good := flit.length = 256 ∧ crc32 (flit.take 252) = le flit 252 4
    let lost := false
    (st = 2 ∨ st = 3 ∨ st = 6) ∧ (lost = true ∨ ¬ good) ∧ x.badSeq ≠ some x.rxSeq) := by
  refine ⟨?_, ?_, ?_, ?_, ?_, ?_⟩ <;> decide +kernel

/-- A state and operands that meet the hypotheses of each clause of `PortRowsComplete` (part 4). -/
theorem wit_PortRowsComplete_d :
    (
    let s : State := hay 6 fun x => { x with badSeq := some 0 }
    let p : Fin 24 := 2
    let flit : List Byte := []
    let x := s.hport p
    let st := s.rdF .HAY_PORT_STATUS p 0 3 0
    let good := flit.length = 256 ∧ crc32 (flit.take 252) = le flit 252 4
    let lost := true
    (st = 2 ∨ st = 3 ∨ st = 6) ∧ (lost = true ∨ ¬ good) ∧ x.badSeq = some x.rxSeq) := by decide +kernel

def pk : Pkt := { Pkt.mk0 0 0 7 5 0 8 [] with addr := 0x100 }
def rk (typ : Nat) : Pkt := { Pkt.mk0 typ 2 7 0 0 4 [0, 0, 0, 0] with group := 6, rid := 1 }
/-- Slice context 3 is slice 7, its next hop for chip 5 is port 4 when `on`; group 6 is enabled for ports 2 and 4. -/
def fab (on loc : Nat) (f : HaySt → HaySt) : State :=
  let s := ((P.wr .HAY_CTX 3 0 0x8000000000000007).wr .HAY_RT 3 1 (BitVec.ofNat 64 ((on * 2 ^ 15 + 0x1004) * 2 ^ 16))).wr .HAY_MCG 6 0
    (BitVec.ofNat 64 (2 ^ 63 + loc * 2 ^ 62 + 2 * 2 ^ 53 + 7 * 2 ^ 32 + 0x14))
  s.setHay (f s.hay)
def rxS (loc : Nat) (pks : List Pkt) (f : HaySt → HaySt) : State := (fab 1 loc f).setHport 2 { HPort.reset with rxq := pks }
def hring (opc loc : Nat) (args : List Nat) (f : HaySt → HaySt) : State :=
  ((fab 1 loc f).wr .HAY_Q_CFG 3 0 0xC000000000100000).setRing .hay 3 { Qp.reset with ents := [mkEnt 1 opc 0 256 0 2 0 args] }
def blk6 (from_ : List Nat) : RBlock := ⟨6, 1, 0, [⟨0, from_, []⟩]⟩
def full : List RBlock := (List.range 16).map fun i => ⟨40, i, 0, []⟩
def redop (ring : Nat) : RedOp := ⟨ring, 1, 0, 6, 1, 0, 0x200000, 0x300000, 4, [], []⟩

/-- A state and operands that meet the hypotheses of each clause of `FabricRowsComplete` (part 1). -/
theorem wit_FabricRowsComplete_a :
    (
    let s : State := fab 1 0 id
    let p : Fin 24 := 2
    (s.hport p).rxq = []) ∧
    (
    let s : State := State.wrF (rxS 0 [pk] id) .CHF_STATUS 0 0 63 63 1
    let p : Fin 24 := 2
    let k : Pkt := pk
    let ks : List Pkt := []
    ((s.hport p).rxq = k :: ks) ∧ s.isFatal = true) ∧
    (
    let s : State := rxS 0 [rk 7] id
    let p : Fin 24 := 2
    let k : Pkt := rk 7
    let ks : List Pkt := []
    ((s.hport p).rxq = k :: ks) ∧ (s.isFatal = false) ∧ (k.tr = false) ∧ ((k.typ = 7 ∨ k.typ = 8))) ∧
    (
    let s : State := rxS 0 [pk] id
    let p : Fin 24 := 2
    let k : Pkt := pk
    let ks : List Pkt := []
    ((s.hport p).rxq = k :: ks) ∧ (s.isFatal = false) ∧ ((k.tr = true ∨ (k.typ ≠ 7 ∧ k.typ ≠ 8)))) ∧
    (
    let s : State := fab 1 0 id
    s.hay.orig = []) ∧
    (
    let s : State := fab 1 0 fun h => { h with orig := [pk] }
    let k : Pkt := pk
    let ks : List Pkt := []
    s.hay.orig = k :: ks) := by
  refine ⟨?_, ?_, ?_, ?_, ?_, ?_⟩ <;> decide +kernel

/-- A state and operands that meet the hypotheses of each clause of `FabricRowsComplete` (part 2). -/
theorem wit_FabricRowsComplete_b :
    (
    let s : State := fab 1 0 id
    let k : Pkt := { pk with dst := 0 }
    (k.typ < 6) ∧ k.dst = s.chip) ∧
    (
    let s : State := P
    let k : Pkt := pk
    (k.typ < 6) ∧ (k.dst ≠ s.chip) ∧ s.ctxOfSlice k.slice = none) ∧
    (
    (
    let s : State := fab 1 0 id
    let k : Pkt := pk
    ((s.ctxOfSlice k.slice).toList).any fun x =>
    let r := s.rd .HAY_RT x (k.dst / 4)
    let i := 16 * (k.dst % 4)
    decide ((k.typ < 6) ∧ (k.dst ≠ s.chip) ∧ bit r (i + 15) = true)) = true) ∧
    (
    (
    let s : State := fab 0 0 id
    let k : Pkt := pk
    ((s.ctxOfSlice k.slice).toList).any fun x =>
    let r := s.rd .HAY_RT x (k.dst / 4)
    let i := 16 * (k.dst % 4)
    decide ((k.typ < 6) ∧ (k.dst ≠ s.chip) ∧ bit r (i + 15) = false)) = true) ∧
    (
    let s : State := fab 1 0 id
    let tag : Fin 4096 := 9
    s.hay.ctags.find? (fun t => decide (t.tag = tag.val)) = none) ∧
    (
    (
    let s : State := fab 1 0 fun h => { h with ctags := [⟨9, 5, 1, 8, false, false, Pkt.mk0 0 0 7 5 0 8 []⟩] }
    let tag : Fin 4096 := 9
    ((s.hay.ctags.find? (fun t => decide (t.tag = tag.val))).toList).any fun t => decide (True)) = true) := by
  refine ⟨?_, ?_, ?_, ?_, ?_, ?_⟩ <;> decide +kernel

/-- A state and operands that meet the hypotheses of each clause of `FabricRowsComplete` (part 3). -/
theorem wit_FabricRowsComplete_c :
    (
    let s : State := fab 1 0 fun h => { h with blocks := full }
    let group := 6
    let rid := 1
    (s.hay.blocks.find? (fun b => decide (b.group = group ∧ b.rid = rid)) = none) ∧ 16 ≤ s.hay.blocks.length) ∧
    (
    let s : State := fab 1 0 fun h => { h with blocks := [⟨6, 1, 0, [⟨0, [2], [1]⟩]⟩] }
    let b := (⟨6, 1, 0, [⟨0, [2], [1]⟩]⟩ : RBlock)
    let c := (⟨0, [2], [1]⟩ : RChunk)
    let src := 2
    let data := [0, 0, 0, 0]
    (s.hay.blocks.find? (fun x => decide (x.group = b.group ∧ x.rid = b.rid)) = some b) ∧ (b.chunks.find? (fun x => decide (x.idx = c.idx)) = some c)
      ∧ (c.from_ = [src]) ∧ (c.vals ≠ []) ∧ c.vals.length = (chunkVals b.rop data).length) ∧
    (
    let s : State := fab 1 0 id
    let p : Fin 24 := 2
    s.rxHead p 7 = none) ∧
    (
    let s : State := fab 1 0 id
    let p : Fin 24 := 2
    s.rxHead p 8 = none) ∧
    (
    let s : State := rxS 0 [{ rk 7 with slice := 5 }] id
    let p : Fin 24 := 2
    let k : Pkt := { rk 7 with slice := 5 }
    let g := s.rd .HAY_MCG k.group 0
    (s.rxHead p 7 = some k) ∧ (bit g 63 = false ∨ fld g 47 32 ≠ k.slice ∨ nbit (fld g 23 0) p = false)) ∧
    (
    let s : State := rxS 0 [{ rk 8 with slice := 5 }] id
    let p : Fin 24 := 2
    let k : Pkt := { rk 8 with slice := 5 }
    let g := s.rd .HAY_MCG k.group 0
    (s.rxHead p 8 = some k) ∧ (bit g 63 = false ∨ fld g 47 32 ≠ k.slice ∨ fld g 57 53 ≠ p.val)) := by
  refine ⟨?_, ?_, ?_, ?_, ?_, ?_⟩ <;> decide +kernel

/-- A state and operands that meet the hypotheses of each clause of `FabricRowsComplete` (part 4). -/
theorem wit_FabricRowsComplete_d :
    (
    let s : State := rxS 0 [rk 7] fun h => { h with blocks := full }
    let p : Fin 24 := 2
    let k : Pkt := rk 7
    let g := s.rd .HAY_MCG k.group 0
    (s.rxHead p 7 = some k) ∧ (bit g 63 = true) ∧ (fld g 47 32 = k.slice) ∧ (nbit (fld g 23 0) p = true) ∧ s.redTake k.group k.rid k.rop k.chunk p
      k.data = none) ∧
    (
    let s : State := rxS 0 [rk 7] id
    let p : Fin 24 := 2
    let k : Pkt := rk 7
    let g := s.rd .HAY_MCG k.group 0
    let t := ((s.redTake k.group k.rid k.rop k.chunk p k.data).map (·.1)).getD s
    (s.rxHead p 7 = some k) ∧ (bit g 63 = true) ∧ (fld g 47 32 = k.slice) ∧ (nbit (fld g 23 0) p = true) ∧ (s.redTake k.group k.rid k.rop k.chunk p
      k.data).map (·.2) = some none) ∧
    (
    let s : State := rxS 0 [rk 7] fun h => { h with blocks := [blk6 [2]] }
    let p : Fin 24 := 2
    let k : Pkt := rk 7
    let g := s.rd .HAY_MCG k.group 0
    let t := ((s.redTake k.group k.rid k.rop k.chunk p k.data).map (·.1)).getD s
    let d := (((s.redTake k.group k.rid k.rop k.chunk p k.data).bind (·.2))).getD []
    (s.rxHead p 7 = some k) ∧ (bit g 63 = true) ∧ (fld g 47 32 = k.slice) ∧ (nbit (fld g 23 0) p = true) ∧ (s.redTake k.group k.rid k.rop k.chunk p
      k.data).map (·.2) = some (some d)) ∧
    (
    let s : State := rxS 0 [rk 8] id
    let p : Fin 24 := 2
    let k : Pkt := rk 8
    let g := s.rd .HAY_MCG k.group 0
    (s.rxHead p 8 = some k) ∧ (bit g 63 = true) ∧ (fld g 47 32 = k.slice) ∧ (fld g 57 53 = p.val) ∧ bit g 62 = false) ∧
    (
    let s : State := rxS 1 [rk 8] id
    let p : Fin 24 := 2
    let k : Pkt := rk 8
    let q : Fin 16 := 3
    let g := s.rd .HAY_MCG k.group 0
    let a := (((s.takeRx p).treePorts k.group).filter (· ≠ p.val)).foldl (fun a q => a.enqPort q k) (s.takeRx p)
    let t := (a.redWrite k.group k.rid k.chunk k.data).1
    (s.rxHead p 8 = some k) ∧ (bit g 63 = true) ∧ (fld g 47 32 = k.slice) ∧ (fld g 57 53 = p.val) ∧ (bit g 62 = true) ∧ (a.redWrite k.group k.rid
      k.chunk k.data).2.isNone = true) ∧
    (
    let s : State := rxS 1 [rk 8] fun h => { h with reds := [{ redop 3 with len := 260000, fn := 256 }] }
    let p : Fin 24 := 2
    let k : Pkt := rk 8
    let q : Fin 16 := 3
    let g := s.rd .HAY_MCG k.group 0
    let a := (((s.takeRx p).treePorts k.group).filter (· ≠ p.val)).foldl (fun a q => a.enqPort q k) (s.takeRx p)
    let t := (a.redWrite k.group k.rid k.chunk k.data).1
    let r := ((a.redWrite k.group k.rid k.chunk k.data).2.map (·.1)).getD (redop 3)
    let c := ((a.redWrite k.group k.rid k.chunk k.data).2.map (·.2)).getD 0
    (s.rxHead p 8 = some k) ∧ (bit g 63 = true) ∧ (fld g 47 32 = k.slice) ∧ (fld g 57 53 = p.val) ∧ (bit g 62 = true) ∧ (a.redWrite k.group k.rid
      k.chunk k.data).2.isSome = true) := by
  refine ⟨?_, ?_, ?_, ?_, ?_, ?_⟩ <;> decide +kernel

/-- A state and operands that meet the hypotheses of each clause of `FabricRowsComplete` (part 5). -/
theorem wit_FabricRowsComplete_e :
    (
    let s : State := hring 1 0 [0x200000, 0x300000, 4000, 6] id
    let q : Fin 16 := 3
    let e : QEnt := (s.ring .hay q).ents.headD (mkEnt 0 0 0 0 0 0 0 [])
    let live := s.ringReady .hay q = some e ∧ e.hayBad = false ∧ s.rdF .HAY_MCG (e.arg 3 % 64) 0 63 63 = 1 ∧ s.rangeBad e.owner (e.arg 0) (e.arg 2)
      false = 0 ∧ e.arg 0 + e.arg 2 ≤ 0xA000000000 ∧ s.media (e.arg 0) (.silo (e.arg 0)) (e.arg 2) false = 0
    (live) ∧ e.opc = 1) ∧
    (
    let s : State := hring 1 0 [0x200000, 0x300000, 4000, 5] id
    let q : Fin 16 := 3
    let e : QEnt := (s.ring .hay q).ents.headD (mkEnt 0 0 0 0 0 0 0 [])
    (s.ringReady .hay q = some e) ∧ ((e.hayBad = true ∨ s.rdF .HAY_MCG (e.arg 3 % 64) 0 63 63 = 0))) ∧
    (
    let s : State := fab 1 0 id
    let q : Fin 16 := 3
    ((∀ r ∈ s.hay.reds, r.ring = q.val → r.waits = []))) ∧
    (
    let s : State := hring 2 0 [0x200000, 0x300000, 4, 6 + 2 ^ 16] id
    let q : Fin 16 := 3
    let e : QEnt := (s.ring .hay q).ents.headD (mkEnt 0 0 0 0 0 0 0 [])
    let live := s.ringReady .hay q = some e ∧ e.hayBad = false ∧ s.rdF .HAY_MCG (e.arg 3 % 64) 0 63 63 = 1 ∧ s.rangeBad e.owner (e.arg 0) (e.arg 2)
      false = 0 ∧ e.arg 0 + e.arg 2 ≤ 0xA000000000 ∧ s.media (e.arg 0) (.silo (e.arg 0)) (e.arg 2) false = 0
    let r : RedOp := ⟨q, e.id, e.fn, e.arg 3 % 64, nbits (e.arg 3) 31 16, nbits (e.arg 3) 9 8, e.arg 0, e.arg 1, e.arg 2, [], []⟩
    ((∀ r ∈ s.hay.reds, r.ring = q.val → r.waits = [])) ∧ (live) ∧ (e.opc = 2) ∧ (s.rangeBad e.owner (e.arg 1) (e.arg 2) true = 0) ∧ (e.arg 1 + e.arg
      2 ≤ 0xA000000000) ∧ s.rdF .HAY_MCG r.group 0 62 62 = 0) ∧
    (
    let s : State := hring 2 1 [0x200000, 0x300000, 4, 6 + 2 ^ 16] id
    let q : Fin 16 := 3
    let e : QEnt := (s.ring .hay q).ents.headD (mkEnt 0 0 0 0 0 0 0 [])
    let live := s.ringReady .hay q = some e ∧ e.hayBad = false ∧ s.rdF .HAY_MCG (e.arg 3 % 64) 0 63 63 = 1 ∧ s.rangeBad e.owner (e.arg 0) (e.arg 2)
      false = 0 ∧ e.arg 0 + e.arg 2 ≤ 0xA000000000 ∧ s.media (e.arg 0) (.silo (e.arg 0)) (e.arg 2) false = 0
    let r : RedOp := ⟨q, e.id, e.fn, e.arg 3 % 64, nbits (e.arg 3) 31 16, nbits (e.arg 3) 9 8, e.arg 0, e.arg 1, e.arg 2, [], []⟩
    ((∀ r ∈ s.hay.reds, r.ring = q.val → r.waits = [])) ∧ (live) ∧ (e.opc = 2) ∧ (s.rangeBad e.owner (e.arg 1) (e.arg 2) true = 0) ∧ (e.arg 1 + e.arg
      2 ≤ 0xA000000000) ∧ s.rdF .HAY_MCG r.group 0 62 62 = 1) ∧
    (
    let s : State := fab 1 1 fun h => { h with blocks := [blk6 [24]] }
    let r := redop 3
    let c := 0
    let taken := s.redTake r.group r.rid r.rop c 24 (s.load .silo (r.src + 3936 * c) (min 3936 (r.len - 3936 * c)))
    let t := ((s.redTake r.group r.rid r.rop c 24 (s.load .silo (r.src + 3936 * c) (min 3936 (r.len - 3936 * c)))).map (·.1)).getD s
    let d := (((s.redTake r.group r.rid r.rop c 24 (s.load .silo (r.src + 3936 * c) (min 3936 (r.len - 3936 * c)))).bind (·.2))).getD []
    (taken.map (·.2)) = some (some d)) := by
  refine ⟨?_, ?_, ?_, ?_, ?_, ?_⟩ <;> decide +kernel

/-- A state and operands that meet the hypotheses of each clause of `FabricRowsComplete` (part 6). -/
theorem wit_FabricRowsComplete_f :
    (
    let s : State := fab 1 1 id
    let r := redop 3
    let c := 0
    let taken := s.redTake r.group r.rid r.rop c 24 (s.load .silo (r.src + 3936 * c) (min 3936 (r.len - 3936 * c)))
    let t := ((s.redTake r.group r.rid r.rop c 24 (s.load .silo (r.src + 3936 * c) (min 3936 (r.len - 3936 * c)))).map (·.1)).getD s
    (taken.map (·.2)) = some none) ∧
    (
    let s : State := fab 1 1 fun h => { h with blocks := full }
    let r := redop 3
    let c := 0
    let taken := s.redTake r.group r.rid r.rop c 24 (s.load .silo (r.src + 3936 * c) (min 3936 (r.len - 3936 * c)))
    taken.isNone = true) ∧
    (
    let s : State := hring 2 1 [0x200000, 0x300000, 4, 6 + 2 ^ 16] id
    let q : Fin 16 := 3
    s.hay.reds.find? (fun r => decide (r.ring = q.val)) = none) ∧
    (
    (
    let s : State := hring 2 1 [0x200000, 0x300000, 4, 6 + 2 ^ 16] fun h => { h with reds := [redop 3] }
    let q : Fin 16 := 3
    ((s.hay.reds.find? (fun r => decide (r.ring = q.val))).toList).any fun r => decide (True)) = true) ∧
    (
    let s : State := State.wr P .HAY_TIME_CTL 0 0 1
    let ctl := s.rd .HAY_TIME_CTL 0 0
    fld ctl 1 0 ≠ 0) ∧
    (
    let s : State := { P with time := 0 }
    let ref : Bool := true
    let ctl := s.rd .HAY_TIME_CTL 0 0
    (fld ctl 1 0 = 0) ∧ (s.hay.edgeAt = 0 ∨ s.rdF .HAY_TIME_STATUS 0 0 1 1 = 1 ∨ (s.hay.edgeAt - 1 + 156250 ≤ s.hay.ref + 4 ∧ s.hay.ref ≤ s.hay.edgeAt
      - 1 + 156250 + 4))) := by
  refine ⟨?_, ?_, ?_, ?_, ?_, ?_⟩ <;> decide +kernel

/-- A state and operands that meet the hypotheses of each clause of `FabricRowsComplete` (part 7). -/
theorem wit_FabricRowsComplete_g :
    (
    let s : State := fab 1 0 fun h => { h with edgeAt := 1 }
    let ref : Bool := true
    let ctl := s.rd .HAY_TIME_CTL 0 0
    (fld ctl 1 0 = 0) ∧ (s.hay.edgeAt ≠ 0) ∧ ((s.hay.ref + 4 < s.hay.edgeAt - 1 + 156250 ∨ s.hay.edgeAt - 1 + 156250 + 4 < s.hay.ref)) ∧ s.rdF
      .HAY_TIME_STATUS 0 0 1 1 = 0) ∧
    (
    let s : State := fab 1 0 id
    let w : Agent := .firmware
    Allowed s w .HAY_TIME_FRAME 0 0) ∧
    (
    let s : State := (hay 6 id).wr .HAY_TIME_CTL 0 0 0x204
    let ctl := s.rd .HAY_TIME_CTL 0 0
    (fld ctl 1 0 = 0) ∧ (bit ctl 2 = true) ∧ s.rdF .HAY_PORT_STATUS (fld ctl 12 8) 0 3 0 = 6) ∧
    (
    let s : State := State.wr P .HAY_TIME_CTL 0 0 5
    let ctl := s.rd .HAY_TIME_CTL 0 0
    (fld ctl 1 0 ≠ 0) ∧ bit ctl 2 = true) ∧
    (
    let s : State := P
    let ref : Bool := true
    let ctl := s.rd .HAY_TIME_CTL 0 0
    (bit ctl 2 = false ∨ (fld ctl 1 0 = 0 ∧ s.rdF .HAY_PORT_STATUS (fld ctl 12 8) 0 3 0 ≠ 6) ∨ (fld ctl 1 0 ≠ 0 ∧ ref = false))) := by
  refine ⟨?_, ?_, ?_, ?_, ?_⟩ <;> decide +kernel

def withP (f : PwrSt → PwrSt) : State := up0.setPwr (f up0.pwr)
def sens (i : Nat) (v : Int) (s : State) : State := s.wr .LOFT_SENS i 0 (sensWord (-400) 1500 v)

/-- A state and operands that meet the hypotheses of each clause of `PowerRowsComplete` (part 1). -/
theorem wit_PowerRowsComplete_a :
    (
    let s : State := up0
    let p := s.pwr
    let on := s.loft.off = false ∧ p.tripped = false
    on) ∧
    (
    let s : State := up0.setCore 1 { Core.reset with state := .running }
    let p := s.pwr
    (s.svcUp = true) ∧ (p.chg = none) ∧ (p.halted = false) ∧ p.tripped = false) ∧
    (
    let s : State := withP fun p => { p with halted := true }
    let p := s.pwr
    (p.chg ≠ none ∨ p.halted = true ∨ p.tripped = true)) ∧
    (
    let s : State := up0
    s.svcUp = false) ∧
    (
    (
    let s : State := withP fun p => { p with chg := some ⟨3, 1, 100, 200⟩ }
    let p := s.pwr
    ((p.chg).toList).any fun c => decide (True)) = true) ∧
    (
    let s : State := up0
    let p := s.pwr
    p.chg = none) := by
  refine ⟨?_, ?_, ?_, ?_, ?_, ?_⟩ <;> decide +kernel

/-- A state and operands that meet the hypotheses of each clause of `PowerRowsComplete` (part 2). -/
theorem wit_PowerRowsComplete_b :
    (
    let s : State := up0
    let w : Agent := .firmware
    Allowed s w .PWR_HB 0 0) ∧
    (
    let s : State := up0
    let p := s.pwr
    let on := s.loft.off = false ∧ p.tripped = false
    (on) ∧ (s.isReady = true) ∧ p.orphan = false) ∧
    (
    let s : State := up0
    let mv : BitVec 17 := 43000
    let p := s.pwr
    let on := s.loft.off = false ∧ p.tripped = false
    let cal := ((mv.toNat : Int) + s.calOff 3).toNat
    (on) ∧ (p.sag = false) ∧ (cal < 44000) ∧ (mv.toNat ≤ 60000) ∧ ((cal < 38000 → p.lowN < 99))) ∧
    (
    let s : State := withP fun p => { p with sag := true, sagGood := 999 }
    let mv : BitVec 17 := 46000
    let p := s.pwr
    let on := s.loft.off = false ∧ p.tripped = false
    let cal := ((mv.toNat : Int) + s.calOff 3).toNat
    (on) ∧ (p.sag = true) ∧ (45000 ≤ cal) ∧ mv.toNat ≤ 60000) ∧
    (
    ( ([(withP fun p => { p with lowN := 99 }, 30000), (withP fun p => { p with highN := 99 }, 60001)] : List (State × BitVec 17)).all fun x =>
     
      let s := x.1; let mv := x.2; let p := s.pwr; let cal := ((mv.toNat : Int) + s.calOff 3).toNat
      decide ((s.loft.off = false ∧ p.tripped =
      false) ∧ p.halted = false ∧ ((cal < 38000 ∧ p.lowN = 99) ∨ (60000 < mv.toNat ∧ p.highN = 99)))) = true) ∧
    (
    let s : State := up0
    let p := s.pwr
    let on := s.loft.off = false ∧ p.tripped = false
    (on) ∧ (mget dNil s.chf.errq 12).length < 6) := by
  refine ⟨?_, ?_, ?_, ?_, ?_, ?_⟩ <;> decide +kernel

/-- A state and operands that meet the hypotheses of each clause of `PowerRowsComplete` (part 3). -/
theorem wit_PowerRowsComplete_c :
    (
    let s : State := sens 128 1160 up0
    let p := s.pwr
    let on := s.loft.off = false ∧ p.tripped = false
    (on) ∧ s.atTrip = true) ∧
    (
    let s : State := P
    let w : Agent := .firmware
    let p := s.pwr
    (Allowed s w .PWR_IDLE 0 0) ∧ (p.idle = 0) ∧ s.isIdle = true) ∧
    (
    let s : State := withP fun p => { p with idle := 2 }
    let w : Agent := .firmware
    let p := s.pwr
    (Allowed s w .PWR_IDLE 0 0) ∧ p.idle = 2) ∧
    (
    let s : State := withP fun p => { p with idle := 2 }
    let w : Agent := .firmware
    let p := s.pwr
    (Allowed s w .PWR_IDLE 0 0) ∧ (p.idle ≠ 0 ∨ s.isIdle = false)) ∧
    (
    let s : State := up0
    let w : Agent := .firmware
    let p := s.pwr
    (Allowed s w .PWR_IDLE 0 0) ∧ p.idle ≠ 2) ∧
    (
    ((List.range 6).all fun nth =>
    let s : State := withP fun p => { p with tripped := true }
    ([100, 4000] : List (BitVec 13)).any fun watts =>
    let rise : Fin 4 := 3
    let p := s.pwr
    (([Instr.powerSample watts rise, .orphaned, .coolantHot, .coolantFlowLow, .thermalLadderEval, .thermtrip])[nth]?.toList).any fun x => decide
      ((p.tripped = true ∨ s.loft.off = true))) = true) := by
  refine ⟨?_, ?_, ?_, ?_, ?_, ?_⟩ <;> decide +kernel

/-- A state and operands that meet the hypotheses of each clause of `PowerRowsComplete` (part 4). -/
theorem wit_PowerRowsComplete_d :
    (
    let s : State := up0
    let p := s.pwr
    let on := s.loft.off = false ∧ p.tripped = false
    (on) ∧ s.atTrip = false) := by decide +kernel

def er (sev code : Nat) : ErrRec := errRec code sev 12 0 0
def chf (f : ChfSt → ChfSt) : State := up0.setChf (f up0.chf)

/-- A state and operands that meet the hypotheses of each clause of `ChaffRowsComplete` (part 1). -/
theorem wit_ChaffRowsComplete_a :
    (
    let s : State := up0
    s.errSource = none) ∧
    (
    ( ([1, 2, 3].map fun v => up0.raise (er v 0x0D02) : List (State)).any fun s =>
    let n : Nat := 12
    ((mget dNil s.chf.errq n) : List (ErrRec)).any fun e =>
    let es : List ErrRec := []
    decide ((s.errSource = some n) ∧ mget dNil s.chf.errq n = e :: es)) = true) ∧
    (
    (
    let s : State := up0.raise (er 3 0x0D02)
    let n : Nat := 12
    ((mget dNil s.chf.errq n) : List (ErrRec)).any fun e =>
    let es : List ErrRec := []
    let x : Nat := 0
    let sev := fun (t : State) (x : Reg) => t.rd x 0 0 = s.rd x 0 0 + 1
    decide ((s.errSource = some n) ∧ (mget dNil s.chf.errq n = e :: es) ∧ e.sev = 3)) = true) ∧
    (
    let e : ErrRec := er 3 0x0E02
    (e.code ≠ 0x0D02) ∧ e.code ≠ 0x0D08) ∧
    (
    let s : State := up0
    let u : Fin 16896 := 5
    let test := mget dNat s.chf.tests u
    (test = 0) ∧ ((s.tile (cuInst u)).fenced = false) ∧ s.plotOf (cuInst u) = none) ∧
    (
    let s : State := up0.setTile (cuInst 5) { up0.tile (cuInst 5) with fenced := true }
    let u : Fin 16896 := 5
    let test := mget dNat s.chf.tests u
    (test = 0) ∧ (s.tile (cuInst u)).fenced = true) := by
  refine ⟨?_, ?_, ?_, ?_, ?_, ?_⟩ <;> decide +kernel

/-- A state and operands that meet the hypotheses of each clause of `ChaffRowsComplete` (part 2). -/
theorem wit_ChaffRowsComplete_b :
    (
    (
    let s : State := P
    let u : Fin 16896 := 0
    let test := mget dNat s.chf.tests u
    ((s.plotOf (cuInst u)).toList).any fun p => decide ((test = 0) ∧ (s.tile (cuInst u)).fenced = false)) = true) ∧
    (
    let s : State := chf fun c => { c with tests := [(5, 1)] }
    let u : Fin 16896 := 5
    let test := mget dNat s.chf.tests u
    test = 1) ∧
    (
    let s : State := chf fun c => { c with tests := [(5, 2)] }
    let u : Fin 16896 := 5
    let test := mget dNat s.chf.tests u
    2 ≤ test) ∧
    (
    let s : State := chf fun c => { c with tests := [(5, 2)] }
    let u : Fin 16896 := 5
    let test := mget dNat s.chf.tests u
    test = 2) ∧
    (
    let s : State := up0
    let u : Fin 16896 := 5
    let test := mget dNat s.chf.tests u
    test ≠ 2) ∧
    (
    let s : State := chf fun c => { c with unsaved := [1] }
    let k := 1
    let ks := []
    s.chf.unsaved = k :: ks) := by
  refine ⟨?_, ?_, ?_, ?_, ?_, ?_⟩ <;> decide +kernel

/-- A state and operands that meet the hypotheses of each clause of `ChaffRowsComplete` (part 3). -/
theorem wit_ChaffRowsComplete_c :
    (
    let s : State := up0
    s.chf.unsaved = []) ∧
    (
    let s : State := up0
    let w : Agent := .firmware
    let i : Fin 65536 := 0
    (Allowed s w .CHF_FMAP_A i 0) ∧ s.fences ≤ i.val) ∧
    (
    ( ([1, 2, 4, 5, 8, 9].map fun k => up0.addFence k 3 : List (State)).any fun s =>
    let w : Agent := .firmware
    let i : Fin 65536 := 0
    decide ((Allowed s w .CHF_FMAP_A i 0) ∧ (i.val < s.fences) ∧ (s.fence i).1 ∈ [1, 2, 4, 5, 8, 9])) = true) ∧
    (
    ( ([3, 6, 7].map fun k => up0.addFence k 3 : List (State)).any fun s =>
    let w : Agent := .firmware
    let i : Fin 65536 := 0
    decide ((Allowed s w .CHF_FMAP_A i 0) ∧ (i.val < s.fences) ∧ (s.fence i).1 ∉ [1, 2, 4, 5, 8, 9])) = true) ∧
    (
    let rv : List BankReq := [.data 0]
    (∃ q ∈ rv, q ≠ .scrub)) ∧
    (( ([[], [.scrub]] : List (List BankReq)).any fun rv => decide ((∀ q ∈ rv, q = .scrub))) = true) := by
  refine ⟨?_, ?_, ?_, ?_, ?_, ?_⟩ <;> decide +kernel

/-- A state and operands that meet the hypotheses of each clause of `ChaffRowsComplete` (part 4). -/
theorem wit_ChaffRowsComplete_d :
    (
    (
    let s : State := chf fun c => { c with ceAt := up0.time + 1, ceLocs := [cePlace 1 (5 * 0x10000 + 1000 / 64 * 16 + 1000 / 4 % 16)] }
    let u : Fin 16896 := 5
    let a : Fin 262144 := 1000
    ([[], [.scrub]] : List (List BankReq)).any fun rv =>
    let gran := a.val / 4 * 4
    let place := cePlace 1 (u * 0x10000 + gran / 64 * 16 + a.val / 4 % 16)
    decide (((∀ q ∈ rv, q = .scrub)) ∧ (s.chf.ceAt = s.time + 1) ∧ place ∈ s.chf.ceLocs)) = true) ∧
    (
    (
    let s : State := up0
    let u : Fin 16896 := 5
    let a : Fin 262144 := 1000
    ([[], [.scrub]] : List (List BankReq)).any fun rv =>
    let gran := a.val / 4 * 4
    let place := cePlace 1 (u * 0x10000 + gran / 64 * 16 + a.val / 4 % 16)
    let row := bankOf gran * 256 + rowOf gran
    let recent := (mget dNil (s.mu u).ceRow row).filter fun t => decide (s.time < t + 13500000000000)
    decide (((∀ q ∈ rv, q = .scrub)) ∧ (s.chf.ceAt ≠ s.time + 1 ∨ place ∉ s.chf.ceLocs) ∧ recent.length < 3)) = true) ∧
    (
    let s : State := up0
    let i : Fin 65536 := 65535
    let led : Fin 6 := 1
    s.ledger led i = none) ∧
    (
    ( ([up0, up0.wr .MU_SLOT_FILLS 0 0 1] : List (State)).any fun s =>
    let i : Fin 65536 := 0
    let led : Fin 6 := 1
    (((s.ledger led i).map (·.1)).toList).any fun x => (((s.ledger led i).map (·.2)).toList).any fun y => decide (s.ledger led i = some (x, y))) =
      true) ∧
    (
    let s : State := up0
    let w : Agent := .firmware
    let v : BitVec 64 := 0x8000000B00000030
    (Allowed s w .CHF_RING_CFG 0 0) ∧ (s.ringEnabled = false) ∧ (10 ≤ fld v 36 32) ∧ (fld v 36 32 ≤ 20) ∧ s.chf.store = []) ∧
    (
    let s : State := up0
    let w : Agent := .firmware
    let v : BitVec 64 := 0x8000000B00000030
    (Allowed s w .CHF_RING_CFG 0 0) ∧ (s.ringEnabled = false) ∧ (10 ≤ fld v 36 32) ∧ fld v 36 32 ≤ 20) := by
  refine ⟨?_, ?_, ?_, ?_, ?_, ?_⟩ <;> decide +kernel

/-- A state and operands that meet the hypotheses of each clause of `ChaffRowsComplete` (part 5). -/
theorem wit_ChaffRowsComplete_e :
    (
    let s : State := up0.wrF .CHF_RING_CFG 0 0 63 63 1
    let w : Agent := .firmware
    let v : BitVec 64 := 0x8000000B00000030
    (Allowed s w .CHF_RING_CFG 0 0) ∧ (s.ringEnabled = true ∨ fld v 36 32 < 10 ∨ 20 < fld v 36 32)) := by decide +kernel

def kblk (op : Nat) (s : State) : State := s.store .csram 0x300 ([BitVec.ofNat 8 op, 7, 2, 0, 0x44, 0x33, 0x22, 0x11] ++ List.replicate 64 0x5A)
def own (c : Nat) (s : State) : State := s.wr .HSP_KSLOT_A 2 0 (BitVec.ofNat 64 (7 * 2 ^ 56 + c * 2 ^ 47))
def hs (f : HaspSt → HaspSt) (s : State) : State := s.setHasp (f s.hasp)
def imgHd : List Byte := [0, 0, 0, 0, 0, 0, 0, 0, 9, 2] ++ List.replicate 50 0
/-- A SEND to firmware on queue pair 9 naming a key block with operation `op`. -/
def kq (op : Nat) : State := ((withQ 9 [mkEnt 4 0x20 0 0 1 2 0 [0x80, 0x200000001000]] (qp9 2 1)).store .host 0x1000 [BitVec.ofNat 8 op, 7, 2, 0])

/-- A state and operands that meet the hypotheses of each clause of `KeyAndDebugRowsComplete` (part 1). -/
theorem wit_KeyAndDebugRowsComplete_a :
    (
    (
    let s : State := State.reset
    let c : Fin 64 := 5
    let off : BitVec 25 := 0x3AB
    let q : Fin 16384 := 9
    let up := 1 ≤ s.rdF .HSP_STATUS 0 0 58 56 ∧ s.rdF .HSP_STATUS 0 0 58 56 ≤ 3
    let src := KeySrc.core c off
    (([Instr.unwrap (.core 5 0x3AB), .loadPub (.core 5 0x3AB), .clear (.core 5 0x3AB), .rbCommit (.core 5 0x3AB), .unwrap (.queue 9), .loadPub (.queue
      9), .clear (.queue 9), .rbCommit (.queue 9)])).any fun o => decide (¬ up)) = true) ∧
    (
    ( ([kblk 1 up0, kblk 2 up0, kblk 3 up0] : List (State)).any fun s =>
    let c : Fin 64 := 5
    let off : BitVec 25 := 0x3AB
    let up := 1 ≤ s.rdF .HSP_STATUS 0 0 58 56 ∧ s.rdF .HSP_STATUS 0 0 58 56 ≤ 3
    let base := off.toNat / 256 * 256
    let b := s.load .csram base 256
    let k := KeyFrom.core c off.toNat
    let src := KeySrc.core c off
    let slot := le b 2 2 % 4096
    let mine := s.keyMine k slot = true
    (([(.unwrap (.core 5 0x3AB), 1), (.loadPub (.core 5 0x3AB), 2), (.clear (.core 5 0x3AB), 3)] : List (Instr × Nat))).any fun o => decide ((up) ∧ (¬
      mine) ∧ le b 0 1 = o.2)) = true) ∧
    (
    let s : State := kblk 1 (own 5 (hs (fun h => { h with nounwrap := true }) up0))
    let c : Fin 64 := 5
    let off : BitVec 25 := 0x3AB
    let up := 1 ≤ s.rdF .HSP_STATUS 0 0 58 56 ∧ s.rdF .HSP_STATUS 0 0 58 56 ≤ 3
    let base := off.toNat / 256 * 256
    let b := s.load .csram base 256
    let k := KeyFrom.core c off.toNat
    let slot := le b 2 2 % 4096
    let mine := s.keyMine k slot = true
    (up) ∧ (mine) ∧ (le b 0 1 = 1) ∧ s.hasp.nounwrap = true) ∧
    (
    let s : State := kblk 1 (own 5 up0)
    let c : Fin 64 := 5
    let off : BitVec 25 := 0x3AB
    let up := 1 ≤ s.rdF .HSP_STATUS 0 0 58 56 ∧ s.rdF .HSP_STATUS 0 0 58 56 ≤ 3
    let base := off.toNat / 256 * 256
    let b := s.load .csram base 256
    let k := KeyFrom.core c off.toNat
    let slot := le b 2 2 % 4096
    let mine := s.keyMine k slot = true
    (up) ∧ (mine) ∧ (le b 0 1 = 1) ∧ s.hasp.nounwrap = false) ∧
    (
    let s : State := kblk 2 (own 5 up0)
    let c : Fin 64 := 5
    let off : BitVec 25 := 0x3AB
    let up := 1 ≤ s.rdF .HSP_STATUS 0 0 58 56 ∧ s.rdF .HSP_STATUS 0 0 58 56 ≤ 3
    let base := off.toNat / 256 * 256
    let b := s.load .csram base 256
    let k := KeyFrom.core c off.toNat
    let slot := le b 2 2 % 4096
    let mine := s.keyMine k slot = true
    (up) ∧ (mine) ∧ le b 0 1 = 2) ∧
    (
    let s : State := kblk 3 (own 5 up0)
    let c : Fin 64 := 5
    let off : BitVec 25 := 0x3AB
    let up := 1 ≤ s.rdF .HSP_STATUS 0 0 58 56 ∧ s.rdF .HSP_STATUS 0 0 58 56 ≤ 3
    let base := off.toNat / 256 * 256
    let b := s.load .csram base 256
    let k := KeyFrom.core c off.toNat
    let slot := le b 2 2 % 4096
    let mine := s.keyMine k slot = true
    (up) ∧ (mine) ∧ le b 0 1 = 3) := by
  refine ⟨?_, ?_, ?_, ?_, ?_, ?_⟩ <;> decide +kernel

/-- A state and operands that meet the hypotheses of each clause of `KeyAndDebugRowsComplete` (part 2). -/
theorem wit_KeyAndDebugRowsComplete_b :
    (
    let s : State := (kblk 4 up0).setCore 5 { Core.reset with monitor := false }
    let c : Fin 64 := 5
    let off : BitVec 25 := 0x3AB
    let up := 1 ≤ s.rdF .HSP_STATUS 0 0 58 56 ∧ s.rdF .HSP_STATUS 0 0 58 56 ≤ 3
    let base := off.toNat / 256 * 256
    let b := s.load .csram base 256
    let k := KeyFrom.core c off.toNat
    (up) ∧ (le b 0 1 = 4) ∧ s.keyPl1 k = false) ∧
    (
    let s : State := kblk 4 (hs (fun h => { h with run := [(1, imgHd)] }) up0)
    let c : Fin 64 := 5
    let off : BitVec 25 := 0x3AB
    let up := 1 ≤ s.rdF .HSP_STATUS 0 0 58 56 ∧ s.rdF .HSP_STATUS 0 0 58 56 ≤ 3
    let base := off.toNat / 256 * 256
    let b := s.load .csram base 256
    let k := KeyFrom.core c off.toNat
    let slot := le b 2 2 % 4096
    let held := ((s.hasp.run.map (·.2)).filter fun h => decide (h ≠ [] ∧ hdrRbc h = slot % 64)).map hdrSvn
    (up) ∧ (le b 0 1 = 4) ∧ (s.keyPl1 k = true) ∧ held ≠ []) ∧
    (
    let s : State := kblk 4 up0
    let c : Fin 64 := 5
    let off : BitVec 25 := 0x3AB
    let up := 1 ≤ s.rdF .HSP_STATUS 0 0 58 56 ∧ s.rdF .HSP_STATUS 0 0 58 56 ≤ 3
    let base := off.toNat / 256 * 256
    let b := s.load .csram base 256
    let k := KeyFrom.core c off.toNat
    let slot := le b 2 2 % 4096
    let held := ((s.hasp.run.map (·.2)).filter fun h => decide (h ≠ [] ∧ hdrRbc h = slot % 64)).map hdrSvn
    (up) ∧ (le b 0 1 = 4) ∧ (s.keyPl1 k = true) ∧ held.isEmpty = true) ∧
    (
    ((List.range 4).all fun nth =>
    let s : State := kblk 9 up0
    let c : Fin 64 := 5
    let off : BitVec 25 := 0x3AB
    let up := 1 ≤ s.rdF .HSP_STATUS 0 0 58 56 ∧ s.rdF .HSP_STATUS 0 0 58 56 ≤ 3
    let base := off.toNat / 256 * 256
    let b := s.load .csram base 256
    let src := KeySrc.core c off
    (([(.unwrap src, 1), (.loadPub src, 2), (.clear src, 3), (.rbCommit src, 4)] : List (Instr × Nat))[nth]?.toList).any fun o => decide ((up) ∧ le b
      0 1 ≠ o.2)) = true) ∧
    (
    ((List.range 4).all fun nth =>
    let s : State := up0
    let q : Fin 16384 := 9
    (([Instr.unwrap (.queue q), .loadPub (.queue q), .clear (.queue q), .rbCommit (.queue q)])[nth]?.toList).any fun o => decide (s.fwSend q = none))
      = true) ∧
    (
    ((List.range 4).all fun nth =>
    let s : State := ((withQ 9 [mkEnt 4 0x20 0 0 1 2 0 [0x80, 0x10000000000000]] (qp9 2 1)))
    let q : Fin 16384 := 9
    let up := 1 ≤ s.rdF .HSP_STATUS 0 0 58 56 ∧ s.rdF .HSP_STATUS 0 0 58 56 ≤ 3
    ((s.fwSend q).toList).any fun e => (errOf (s.keyBlock (.func e.fn (e.arg 1)))).any fun st => (([Instr.unwrap (.queue q), .loadPub (.queue q),
      .clear (.queue q), .rbCommit (.queue q)])[nth]?.toList).any fun o => decide (up)) = true) := by
  refine ⟨?_, ?_, ?_, ?_, ?_, ?_⟩ <;> decide +kernel

/-- A state and operands that meet the hypotheses of each clause of `KeyAndDebugRowsComplete` (part 3). -/
theorem wit_KeyAndDebugRowsComplete_c :
    (
    ( ([kq 1, kq 2, kq 3, kq 4] : List (State)).any fun s =>
    let off : BitVec 25 := 0x3AB
    let q : Fin 16384 := 9
    let up := 1 ≤ s.rdF .HSP_STATUS 0 0 58 56 ∧ s.rdF .HSP_STATUS 0 0 58 56 ≤ 3
    let base := off.toNat / 256 * 256
    let b := s.load .csram base 256
    ((s.fwSend q).toList).any fun e => (((s.keyBlock (.func e.fn (e.arg 1))).toOption).toList).any fun b => (([(.unwrap (.queue 9), 1), (.loadPub
      (.queue 9), 2), (.clear (.queue 9), 3), (.rbCommit (.queue 9), 4)] : List (Instr × Nat))).any fun o => decide ((up) ∧ (s.keyBlock (.func e.fn
      (e.arg 1))).toOption = some b)) = true) ∧
    (
    (
    let s : State := up0
    ([.firmware, .core 5] : List (Agent)).any fun w => decide (s.pl w ≤ 1)) = true) ∧
    (
    let s : State := up0
    let w : Agent := .firmware
    Allowed s w .HSP_DBG_RESP 8 0) := by
  refine ⟨?_, ?_, ?_⟩ <;> decide +kernel

def conn (n : Nat) : State := up0.setConn true ⟨n, [], [], []⟩
def reqV (ver c : Nat) (f : Nat → Nat) (len : Nat) : List Byte := [BitVec.ofNat 8 ver, BitVec.ofNat 8 c] ++ (List.range (len - 2)).map fun k => BitVec.ofNat 8 (f (k + 2))
def req (c : Nat) (f : Nat → Nat) (len : Nat) : List Byte := reqV 0x12 c f len
def codes : List Nat := [0x84, 0xE1, 0xE3, 0x81, 0x82, 0x83, 0xE0]

/-- A state and operands that meet the hypotheses of each clause of `AttestationRowsComplete` (part 1). -/
theorem wit_AttestationRowsComplete_a :
    (
    (
    let s : State := conn 3
    let d : Bool := true
    let r : List Byte := []
    let up := 1 ≤ s.rdF .HSP_STATUS 0 0 58 56 ∧ s.rdF .HSP_STATUS 0 0 58 56 ≤ 3
    let rows := ([(.getVersion d r, 0x84, 0, 4), (.getCapabilities d r, 0xE1, 1, 20), (.negotiateAlgorithms d r, 0xE3, 2, 32), (.getDigests d r, 0x81,
      3, 4), (.getCertificate d r, 0x82, 3, 8), (.challenge d r, 0x83, 3, 36), (.getMeasurements d r, 0xE0, 3, 4)] : List (Instr × Nat × Nat × Nat))
    (rows).any fun o => decide ((¬ up ∨ le r 1 1 ≠ o.2.1))) = true) ∧
    (
    (
    let s : State := conn 3
    let d : Bool := true
    (codes.map fun c => req c (fun _ => 0) 3 : List (List Byte)).any fun r =>
    let up := 1 ≤ s.rdF .HSP_STATUS 0 0 58 56 ∧ s.rdF .HSP_STATUS 0 0 58 56 ≤ 3
    let rows := ([(.getVersion d r, 0x84, 0, 4), (.getCapabilities d r, 0xE1, 1, 20), (.negotiateAlgorithms d r, 0xE3, 2, 32), (.getDigests d r, 0x81,
      3, 4), (.getCertificate d r, 0x82, 3, 8), (.challenge d r, 0x83, 3, 36), (.getMeasurements d r, 0xE0, 3, 4)] : List (Instr × Nat × Nat × Nat))
    (rows).any fun o => decide ((up) ∧ (le r 1 1 = o.2.1) ∧ r.length < o.2.2.2)) = true) ∧
    (
    (
    let s : State := conn 3
    let d : Bool := true
    (codes.map fun c => reqV 0x11 c (fun _ => 0) 37 : List (List Byte)).any fun r =>
    let up := 1 ≤ s.rdF .HSP_STATUS 0 0 58 56 ∧ s.rdF .HSP_STATUS 0 0 58 56 ≤ 3
    let rows := ([(.getVersion d r, 0x84, 0, 4), (.getCapabilities d r, 0xE1, 1, 20), (.negotiateAlgorithms d r, 0xE3, 2, 32), (.getDigests d r, 0x81,
      3, 4), (.getCertificate d r, 0x82, 3, 8), (.challenge d r, 0x83, 3, 36), (.getMeasurements d r, 0xE0, 3, 4)] : List (Instr × Nat × Nat × Nat))
    (rows).any fun o => decide ((o.2.1 ≠ 0x84) ∧ (up) ∧ (le r 1 1 = o.2.1) ∧ (o.2.2.2 ≤ r.length) ∧ le r 0 1 ≠ 0x12)) = true) ∧
    (
    (
    let s : State := conn 0
    let d : Bool := true
    (codes.map fun c => req c (fun _ => 0) 37 : List (List Byte)).any fun r =>
    let up := 1 ≤ s.rdF .HSP_STATUS 0 0 58 56 ∧ s.rdF .HSP_STATUS 0 0 58 56 ≤ 3
    let c := s.conn d
    let rows := ([(.getVersion d r, 0x84, 0, 4), (.getCapabilities d r, 0xE1, 1, 20), (.negotiateAlgorithms d r, 0xE3, 2, 32), (.getDigests d r, 0x81,
      3, 4), (.getCertificate d r, 0x82, 3, 8), (.challenge d r, 0x83, 3, 36), (.getMeasurements d r, 0xE0, 3, 4)] : List (Instr × Nat × Nat × Nat))
    (rows).any fun o => decide ((up) ∧ (le r 1 1 = o.2.1) ∧ (o.2.2.2 ≤ r.length) ∧ (le r 0 1 = 0x12) ∧ c.stage < o.2.2.1)) = true) ∧
    (
    let s : State := conn 3
    let r : List Byte := req 0x84 (fun _ => 0) 4
    let up := 1 ≤ s.rdF .HSP_STATUS 0 0 58 56 ∧ s.rdF .HSP_STATUS 0 0 58 56 ≤ 3
    (up) ∧ (le r 1 1 = 0x84) ∧ 4 ≤ r.length) ∧
    (
    let s : State := conn 1
    let d : Bool := true
    let r : List Byte := req 0xE1 (fun _ => 0) 20
    let up := 1 ≤ s.rdF .HSP_STATUS 0 0 58 56 ∧ s.rdF .HSP_STATUS 0 0 58 56 ≤ 3
    let c := s.conn d
    let is := fun (code need len : Nat) => up ∧ le r 1 1 = code ∧ le r 0 1 = 0x12 ∧ len ≤ r.length ∧ need ≤ c.stage
    is 0xE1 1 20) := by
  refine ⟨?_, ?_, ?_, ?_, ?_, ?_⟩ <;> decide +kernel

/-- A state and operands that meet the hypotheses of each clause of `AttestationRowsComplete` (part 2). -/
theorem wit_AttestationRowsComplete_b :
    (
    let s : State := conn 2
    let d : Bool := true
    let r : List Byte := req 0xE3 (fun k => if k = 8 then 0x90 else if k = 12 then 3 else 0) 32
    let up := 1 ≤ s.rdF .HSP_STATUS 0 0 58 56 ∧ s.rdF .HSP_STATUS 0 0 58 56 ≤ 3
    let c := s.conn d
    let is := fun (code need len : Nat) => up ∧ le r 1 1 = code ∧ le r 0 1 = 0x12 ∧ len ≤ r.length ∧ need ≤ c.stage
    (is 0xE3 2 32) ∧ (nbit (le r 8 4) 4 = true) ∧ nbit (le r 12 4) 0 = true) ∧
    (
    let s : State := conn 2
    let d : Bool := true
    let r : List Byte := req 0xE3 (fun _ => 0) 32
    let up := 1 ≤ s.rdF .HSP_STATUS 0 0 58 56 ∧ s.rdF .HSP_STATUS 0 0 58 56 ≤ 3
    let c := s.conn d
    let is := fun (code need len : Nat) => up ∧ le r 1 1 = code ∧ le r 0 1 = 0x12 ∧ len ≤ r.length ∧ need ≤ c.stage
    (is 0xE3 2 32) ∧ (nbit (le r 8 4) 4 = false ∨ nbit (le r 12 4) 0 = false)) ∧
    (
    let s : State := conn 3
    let d : Bool := true
    let r : List Byte := req 0x81 (fun _ => 0) 4
    let up := 1 ≤ s.rdF .HSP_STATUS 0 0 58 56 ∧ s.rdF .HSP_STATUS 0 0 58 56 ≤ 3
    let c := s.conn d
    let is := fun (code need len : Nat) => up ∧ le r 1 1 = code ∧ le r 0 1 = 0x12 ∧ len ≤ r.length ∧ need ≤ c.stage
    is 0x81 3 4) ∧
    (
    let s : State := conn 3
    let d : Bool := true
    let r : List Byte := req 0x82 (fun _ => 0) 8
    let up := 1 ≤ s.rdF .HSP_STATUS 0 0 58 56 ∧ s.rdF .HSP_STATUS 0 0 58 56 ≤ 3
    let c := s.conn d
    let is := fun (code need len : Nat) => up ∧ le r 1 1 = code ∧ le r 0 1 = 0x12 ∧ len ≤ r.length ∧ need ≤ c.stage
    (is 0x82 3 8) ∧ le r 2 1 = 0) ∧
    (
    let s : State := conn 3
    let d : Bool := true
    let r : List Byte := req 0x82 (fun k => if k = 2 then 1 else 0) 8
    let up := 1 ≤ s.rdF .HSP_STATUS 0 0 58 56 ∧ s.rdF .HSP_STATUS 0 0 58 56 ≤ 3
    let c := s.conn d
    let is := fun (code need len : Nat) => up ∧ le r 1 1 = code ∧ le r 0 1 = 0x12 ∧ len ≤ r.length ∧ need ≤ c.stage
    (is 0x82 3 8) ∧ le r 2 1 ≠ 0) ∧
    (
    let s : State := conn 3
    let d : Bool := true
    let r : List Byte := req 0x83 (fun k => if k = 2 then 1 else 0) 36
    let up := 1 ≤ s.rdF .HSP_STATUS 0 0 58 56 ∧ s.rdF .HSP_STATUS 0 0 58 56 ≤ 3
    let c := s.conn d
    let is := fun (code need len : Nat) => up ∧ le r 1 1 = code ∧ le r 0 1 = 0x12 ∧ len ≤ r.length ∧ need ≤ c.stage
    (is 0x83 3 36) ∧ le r 2 1 ≠ 0) := by
  refine ⟨?_, ?_, ?_, ?_, ?_, ?_⟩ <;> decide +kernel

/-- A state and operands that meet the hypotheses of each clause of `AttestationRowsComplete` (part 3). -/
theorem wit_AttestationRowsComplete_c :
    (
    let s : State := conn 3
    let d : Bool := true
    let r : List Byte := req 0x83 (fun _ => 0) 36
    let up := 1 ≤ s.rdF .HSP_STATUS 0 0 58 56 ∧ s.rdF .HSP_STATUS 0 0 58 56 ≤ 3
    let c := s.conn d
    let is := fun (code need len : Nat) => up ∧ le r 1 1 = code ∧ le r 0 1 = 0x12 ∧ len ≤ r.length ∧ need ≤ c.stage
    (is 0x83 3 36) ∧ le r 2 1 = 0) ∧
    (
    let s : State := conn 3
    let d : Bool := true
    let r : List Byte := req 0xE0 (fun _ => 0) 4
    let up := 1 ≤ s.rdF .HSP_STATUS 0 0 58 56 ∧ s.rdF .HSP_STATUS 0 0 58 56 ≤ 3
    let c := s.conn d
    let is := fun (code need len : Nat) => up ∧ le r 1 1 = code ∧ le r 0 1 = 0x12 ∧ len ≤ r.length ∧ need ≤ c.stage
    let plain := nbit (le r 2 1) 0 = false ∨ (37 ≤ r.length ∧ le r 36 1 = 0)
    (is 0xE0 3 4) ∧ (plain) ∧ le r 3 1 = 0) ∧
    (
    let s : State := conn 3
    let d : Bool := true
    let r : List Byte := req 0xE0 (fun k => if k = 3 then 10 else 0) 4
    let i : Nat := 10
    let up := 1 ≤ s.rdF .HSP_STATUS 0 0 58 56 ∧ s.rdF .HSP_STATUS 0 0 58 56 ≤ 3
    let c := s.conn d
    let is := fun (code need len : Nat) => up ∧ le r 1 1 = code ∧ le r 0 1 = 0x12 ∧ len ≤ r.length ∧ need ≤ c.stage
    let plain := nbit (le r 2 1) 0 = false ∨ (37 ≤ r.length ∧ le r 36 1 = 0)
    (is 0xE0 3 4) ∧ (plain) ∧ (le r 3 1 = i) ∧ (1 ≤ i) ∧ i ≤ 10) ∧
    (
    let s : State := conn 3
    let d : Bool := true
    let r : List Byte := req 0xE0 (fun k => if k = 2 then 1 else if k = 3 then 255 else 0) 37
    let up := 1 ≤ s.rdF .HSP_STATUS 0 0 58 56 ∧ s.rdF .HSP_STATUS 0 0 58 56 ≤ 3
    let c := s.conn d
    let is := fun (code need len : Nat) => up ∧ le r 1 1 = code ∧ le r 0 1 = 0x12 ∧ len ≤ r.length ∧ need ≤ c.stage
    let plain := nbit (le r 2 1) 0 = false ∨ (37 ≤ r.length ∧ le r 36 1 = 0)
    (is 0xE0 3 4) ∧ (plain) ∧ le r 3 1 = 0xFF) ∧
    (
    let s : State := conn 3
    let d : Bool := true
    let r : List Byte := req 0xE0 (fun k => if k = 3 then 11 else 0) 4
    let up := 1 ≤ s.rdF .HSP_STATUS 0 0 58 56 ∧ s.rdF .HSP_STATUS 0 0 58 56 ≤ 3
    let c := s.conn d
    let is := fun (code need len : Nat) => up ∧ le r 1 1 = code ∧ le r 0 1 = 0x12 ∧ len ≤ r.length ∧ need ≤ c.stage
    let plain := nbit (le r 2 1) 0 = false ∨ (37 ≤ r.length ∧ le r 36 1 = 0)
    (is 0xE0 3 4) ∧ (¬ plain ∨ (10 < le r 3 1 ∧ le r 3 1 ≠ 0xFF))) ∧
    (
    let s : State := conn 3
    let d : Bool := true
    let r : List Byte := req 0x55 (fun _ => 0) 4
    let up := 1 ≤ s.rdF .HSP_STATUS 0 0 58 56 ∧ s.rdF .HSP_STATUS 0 0 58 56 ≤ 3
    let rows := ([(.getVersion d r, 0x84, 0, 4), (.getCapabilities d r, 0xE1, 1, 20), (.negotiateAlgorithms d r, 0xE3, 2, 32), (.getDigests d r, 0x81,
      3, 4), (.getCertificate d r, 0x82, 3, 8), (.challenge d r, 0x83, 3, 36), (.getMeasurements d r, 0xE0, 3, 4)] : List (Instr × Nat × Nat × Nat))
    (up) ∧ le r 1 1 ∉ rows.map (·.2.1)) := by
  refine ⟨?_, ?_, ?_, ?_, ?_, ?_⟩ <;> decide +kernel

def lo (f : LoftSt → LoftSt) (s : State) : State := s.setLoft (f s.loft)
def upS : State := lo (fun l => { l with done := [1, 2], log := [[1]], calSaved := [(2, 5)] }) ((up0.wr .PWR_CAP 0 0 5).wr .CHF_LED_CHECKS 0 0 7)
def trip (s : State) : State := s.setPwr { s.pwr with tripped := true }

/-- A state and operands that meet the hypotheses of each clause of `ResetRowsComplete` (part 1). -/
theorem wit_ResetRowsComplete_a :
    (
    (
    let s : State := upS
    ([0, 1, 2] : List (Fin 4)).any fun c =>
    let l := s.loft
    let fine := l.off = false ∧ s.pwr.tripped = false
    decide ((fine) ∧ c ≠ 3)) = true) ∧
    (
    let s : State := trip upS
    let l := s.loft
    (l.off = false) ∧ (s.pwr.tripped = true) ∧ s.tooHot = false) ∧
    (
    let s : State := (trip upS).wr .LOFT_SENS 128 0 (sensWord (-400) 1500 950)
    (s.pwr.tripped = true) ∧ s.tooHot = true) ∧
    (
    (
    let s : State := upS
    ([0, 1, 2] : List (Fin 4)).any fun c =>
    let l := s.loft
    let fine := l.off = false ∧ s.pwr.tripped = false
    let high := s.inputBelow 44000 = false
    let up := fine ∧ high ∧ l.mreset = false ∧ 2 ∈ l.done
    decide ((up) ∧ (c ≠ 3 ∨ s.isFatal = true ∨ s.pwr.halted = true))) = true) ∧
    (
    (
    let s : State := lo (fun l => { l with done := [1] }) upS
    ([0, 1, 2] : List (Fin 4)).any fun c =>
    let l := s.loft
    let fine := l.off = false ∧ s.pwr.tripped = false
    let high := s.inputBelow 44000 = false
    decide ((fine) ∧ (high) ∧ (l.mreset = false) ∧ (2 ∉ l.done) ∧ c ≠ 3)) = true) ∧
    (
    (
    let s : State := lo (fun l => { l with mv := 40000 }) upS
    ([0, 1, 2] : List (Fin 4)).any fun c =>
    let l := s.loft
    let fine := l.off = false ∧ s.pwr.tripped = false
    decide ((fine) ∧ (s.inputBelow 44000 = true) ∧ (l.mreset = false) ∧ c ≠ 3)) = true) := by
  refine ⟨?_, ?_, ?_, ?_, ?_, ?_⟩ <;> decide +kernel

/-- A state and operands that meet the hypotheses of each clause of `ResetRowsComplete` (part 2). -/
theorem wit_ResetRowsComplete_b :
    (
    let s : State := upS
    let l := s.loft
    (l.off = false) ∧ (l.done ≠ [] ∨ s.rdF .LOFT_STATUS 0 0 55 48 ≠ 0)) ∧
    (
    let s : State := lo (fun l => { l with off := true, revFlag := true }) upS
    let l := s.loft
    (l.off = true ∨ (l.done = [] ∧ s.rdF .LOFT_STATUS 0 0 55 48 = 0))) ∧
    (
    let s : State := upS
    let l := s.loft
    let fine := l.off = false ∧ s.pwr.tripped = false
    fine) ∧
    (
    let s : State := upS.wrF .LOFT_CTL 0 0 16 16 1
    s.rdF .LOFT_CTL 0 0 16 16 = 1) ∧
    (
    let s : State := upS
    let l := s.loft
    let fine := l.off = false ∧ s.pwr.tripped = false
    let high := s.inputBelow 44000 = false
    let up := fine ∧ high ∧ l.mreset = false ∧ 2 ∈ l.done
    (s.rdF .LOFT_CTL 0 0 16 16 = 0) ∧ up) ∧
    (
    let s : State := upS
    let w : Agent := .firmware
    let l := s.loft
    let fine := l.off = false ∧ s.pwr.tripped = false
    let high := s.inputBelow 44000 = false
    (s.pl w ≤ 1) ∧ (fine) ∧ high) := by
  refine ⟨?_, ?_, ?_, ?_, ?_, ?_⟩ <;> decide +kernel

/-- A state and operands that meet the hypotheses of each clause of `ResetRowsComplete` (part 3). -/
theorem wit_ResetRowsComplete_c :
    (
    let s : State := upS
    let w : Agent := .firmware
    let l := s.loft
    let fine := l.off = false ∧ s.pwr.tripped = false
    let high := s.inputBelow 44000 = false
    let up := fine ∧ high ∧ l.mreset = false ∧ 2 ∈ l.done
    (s.pl w ≤ 1) ∧ up) ∧
    (
    (
    let s : State := upS
    let w : Agent := .func 3
    (([Instr.loftResetCold (.func 3), .loftResetWarm (.func 3)])).any fun o => decide (1 < s.pl w)) = true) := by
  refine ⟨?_, ?_⟩ <;> decide +kernel

def boot (done : List Nat) : State := lo (fun l => { l with done := done, anchor := 1 }) State.reset

/-- A state and operands that meet the hypotheses of each clause of `PowerOnRowsComplete` (part 1). -/
theorem wit_PowerOnRowsComplete_a :
    (
    let s : State := boot [1]
    let l := s.loft
    (l.off = false) ∧ (l.mreset = false) ∧ (l.ended = false) ∧ (1 ∈ l.done) ∧ (2 ∉ l.done) ∧ (s.inputBelow 40000 = false) ∧ s.pwr.tripped = false) ∧
    (
    let s : State := boot [1, 2]
    let l := s.loft
    (l.off = true ∨ l.mreset = true ∨ l.ended = true ∨ 1 ∉ l.done ∨ 2 ∈ l.done ∨ s.inputBelow 40000 = true ∨ s.pwr.tripped = true)) ∧
    (
    let s : State := boot [1, 2]
    let n : Fin 10 := 4
    let l := s.loft
    (l.canStep n = false ∨ s.pwr.tripped = true)) ∧
    (
    let s : State := boot []
    let n : Fin 10 := 2
    let l := s.loft
    let can := fun (n : Nat) => l.canStep n = true ∧ s.pwr.tripped = false
    can 1) ∧
    (
    let s : State := boot [1, 2]
    let n : Fin 10 := 2
    let l := s.loft
    let can := fun (n : Nat) => l.canStep n = true ∧ s.pwr.tripped = false
    can 3) ∧
    (
    let s : State := boot [1, 2, 3]
    let n : Fin 10 := 2
    let l := s.loft
    let can := fun (n : Nat) => l.canStep n = true ∧ s.pwr.tripped = false
    can 4) := by
  refine ⟨?_, ?_, ?_, ?_, ?_, ?_⟩ <;> decide +kernel

/-- A state and operands that meet the hypotheses of each clause of `PowerOnRowsComplete` (part 2). -/
theorem wit_PowerOnRowsComplete_b :
    (
    let s : State := boot [1, 2, 3]
    let n : Fin 10 := 2
    let l := s.loft
    let can := fun (n : Nat) => l.canStep n = true ∧ s.pwr.tripped = false
    can 5) ∧
    (
    let s : State := boot [1, 2, 3, 5]
    let n : Fin 10 := 2
    let l := s.loft
    let can := fun (n : Nat) => l.canStep n = true ∧ s.pwr.tripped = false
    can 6) ∧
    (
    let s : State := (boot [1, 2, 3, 5, 6]).addFence 1 5
    let n : Fin 10 := 2
    let l := s.loft
    let can := fun (n : Nat) => l.canStep n = true ∧ s.pwr.tripped = false
    (can 7) ∧ s.fences ≠ 0) ∧
    (
    let s : State := boot [1, 2, 3, 5, 6]
    let n : Fin 10 := 2
    let l := s.loft
    let can := fun (n : Nat) => l.canStep n = true ∧ s.pwr.tripped = false
    (can 7) ∧ s.fences = 0) ∧
    (
    let s : State := boot [1, 2, 3, 5, 6]
    let n : Fin 10 := 2
    let bad : List BootBad := [.thresher 7, .core 5]
    let l := s.loft
    let can := fun (n : Nat) => l.canStep n = true ∧ s.pwr.tripped = false
    let b := bad.foldl State.bootFence (if s.fences = 0 then s.loadFences else s)
    (can 7) ∧ b.loft.ended = false) ∧
    (
    let c : Fin 64 := (5 : Fin 64)
    4 ≤ c.val) := by
  refine ⟨?_, ?_, ?_, ?_, ?_, ?_⟩ <;> decide +kernel

/-- A state and operands that meet the hypotheses of each clause of `PowerOnRowsComplete` (part 3). -/
theorem wit_PowerOnRowsComplete_c :
    (
    let s : State := boot [1, 2, 3, 5, 6, 7]
    let n : Fin 10 := 2
    let bad : List BootBad := []
    let l := s.loft
    let can := fun (n : Nat) => l.canStep n = true ∧ s.pwr.tripped = false
    (can 8) ∧ (∀ k, .stack k ∉ bad)) ∧
    (
    let s : State := boot [1, 2, 3, 5, 6, 7]
    let n : Fin 10 := 2
    let bad : List BootBad := [.stack 3]
    let l := s.loft
    let can := fun (n : Nat) => l.canStep n = true ∧ s.pwr.tripped = false
    (can 8) ∧ (.stack 3 ∈ bad)) ∧
    (
    let s : State := boot [1, 2, 3, 5, 6, 7, 8]
    let n : Fin 10 := 2
    let bad : List BootBad := []
    let l := s.loft
    let can := fun (n : Nat) => l.canStep n = true ∧ s.pwr.tripped = false
    (can 9) ∧ (∀ f, .laser f ∉ bad)) ∧
    (
    let s : State := boot [1, 2, 3, 5, 6, 7, 8]
    let n : Fin 10 := 2
    let l := s.loft
    let can := fun (n : Nat) => l.canStep n = true ∧ s.pwr.tripped = false
    can 9) ∧
    (
    let s : State := boot [1, 2]
    let l := s.loft
    (s.isReady = true ∨ l.ended = true ∨ 9 ∉ l.done)) ∧
    (
    let s : State := lo (fun l => { l with anchor := 0 }) (boot [1, 2])
    let l := s.loft
    (s.isReady = true ∨ l.ended = true ∨ l.anchor = 0 ∨ l.off = true)) := by
  refine ⟨?_, ?_, ?_, ?_, ?_, ?_⟩ <;> decide +kernel

/-- A state and operands that meet the hypotheses of each clause of `PowerOnRowsComplete` (part 4). -/
theorem wit_PowerOnRowsComplete_d :
    (
    let s : State := boot [1, 2]
    let l := s.loft
    (l.off = true ∨ l.ended = true ∨ 2 ∈ l.done ∨ s.inputBelow 40000 = false)) ∧
    (
    let s : State := boot [1, 2, 3, 5, 6, 7, 8, 9]
    let l := s.loft
    (s.isReady = false) ∧ (l.ended = false) ∧ 9 ∈ l.done) ∧
    (
    let s : State := boot [1, 2]
    let l := s.loft
    (s.isReady = false) ∧ (l.ended = false) ∧ (l.anchor ≠ 0) ∧ l.off = false) ∧
    (
    let s : State := lo (fun l => { l with mv := 39999 }) (boot [1])
    let l := s.loft
    (l.off = false) ∧ (l.ended = false) ∧ (2 ∉ l.done) ∧ s.inputBelow 40000 = true) := by
  refine ⟨?_, ?_, ?_, ?_⟩ <;> decide +kernel

/-- The sequence has ended and the chip is Ready. -/
def ready : State := lo (fun l => { l with done := [1, 2, 3, 4, 5, 6, 7, 8, 9, 10] }) (up0.wrF .LOFT_STATUS 0 0 63 63 1)
def offS : State := lo (fun l => { l with off := true }) up0
def recov : State := up0.wrF .HSP_STATUS 0 0 58 56 7
def upd : State := lo (fun l => { l with upd := some ⟨2, 0, [1]⟩ }) up0

/-- A state and operands that meet the hypotheses of each clause of `ManagementRowsComplete` (part 1). -/
theorem wit_ManagementRowsComplete_a :
    (
    (
    let s : State := offS
    let code : BitVec 8 := 2
    let data : List (BitVec 8) := []
    let id : BitVec 16 := 1
    let ty : Fin 4 := 1
    let bs : List (BitVec 8) := [1]
    let ad : BitVec 48 := 0xF00000000000
    let n : Nat := 4
    let v : BitVec 64 := 1
    let i : Fin 768 := 130
    let x : BitVec 32 := 1000
    let pin : Fin 41 := 5
    let fib : Fin 16 := 3
    let lane : Fin 256 := 7
    let l := s.loft
    ([Instr.mctpControl 2 [], .pldmDiscovery 2 [], .pldmSensorReading 1, .pollForPlatformEventMessage, .queryDeviceIdentifiers,
      .firmwareUpdateTransfer 1 [1] true, .activateFirmware, .kzCsrRead 0xF00000000000 8, .kzCsrWrite 0xF00000000000 8 1, .kzWake, .kzLogRead 1 4,
      .kzHealth, .sensorSample 130 1000 true, .smbusSclTimeout, .smbSdaStuck, .pinReadbackCheck 5 true, .laserInputLow 3, .lightOnDataFibre 7,
      .ref3v3Limit]).any fun o => decide (l.off = true)) = true) ∧
    (
    let s : State := ready
    let code : BitVec 8 := 2
    let l := s.loft
    let on := l.off = false
    (on) ∧ code = 2) ∧
    (
    (
    let s : State := ready
    let code : BitVec 8 := 1
    ([[0, 8], [0, 254]] : List (List (BitVec 8))).any fun data =>
    let l := s.loft
    let on := l.off = false
    ([8, 254]).any fun o => decide ((on) ∧ (code = 1) ∧ (8 ≤ o) ∧ (o < 255) ∧ data = [0, BitVec.ofNat 8 o])) = true) ∧
    (
    let s : State := ready
    let code : BitVec 8 := 1
    let data : List (BitVec 8) := []
    let l := s.loft
    let on := l.off = false
    (on) ∧ (code = 1) ∧ data.length < 2) ∧
    (
    (
    let s : State := ready
    let code : BitVec 8 := 1
    ([[0, 0], [0, 255]] : List (List (BitVec 8))).any fun data =>
    let l := s.loft
    let on := l.off = false
    ([0, 255]).any fun o => decide ((on) ∧ (code = 1) ∧ ((o = 0 ∨ o = 255)) ∧ data = [0, BitVec.ofNat 8 o])) = true) ∧
    (
    let s : State := ready
    let code : BitVec 8 := 4
    let l := s.loft
    let on := l.off = false
    (on) ∧ code = 4) := by
  refine ⟨?_, ?_, ?_, ?_, ?_, ?_⟩ <;> decide +kernel

/-- A state and operands that meet the hypotheses of each clause of `ManagementRowsComplete` (part 2). -/
theorem wit_ManagementRowsComplete_b :
    (
    let s : State := ready
    let code : BitVec 8 := 5
    let l := s.loft
    let on := l.off = false
    (on) ∧ code = 5) ∧
    (
    let s : State := ready
    let code : BitVec 8 := 9
    let l := s.loft
    let on := l.off = false
    (on) ∧ code.toNat ∉ [1, 2, 4, 5]) ∧
    (
    (
    let s : State := ready
    let code : BitVec 8 := 1
    ([[0], [8]] : List (List (BitVec 8))).any fun data =>
    let l := s.loft
    let on := l.off = false
    ([0, 8]).any fun o => decide ((on) ∧ (code = 1) ∧ (o < 256) ∧ data = [BitVec.ofNat 8 o])) = true) ∧
    (
    (
    let s : State := ready
    ([3, 5] : List (BitVec 8)).any fun code =>
    let l := s.loft
    let on := l.off = false
    decide ((on) ∧ (code = 3 ∨ code = 5))) = true) ∧
    (
    let s : State := ready
    let code : BitVec 8 := 9
    let l := s.loft
    let on := l.off = false
    (on) ∧ code.toNat ∉ [1, 2, 3, 4, 5]) ∧
    (
    let s : State := ready
    let id : BitVec 16 := 0
    let l := s.loft
    let on := l.off = false
    (on) ∧ (id = 0 ∨ sensRange (id.toNat - 1) = none)) := by
  refine ⟨?_, ?_, ?_, ?_, ?_, ?_⟩ <;> decide +kernel

/-- A state and operands that meet the hypotheses of each clause of `ManagementRowsComplete` (part 3). -/
theorem wit_ManagementRowsComplete_c :
    (
    let s : State := ready
    let id : BitVec 16 := 1
    let l := s.loft
    let on := l.off = false
    (on) ∧ (id ≠ 0) ∧ sensRange (id.toNat - 1) ≠ none) ∧
    (
    (
    let s : State := lo (fun l => { l with evq := [⟨1, 0, true, false, []⟩] }) up0
    let es : List PlatEvt := []
    let l := s.loft
    let on := l.off = false
    ((l.evq).head?.toList).any fun e => decide ((on) ∧ l.evq = e :: es)) = true) ∧
    (
    let s : State := ready
    let l := s.loft
    let on := l.off = false
    (on) ∧ l.evq = []) ∧
    (
    let s : State := ready
    let l := s.loft
    let on := l.off = false
    on) ∧
    (
    let s : State := up0.setHasp { up0.hasp with run := [(2, imgHd)] }
    let ty : Fin 4 := 1
    let l := s.loft
    let on := l.off = false
    (on) ∧ (l.upd = none) ∧ mget dNil s.hasp.run (ty.val + 1) ≠ []) ∧
    (
    let s : State := upd
    let ty : Fin 4 := 1
    let l := s.loft
    let on := l.off = false
    let u := ⟨2, 0, [1]⟩
    (on) ∧ (l.upd = some u) ∧ u.typ = ty.val + 1) := by
  refine ⟨?_, ?_, ?_, ?_, ?_, ?_⟩ <;> decide +kernel

/-- A state and operands that meet the hypotheses of each clause of `ManagementRowsComplete` (part 4). -/
theorem wit_ManagementRowsComplete_d :
    (
    let s : State := ready
    let ty : Fin 4 := 1
    let l := s.loft
    let on := l.off = false
    (on) ∧ ((∀ u, l.upd = some u → u.typ ≠ ty.val + 1))) ∧
    (
    (
    let s : State := lo (fun l => { l with checked := [3] }) (hs (fun h => { h with flash := [(3, some ⟨[], [], false⟩)] }) recov)
    let l := s.loft
    let on := l.off = false
    ((l.checked.find? (fun k => decide (s.updStatus k ≠ 0))).toList).any fun k => decide ((on) ∧ s.rdF .HSP_STATUS 0 0 58 56 = 7)) = true) ∧
    (
    let s : State := lo (fun l => { l with checked := [3], done := [1, 2] }) recov
    let l := s.loft
    let on := l.off = false
    (on) ∧ (s.rdF .HSP_STATUS 0 0 58 56 = 7) ∧ (l.checked ≠ []) ∧ (s.pwr.tripped = false) ∧ (s.inputBelow 44000 = false) ∧ (l.mreset = false) ∧ 2 ∈
      l.done) ∧
    (
    let s : State := ready
    let l := s.loft
    let on := l.off = false
    (on) ∧ s.rdF .HSP_STATUS 0 0 58 56 ≠ 7) ∧
    (
    let s : State := ready
    let ad : BitVec 48 := 0xF00000000000
    let n : Nat := 8
    let l := s.loft
    let on := l.off = false
    let a := ad.toNat
    let inCsr := (n = 4 ∨ n = 8) ∧ 0xF00000000000 ≤ a ∧ a < 0xF00100000000
    (on) ∧ (inCsr) ∧ s.notReady a = false) ∧
    (
    (
    let s : State := State.reset
    let ad : BitVec 48 := 0xF00080000000
    let n : Nat := 8
    let v : BitVec 64 := 1
    let l := s.loft
    let on := l.off = false
    let a := ad.toNat
    let inCsr := (n = 4 ∨ n = 8) ∧ 0xF00000000000 ≤ a ∧ a < 0xF00100000000
    ([Instr.kzCsrRead 0xF00080000000 8, .kzCsrWrite 0xF00080000000 8 1]).any fun o => decide ((on) ∧ (inCsr) ∧ s.notReady a = true)) = true) := by
  refine ⟨?_, ?_, ?_, ?_, ?_, ?_⟩ <;> decide +kernel

/-- A state and operands that meet the hypotheses of each clause of `ManagementRowsComplete` (part 5). -/
theorem wit_ManagementRowsComplete_e :
    (
    (
    let s : State := ready
    let ad : BitVec 48 := 0
    let n : Nat := 8
    let v : BitVec 64 := 1
    let l := s.loft
    let on := l.off = false
    let a := ad.toNat
    let inCsr := (n = 4 ∨ n = 8) ∧ 0xF00000000000 ≤ a ∧ a < 0xF00100000000
    ([Instr.kzCsrRead 0 8, .kzCsrWrite 0 8 1]).any fun o => decide ((on) ∧ ¬ inCsr)) = true) ∧
    (
    (
    let s : State := ready
    ([0, 5] : List (Nat)).any fun n =>
    let l := s.loft
    let on := l.off = false
    decide ((on) ∧ (n = 0 ∨ 4 < n))) = true) ∧
    (
    let s : State := ready
    let i : Fin 768 := 5
    let l := s.loft
    let on := l.off = false
    (on) ∧ sensRange i = none) ∧
    (
    let s : State := ready
    let pin : Fin 41 := 4
    let l := s.loft
    let on := l.off = false
    (on) ∧ (¬ (pin.val = 5 ∨ pin.val = 6 ∨ pin.val = 16))) ∧
    (
    (
    let s : State := ready
    ([1, 4] : List (Nat)).any fun n =>
    let l := s.loft
    let on := l.off = false
    decide ((on) ∧ (1 ≤ n) ∧ n ≤ 4)) = true) ∧
    (
    (
    let s : State := ready
    let i : Fin 768 := 130
    let l := s.loft
    let on := l.off = false
    (((sensRange i).map (·.1)).toList).any fun lo => (((sensRange i).map (·.2)).toList).any fun hi => decide ((on) ∧ sensRange i = some (lo, hi))) =
      true) := by
  refine ⟨?_, ?_, ?_, ?_, ?_, ?_⟩ <;> decide +kernel

/-- A state and operands that meet the hypotheses of each clause of `ManagementRowsComplete` (part 6). -/
theorem wit_ManagementRowsComplete_f :
    (
    let s : State := ready
    let w : Agent := .firmware
    let it : Fin 528 := 6
    Allowed s w .LOFT_CAL_U it 0) ∧
    (
    let s : State := ready
    let w : Agent := .firmware
    Allowed s w .LOFT_CAL_CTL 0 0) ∧
    (
    (
    let s : State := ready
    ([5, 6, 16] : List (Fin 41)).any fun pin =>
    let l := s.loft
    let on := l.off = false
    decide ((on) ∧ (pin.val = 5 ∨ pin.val = 6 ∨ pin.val = 16))) = true) ∧
    (
    let s : State := ready
    let l := s.loft
    let on := l.off = false
    (on) ∧ (s.pwr.idle ≠ 2) ∧ (s.pwr.tripped = false) ∧ 9 ∈ l.done) ∧
    (
    let s : State := State.reset
    let l := s.loft
    let on := l.off = false
    (on) ∧ (s.pwr.idle = 2 ∨ s.pwr.tripped = true ∨ 9 ∉ l.done)) := by
  refine ⟨?_, ?_, ?_, ?_, ?_⟩ <;> decide +kernel

/-- A state and operands that meet the hypotheses of each clause of `WicketRowsComplete` (part 1). -/
theorem wit_WicketRowsComplete_a :
    (
    let s : State := up0.wrF .HSP_STATUS 0 0 51 50 2
    let on := s.loft.off = false
    on) ∧
    (
    (
    let s : State := up0.wrF .HSP_STATUS 0 0 51 50 2
    ([115200, 460800, 921600, 1500000, 3000000] : List (Nat)).any fun rate =>
    let on := s.loft.off = false
    decide ((on) ∧ rate ∈ [115200, 460800, 921600, 1500000, 3000000])) = true) ∧
    (
    let s : State := up0.wrF .HSP_STATUS 0 0 51 50 2
    let rate : Nat := 9600
    let on := s.loft.off = false
    (on) ∧ rate ∉ [115200, 460800, 921600, 1500000, 3000000]) ∧
    (
    let s : State := up0.wrF .HSP_STATUS 0 0 51 50 2
    let sig : List (BitVec 8) := List.replicate 64 0
    let on := s.loft.off = false
    (on) ∧ sig.length = 64) ∧
    (
    let s : State := up0.wrF .HSP_STATUS 0 0 51 50 2
    let sig : List (BitVec 8) := []
    let on := s.loft.off = false
    (on) ∧ sig.length ≠ 64) ∧
    (
    (
    let s : State := offS
    let c : Fin 64 := 5
    let pc : BitVec 17 := 64
    let ad : BitVec 64 := 0x8000000000000008
    let v : BitVec 64 := 1
    let n : Nat := 8
    let m : Nat := 1
    let rate : Nat := 115200
    let sig : List (BitVec 8) := List.replicate 64 0
    (([Instr.wicketId, .wicketBaud 115200, .wicketChal, .wicketUnlock 8 (List.replicate 64 0), .wicketStatus, .wicketSens 8 1, .wicketRing 8 1,
      .wicketFmap 8 1, .wicketLog 8 1, .wicketRd 0x8000000000000008 8 1, .wicketWr 0x8000000000000008 8 1, .wicketHalt 5, .wicketGo 5 64, .wicketRegs
      5, .wicketResetWarm, .wicketResetCold])).any fun o => decide (s.loft.off = true)) = true) := by
  refine ⟨?_, ?_, ?_, ?_, ?_, ?_⟩ <;> decide +kernel

/-- A state and operands that meet the hypotheses of each clause of `WicketRowsComplete` (part 2). -/
theorem wit_WicketRowsComplete_b :
    (
    let ad : BitVec 64 := 0x8000000000000008
    let n : Nat := 3
    let shape := (n = 1 ∨ n = 2 ∨ n = 4 ∨ n = 8) ∧ ad.toNat % n = 0
    ¬ shape) ∧
    (
    let ad : BitVec 64 := 0xF00000000000
    let n : Nat := 8
    let shape := (n = 1 ∨ n = 2 ∨ n = 4 ∨ n = 8) ∧ ad.toNat % n = 0
    let la := fld ad 47 0
    let csr := 0xF00000000000 ≤ la ∧ la < 0xF00100000000
    (shape) ∧ (fld ad 63 60 = 0) ∧ (fld ad 59 48 = 0) ∧ csr) ∧
    (
    (
    let s : State := up0.wrF .HSP_STATUS 0 0 51 50 2
    let ad : BitVec 64 := 0x200000
    let n : Nat := 8
    let shape := (n = 1 ∨ n = 2 ∨ n = 4 ∨ n = 8) ∧ ad.toNat % n = 0
    let la := fld ad 47 0
    let csr := 0xF00000000000 ≤ la ∧ la < 0xF00100000000
    let mem := (fld ad 63 60 = 0 ∧ fld ad 59 48 = 0 ∧ ¬ csr) ∨ (fld ad 63 60 = 1 ∧ fld ad 59 48 = s.chip)
    ((s.fetch .firmware la n false).toOption.toList).any fun b => decide ((shape) ∧ mem)) = true) ∧
    (
    (
    let s : State := up0.wrF .HSP_STATUS 0 0 51 50 2
    let ad : BitVec 64 := 0x700000000000
    let n : Nat := 8
    let shape := (n = 1 ∨ n = 2 ∨ n = 4 ∨ n = 8) ∧ ad.toNat % n = 0
    let la := fld ad 47 0
    let csr := 0xF00000000000 ≤ la ∧ la < 0xF00100000000
    let mem := (fld ad 63 60 = 0 ∧ fld ad 59 48 = 0 ∧ ¬ csr) ∨ (fld ad 63 60 = 1 ∧ fld ad 59 48 = s.chip)
    (errOf (s.fetch .firmware la n false)).any fun st => decide ((shape) ∧ mem)) = true) ∧
    (
    (
    let s : State := up0.wrF .HSP_STATUS 0 0 51 50 2
    let ad : BitVec 64 := 0x200000
    let v : BitVec 64 := 1
    let n : Nat := 8
    let shape := (n = 1 ∨ n = 2 ∨ n = 4 ∨ n = 8) ∧ ad.toNat % n = 0
    let la := fld ad 47 0
    let csr := 0xF00000000000 ≤ la ∧ la < 0xF00100000000
    let mem := (fld ad 63 60 = 0 ∧ fld ad 59 48 = 0 ∧ ¬ csr) ∨ (fld ad 63 60 = 1 ∧ fld ad 59 48 = s.chip)
    ((s.put .firmware la (natToBytes n v.toNat) false).toOption.toList).any fun t => decide ((shape) ∧ mem)) = true) ∧
    (
    (
    let s : State := up0.wrF .HSP_STATUS 0 0 51 50 2
    let ad : BitVec 64 := 0x700000000000
    let v : BitVec 64 := 1
    let n : Nat := 8
    let shape := (n = 1 ∨ n = 2 ∨ n = 4 ∨ n = 8) ∧ ad.toNat % n = 0
    let la := fld ad 47 0
    let csr := 0xF00000000000 ≤ la ∧ la < 0xF00100000000
    let mem := (fld ad 63 60 = 0 ∧ fld ad 59 48 = 0 ∧ ¬ csr) ∨ (fld ad 63 60 = 1 ∧ fld ad 59 48 = s.chip)
    (errOf (s.put .firmware la (natToBytes n v.toNat) false)).any fun st => decide ((shape) ∧ mem)) = true) := by
  refine ⟨?_, ?_, ?_, ?_, ?_, ?_⟩ <;> decide +kernel

/-- A state and operands that meet the hypotheses of each clause of `WicketRowsComplete` (part 3). -/
theorem wit_WicketRowsComplete_c :
    (
    let s : State := up0.wrF .HSP_STATUS 0 0 51 50 2
    let level := s.rdF .HSP_STATUS 0 0 51 50
    let on := s.loft.off = false
    (on) ∧ 2 ≤ level) ∧
    (
    let s : State := up0.wrF .HSP_STATUS 0 0 51 50 2
    let ad : BitVec 64 := 0x8000000000000008
    let n : Nat := 3
    let m : Nat := 1
    let level := s.rdF .HSP_STATUS 0 0 51 50
    let on := s.loft.off = false
    (on) ∧ (2 ≤ level) ∧ (1 ≤ m) ∧ (s.wicketRead ad n).2.1 ≠ 0) ∧
    (
    let s : State := up0.wrF .HSP_STATUS 0 0 51 50 2
    let ad : BitVec 64 := 0x8000000000000008
    let n : Nat := 8
    let m : Nat := 1
    let level := s.rdF .HSP_STATUS 0 0 51 50
    let on := s.loft.off = false
    (on) ∧ (2 ≤ level) ∧ (1 ≤ m) ∧ (s.wicketRead ad n).2.1 = 0) ∧
    (
    (
    let s : State := up0
    let n : Nat := 0
    let m : Nat := 1
    let level := s.rdF .HSP_STATUS 0 0 51 50
    let on := s.loft.off = false
    (([Instr.wicketStatus, .wicketSens 0 1, .wicketRing 0 1, .wicketFmap 0 1, .wicketLog 0 1])).any fun o => decide ((on) ∧ level = 0)) = true) ∧
    (
    (
    let s : State := up0
    let c : Fin 64 := 5
    let pc : BitVec 17 := 64
    let ad : BitVec 64 := 0x8000000000000008
    let v : BitVec 64 := 1
    let n : Nat := 8
    let m : Nat := 1
    let level := s.rdF .HSP_STATUS 0 0 51 50
    let on := s.loft.off = false
    (([Instr.wicketRd 0x8000000000000008 8 1, .wicketWr 0x8000000000000008 8 1, .wicketHalt 5, .wicketGo 5 64, .wicketRegs 5, .wicketResetWarm,
      .wicketResetCold])).any fun o => decide ((on) ∧ level < 2)) = true) ∧
    (
    let s : State := up0.wrF .HSP_STATUS 0 0 51 50 2
    let level := s.rdF .HSP_STATUS 0 0 51 50
    let on := s.loft.off = false
    (on) ∧ 1 ≤ level) := by
  refine ⟨?_, ?_, ?_, ?_, ?_, ?_⟩ <;> decide +kernel

/-- A state and operands that meet the hypotheses of each clause of `WicketRowsComplete` (part 4). -/
theorem wit_WicketRowsComplete_d :
    (
    let s : State := up0.wrF .HSP_STATUS 0 0 51 50 2
    let ad : BitVec 64 := 0x8000000000000008
    let n : Nat := 8
    let level := s.rdF .HSP_STATUS 0 0 51 50
    let on := s.loft.off = false
    let rd8 := fld ad 63 60 = 8 ∧ fld ad 59 25 = 0 ∧ (n = 1 ∨ n = 2 ∨ n = 4 ∨ n = 8) ∧ ad.toNat % n = 0
    (on) ∧ (2 ≤ level) ∧ rd8) ∧
    (
    let s : State := up0.wrF .HSP_STATUS 0 0 51 50 2
    let c : Fin 64 := 5
    let level := s.rdF .HSP_STATUS 0 0 51 50
    let on := s.loft.off = false
    let k := s.core c
    (on) ∧ (2 ≤ level) ∧ (k.state = .halted ∨ k.state = .doubleTrap) ∧ s.isFenced 9 c = false) ∧
    (
    let s : State := (up0.wrF .HSP_STATUS 0 0 51 50 2).setCore 5 { Core.reset with state := .running }
    let c : Fin 64 := 5
    let level := s.rdF .HSP_STATUS 0 0 51 50
    let on := s.loft.off = false
    let k := s.core c
    (on) ∧ (2 ≤ level) ∧ ((k.state ≠ .halted ∧ k.state ≠ .doubleTrap) ∨ s.isFenced 9 c = true)) ∧
    (
    let s : State := trip (upS.wrF .HSP_STATUS 0 0 51 50 2)
    let level := s.rdF .HSP_STATUS 0 0 51 50
    let on := s.loft.off = false
    (on) ∧ (2 ≤ level) ∧ (s.loft.mreset = false) ∧ (s.inputBelow 44000 = true ∨ s.pwr.tripped = true)) ∧
    (
    let s : State := ((trip upS).wr .LOFT_SENS 128 0 (sensWord (-400) 1500 950)).wrF .HSP_STATUS 0 0 51 50 2
    let level := s.rdF .HSP_STATUS 0 0 51 50
    let on := s.loft.off = false
    (on) ∧ (2 ≤ level) ∧ (s.pwr.tripped = true) ∧ s.tooHot = true) ∧
    (
    let s : State := upS.wrF .HSP_STATUS 0 0 51 50 2
    let level := s.rdF .HSP_STATUS 0 0 51 50
    let on := s.loft.off = false
    (on) ∧ (2 ≤ level) ∧ (s.pwr.tripped = false) ∧ (s.inputBelow 44000 = false) ∧ (s.loft.mreset = false) ∧ 2 ∈ s.loft.done) := by
  refine ⟨?_, ?_, ?_, ?_, ?_, ?_⟩ <;> decide +kernel

/-- A state and operands that meet the hypotheses of each clause of `WicketRowsComplete` (part 5). -/
theorem wit_WicketRowsComplete_e :
    (
    let s : State := up0.wrF .HSP_STATUS 0 0 51 50 2
    let level := s.rdF .HSP_STATUS 0 0 51 50
    let on := s.loft.off = false
    (on) ∧ (2 ≤ level) ∧ s.pwr.tripped = false) := by decide +kernel

/-- A state and operands that meet the hypotheses of each clause of `IdleBlockTicks`. -/
theorem wit_IdleBlockTicks :
    (
    ( ([State.reset, { State.reset with hay := { HaySt.reset with ref := 15, dev := 3 } },
      { State.reset with hay := { HaySt.reset with ref := 15, dev := -3 } }] : List (State)).any fun s => decide (s.pending = [])) = true) := by decide +kernel

/-- A state and operands that meet the hypotheses of each clause of `ResetStateIsAsSpecified`. -/
theorem wit_ResetStateIsAsSpecified :
    (
    let r : Reg := .CHF_TRANSIENT
    r.lasting = true) := by decide +kernel

/-- A state and operands that meet the hypotheses of each clause of `EveryStepKeepsMemoriesCanonical`. -/
theorem wit_EveryStepKeepsMemoriesCanonical :
    (MemWf { up0 with pending := [.fencePersist] } = true ∧ ∃ t, step { up0 with pending := [.fencePersist] } = .next t) := ⟨by decide +kernel, _, rfl⟩

/-! ### Values the manual works out -/

/-- Chapter 07: ADDI s3, s0, −16 is 0x1060_FFF0. -/
theorem test_addi_word : encI 0x04 3 0 0xFFF0 = 0x1060FFF0 := by decide
/-- Chapter 07: ACMD s5, s10 is 0xF0AA_0000. -/
theorem test_acmd_word : encRR 0x3C 5 10 0 0 = 0xF0AA0000 := by decide
/-- Chapter 07: ALIST s5, s10, s11 is 0xF0AA_5801. -/
theorem test_alist_word : encRR 0x3C 5 10 11 1 = 0xF0AA5801 := by decide
/-- Chapter 00: tile (2, 10, 37) is memory unit 9,106. -/
theorem test_unit_index : (Pos.mk 2 10 37).unit = 9106 ∧ (Pos.mk 2 10 37).kind = 1 := by decide
/-- Chapter 06: the bin at logical (1, 30, 41) is logical bin 0x1794; with pair 11 skipped it is unit 6,292, otherwise 6,164. -/
theorem test_remap_unit : (Pos.mk 1 30 41).lbin = 0x1794 ∧ unitOfLbin 0x8B 0x1794 = some 6292 ∧ unitOfLbin 0 0x1794 = some 6164 := by decide
/-- Chapter 09: address 0x12_3456_7800 lies in stack 6. -/
theorem test_silo_stack : siloStack 0x1234567800 = 6 := by decide
/-- Chapter 11: 2,410 µs falls in bin 44, 29,650 µs in bin 59 and 27,300 µs in bin 58. -/
theorem test_histogram_bins : histBin 2410 = 44 ∧ histBin 29650 = 59 ∧ histBin 27300 = 58 := by decide
/-- Chapter 02: the BF16 block of 40.0, 12.0, 1.3 and −2.7 as MXFP4: scale 0x82, elements 0x6, 0x3, 0x0 and 0x9. -/
def mxBlock : List FVal := [0x4220, 0x4140, 0x3FA6, 0xC02D].map Fmt.bf16.decode
theorem test_mxfp4_block : mxScale (mxOf 7) mxBlock = 0x82 ∧ mxBlock.map (fun v => (mxQuant (mxOf 7) RCtx.rne 0x82 v).1) = [6, 3, 0, 9] := by
  decide +kernel
/-- Chapter 10: the HUFF plane of four symbols, whose bits are stored as 0x5D, 0x80. -/
def hufTable : List Byte := (List.range 128).map fun i => if i = 0 then 0x01 else if i = 30 then 0x32 else if i = 94 then 0x03 else 0
theorem test_huff_plane : hufDecode 5 (hufTable ++ [0x5D, 0x80]) = some [0x00, 0x3C, 0xBC, 0x00, 0x3D] := by decide +kernel
/-- Chapter 13: 2,400 tokens of 5 choices over 120 experts at CF_Q8 320 and XROWS 256: a capacity of 128. -/
def crowded : RdlJob :=
  ⟨1, 0, 5, 0, natToBytes 4 1 ++ natToBytes 2 119 ++ natToBytes 2 5 ++ List.replicate 16 0 ++ natToBytes 4 320 ++ natToBytes 4 256, 0, [], [], [], [], [], false⟩
theorem test_capacity : crowded.capacity 12000 = (128, 128) := by decide +kernel
/-- Chapter 16: the bin read of byte 0x2_3450 on tile (0, 12, 47): ADDR 0x0100_0C5E_3450, DETAIL0 0x0004_8D04. -/
theorem test_bin_record : State.reset.binAddr (Pos.mk 0 12 47).unit 0x23450 = 0x01000C5E3450 ∧ binDetail 0x23450 4 0 = 0x00048D04 := by decide +kernel

/-! ### Well-formedness: a term that each check refuses -/

theorem test_ill_formed_rows : ([.siloIntakeAccess 0x3C (.read 8) [] [] none [], .cartwayPacketArrival 0 0 (List.replicate 9 0) 0 0, .granaryRequestSend 0 0 1 0 none none [],
    .granaryRequestSend 0 0 0 0 (some [1]) none [], .granaryGroupReceive 0 [] [], .granaryGroupReceive 0 (List.replicate 256 0) [[]], .linkFlitReceive 0 [] 0 false,
    .identityFlitReceive 0 [], .keyingComplete 0 none [], .keyingComplete 0 (some ([], [])) (List.replicate 9 0), .bootStepComplete 0 [], .kzLogRead 0 0,
    .kzLogRead 0 5, .wicketUnlock 1 [], .wicketRd 0 3 1, .wicketWr 0 16 0] : List Instr).all (fun i => !i.wellFormed) = true := by decide
theorem test_well_formed_rows : ([.siloIntakeAccess 0x38 (.read 8) [] [] none [], .cartwayPacketArrival 0 0 (List.replicate 8 0) 0 0, .granaryRequestSend 0 0 0x300 0 none none [],
    .linkFlitReceive 0 (List.replicate 256 0) 0 false, .keyingComplete 0 none (List.replicate 9 0), .bootStepComplete 1 [], .kzLogRead 0 4, .wicketRd 0 8 1,
    .fencePersist] : List Instr).all (·.wellFormed) = true := by decide

end Sys2Proof.Tests
end

namespace Sys2Proof.Proofs
open Sys2Proof Sys2Proof.Machine Sys2Proof.Safety Sys2Proof.Laws

/-! ### What RC_READ and REGISTER_WRITE run -/

/-- A mask over access codes that no field of the register has is empty. -/
theorem mask_eq_zero {r : Reg} {l : List Acc} (h : ∀ f ∈ r.info.fields, f.acc ∉ l) : r.mask l = 0 := by
  unfold Reg.mask
  generalize r.info.fields = fs at h ⊢
  induction fs with
  | nil => rfl
  | cons f fs ih =>
    obtain ⟨hf, hfs⟩ := List.forall_mem_cons.mp h
    rw [List.foldl_cons, if_neg hf]
    exact ih hfs

/-- The register maps give no field the code RC (Table 00.3), so a read clears nothing. -/
theorem mask_RC (r : Reg) : r.mask [.RC] = 0 := mask_eq_zero (by cases r <;> decide)

theorem exec_rcRead (w : Agent) (a : BitVec 48) (n : Nat) (x : Word) (s : State) :
    exec (.rcRead w a n x) s = .next (s.csrRead w a.toNat n) := by
  change execRcRead w a n x s = _
  unfold execRcRead
  split
  · simp [mask_RC]
  · rfl

theorem exec_registerWrite (w : Agent) (a : BitVec 48) (n : Nat) (v x : Word) (s : State) :
    exec (.registerWrite w a n v x) s = .next (s.csrWrite w a.toNat n v x false) := rfl

/-! ### The error record of a refusal -/

/-- Raising a record reaches the chaff alone. -/
theorem raise_eq (s : State) (e : ErrRec) : s.raise e = { s with chf := (s.raise e).chf } := by
  unfold State.raise
  dsimp only
  split <;> rfl

/-- R512: a source queue with an unreserved entry takes the record, stamped with the time. -/
theorem errq_raise_of_room (s : State) (e : ErrRec) (h : (mget dNil s.chf.errq e.src).length < 6) :
    mget dNil (s.raise e).chf.errq e.src = mget dNil s.chf.errq e.src ++ [{ e with time := s.time }] := by
  unfold State.raise
  dsimp only
  rw [if_neg fun hfull => by omega]
  exact mget_mput_self _ _ _ _

theorem raiseProt_eq (s : State) (src inst a : Nat) :
    s.raiseProt src inst a = { s with chf := (s.raiseProt src inst a).chf } := raise_eq s _

/-- R23: with room in the source's queue, a refusal is recorded there with its code and the address refused. -/
theorem errq_raiseProt_of_room (s : State) (src inst a : Nat) (h : (mget dNil s.chf.errq src).length < 6) :
    ∃ e, mget dNil (s.raiseProt src inst a).chf.errq src = mget dNil s.chf.errq src ++ [e] ∧ e.code = 2 ∧ e.addr = a :=
  ⟨_, errq_raise_of_room s ((errRec 0x0002 sevTransient src inst 0).withAddr a) h, rfl, rfl⟩

/-! ### An access of another form (R29) -/

theorem csrShape_eq_false {a n : Nat} (h : ¬((n = 4 ∨ n = 8) ∧ a % n = 0)) : csrShape a n = false :=
  decide_eq_false fun hshape => h ⟨hshape.1, hshape.2.1⟩

theorem csrRead_of_shape_false {a n : Nat} (h : csrShape a n = false) (s : State) (w : Agent) :
    s.csrRead w a n = { s.csrBad w a with rdata := 0 } := by
  simp [State.csrRead, h]

theorem csrWrite_of_shape_false {a n : Nat} (h : csrShape a n = false) (s : State) (w : Agent) (v x : Word) (now : Bool) :
    s.csrWrite w a n v x now = s.csrBad w a := by
  simp [State.csrWrite, h]

theorem csrBad_inside {a : Nat} (hlo : 0xF00000000000 ≤ a) (hhi : a < 0xF00100000000) (s : State) (w : Agent) :
    s.csrBad w a = { s with rstat := stProt } := by
  simp only [State.csrBad, if_pos (And.intro hlo hhi)]

theorem csrBad_outside {a : Nat} (h : a < 0xF00000000000 ∨ 0xF00100000000 ≤ a) (s : State) (w : Agent) :
    s.csrBad w a = { s.raiseProt (recSrc w).1 (recSrc w).2 a with rstat := stProt } := by
  simp only [State.csrBad, if_neg (show ¬(0xF00000000000 ≤ a ∧ a < 0xF00100000000) by omega)]

/-- Settles O12: an access of another form is `csrBad`, which inside CSR space leaves a status and outside it a record too. -/
theorem csrAccessesAreFourOrEightAlignedBytes : Obligations.CsrAccessesAreFourOrEightAlignedBytes := by
  intro s w a n v x hform
  have hshape := csrShape_eq_false hform
  rw [Gives, exec_rcRead, exec_registerWrite, csrRead_of_shape_false hshape, csrWrite_of_shape_false hshape]
  refine ⟨fun hlo hhi => ?_, fun hout => ⟨_, rfl, ?_, rfl, fun hroom => ?_⟩⟩
  · rw [csrBad_inside hlo hhi]
    exact ⟨rfl, rfl⟩
  · rw [csrBad_outside hout, raiseProt_eq]
    rfl
  · rw [csrBad_outside hout]
    exact errq_raiseProt_of_room s _ _ _ hroom

/-! ### An offset that no chapter defines (R30) -/

theorem csrShape_eq_true {a n : Nat} (hn : n = 4 ∨ n = 8) (ha : a % n = 0) (hlo : 0xF00000000000 ≤ a)
    (hhi : a < 0xF00100000000) : csrShape a n = true := decide_eq_true ⟨hn, ha, hlo, hhi⟩

/-- The kernel must not evaluate `Reg.ofAddr` at an unknown address: it would take
0xF000_0000_0000 from it one by one. So the definition is replaced as a whole function, before it is applied. -/
theorem csrValue_of_undefined {a : Nat} (hreg : Reg.ofAddr a = none) (s : State) (n : Nat) : s.csrValue a n = 0 := by
  generalize hdef : State.csrValue = value
  delta State.csrValue at hdef
  subst hdef
  beta_reduce
  rw [hreg]

section
variable {w : Agent} {a n : Nat} (hshape : csrShape a n = true) (hlm : lmWindow a = none) (hvec : vecWindow w a = none)
  (hreg : Reg.ofAddr (barAddr w a) = none)
include hshape hlm hvec hreg

/-- Where no window and no register answers, a closed BAR0 and an open one read alike. -/
theorem csrRead_of_undefined (s : State) : s.csrRead w a n = { s with rdata := 0, rstat := stOK } := by
  unfold State.csrRead
  simp [hshape, hlm, hvec, hreg, csrValue_of_undefined hreg]

theorem csrWrite_of_undefined (s : State) (v x : Word) (now : Bool) :
    s.csrWrite w a n v x now = { s with rstat := stOK } := by
  unfold State.csrWrite
  rw [hshape, if_neg (by simp)]
  split
  · next hsome => cases hlm.symm.trans hsome
  split
  · next hsome => cases hvec.symm.trans hsome
  simp only [hreg]

end

/-- Settles O13: with no window and no register at the address, what is left of an access is its status. -/
theorem undefinedOffsetsReadZeroAndIgnoreWrites : Obligations.UndefinedOffsetsReadZeroAndIgnoreWrites := by
  intro s w a n v x hn ha hlo hhi hlm hvec hreg
  have hshape := csrShape_eq_true hn ha hlo hhi
  rw [exec_rcRead, exec_registerWrite, csrRead_of_undefined hshape hlm hvec hreg, csrWrite_of_undefined hshape hlm hvec hreg]
  exact ⟨rfl, rfl⟩

end Sys2Proof.Proofs

namespace Sys2Proof.Proofs
open Sys2Proof Sys2Proof.Machine Sys2Proof.Safety Sys2Proof.Laws

/-! ### A field read back from the word it was written into -/

/-- The mask of `setFld` for a field of `n` bits from `lo`, bit by bit. -/
theorem getLsbD_fieldMask {w n lo i : Nat} (hi : i < w) :
    (BitVec.ofNat w ((2 ^ n - 1) * 2 ^ lo)).getLsbD i = decide (lo ≤ i ∧ i - lo < n) := by
  rw [BitVec.getLsbD_ofNat, Nat.testBit_mul_two_pow, Nat.testBit_two_pow_sub_one]
  simp [hi]

/-- Inside the field `setFld` clears what was there, so that the bits are those written. -/
theorem getLsbD_setFld_of_mem {w : Nat} (v : BitVec w) {hi lo i : Nat} (hw : i + lo < w) (x : Nat) (hin : i < hi + 1 - lo) :
    (setFld v hi lo x).getLsbD (i + lo) = x.testBit i := by
  rw [setFld, BitVec.getLsbD_or, BitVec.getLsbD_and, BitVec.getLsbD_not, getLsbD_fieldMask hw, BitVec.getLsbD_ofNat,
    Nat.testBit_mul_two_pow, Nat.testBit_mod_two_pow]
  simp [hin, hw]

theorem fld_setFld_self {w : Nat} (v : BitVec w) {hi lo : Nat} (hw : hi < w) (x : Nat) :
    fld (setFld v hi lo x) hi lo = x % 2 ^ (hi + 1 - lo) := by
  refine Nat.eq_of_testBit_eq fun i => ?_
  rw [fld, nbits, Nat.testBit_mod_two_pow, Nat.testBit_mod_two_pow, Nat.testBit_div_two_pow, BitVec.testBit_toNat]
  by_cases hin : i < hi + 1 - lo
  · rw [getLsbD_setFld_of_mem v (by omega) x hin]
  · simp [hin]

/-! ### BND_STATUS.STATE -/

theorem code_lt (k : CoreState) : k.code < 8 := by cases k <;> decide

/-- Table 07.13: STATE reads the code of what the core does. -/
theorem state_bndStatus (s : State) (c : Nat) : fld (s.bndStatus c) 2 0 = (s.core c).state.code :=
  (fld_setFld_self _ (by decide) _).trans (Nat.mod_eq_of_lt (code_lt _))

/-! ### What a trap saves (R227) -/

/-- The core with the pc, the cause and the value of a trap saved, before its mode, pc and state change. -/
def trapSaved (k : Core) (cause : Nat) (tval : Word) : Core :=
  ((k.setCc ccEpc (BitVec.ofNat 64 k.pc)).setCc ccCause (BitVec.ofNat 64 cause)).setCc ccTval tval

theorem trap_of_program {s : State} {c : Nat} (h : (s.core c).monitor = false) (cause : Nat) (tval : Word) :
    s.trap c cause tval =
      s.setCore c { trapSaved (s.core c) cause tval with monitor := true, pc := 0, state := .running } := by
  simp only [State.trap, h, trapSaved, Bool.false_eq_true, if_false]

theorem trap_of_monitor {s : State} {c : Nat} (h : (s.core c).monitor = true) (cause : Nat) (tval : Word) :
    s.trap c cause tval = (s.setCore c { trapSaved (s.core c) cause tval with state := .doubleTrap }).raise
      (errRec 0x0508 (if c < 4 then sevFatal else sevLasting) 4 c 0) := by
  simp only [State.trap, h, trapSaved, if_true]

section
variable (k : Core) (cause : Nat) (tval : Word)

theorem trapSaved_ccr_epc : (trapSaved k cause tval).ccr 1 = BitVec.ofNat 64 k.pc := by
  simp [trapSaved, ccr_setCc, ccEpc, ccCause, ccTval]

theorem trapSaved_ccr_cause : (trapSaved k cause tval).ccr 2 = BitVec.ofNat 64 cause := by
  simp [trapSaved, ccr_setCc, ccCause, ccTval]

theorem trapSaved_ccr_tval : (trapSaved k cause tval).ccr 3 = tval := by
  simp [trapSaved, ccr_setCc, ccTval]

theorem trapSaved_ccr_other {n : Nat} (h1 : n ≠ 1) (h2 : n ≠ 2) (h3 : n ≠ 3) :
    (trapSaved k cause tval).ccr n = k.ccr n := by
  simp [trapSaved, ccr_setCc, ccEpc, ccCause, ccTval, h1, h2, h3]

end

/-! ### The record of a double trap -/

/-- Raising a record leaves every core as it is. -/
theorem core_raise (s : State) (e : ErrRec) (c : Nat) : (s.raise e).core c = s.core c := by
  rw [raise_eq]
  rfl

/-- R512: a LASTING or FATAL record enters its source's list however full the queue is. -/
theorem errq_raise_of_lasting (s : State) (e : ErrRec) (h : sevLasting ≤ e.sev) :
    mget dNil (s.raise e).chf.errq e.src = mget dNil s.chf.errq e.src ++ [{ e with time := s.time }] := by
  unfold State.raise
  dsimp only
  rw [if_neg fun hfull => absurd hfull.1 (Nat.not_lt.mpr h)]
  exact mget_mput_self _ _ _ _

/-- R508: CORE_DOUBLE_TRAP is FATAL for a service core and LASTING for a program core. -/
theorem sevLasting_le_doubleTrap (c : Nat) : sevLasting ≤ if c < 4 then sevFatal else sevLasting := by
  split <;> decide

/-! ### A trap, mode by mode -/

theorem core_trap_of_monitor {s : State} {c : Nat} (h : (s.core c).monitor = true) (cause : Nat) (tval : Word) :
    (s.trap c cause tval).core c = { trapSaved (s.core c) cause tval with state := .doubleTrap } := by
  rw [trap_of_monitor h, core_raise, core_setCore_self]

theorem core_trap_of_program {s : State} {c : Nat} (h : (s.core c).monitor = false) (cause : Nat) (tval : Word) :
    (s.trap c cause tval).core c =
      { trapSaved (s.core c) cause tval with monitor := true, pc := 0, state := .running } := by
  rw [trap_of_program h, core_setCore_self]

theorem reg_trap (s : State) (c cause : Nat) (tval : Word) (n : Nat) :
    ((s.trap c cause tval).core c).reg n = (s.core c).reg n := by
  cases h : (s.core c).monitor with
  | false => rw [core_trap_of_program h]; rfl
  | true => rw [core_trap_of_monitor h]; rfl

theorem core_trap_ne (s : State) {c i : Nat} (cause : Nat) (tval : Word) (hi : i ≠ c) :
    (s.trap c cause tval).core i = s.core i := by
  cases h : (s.core c).monitor with
  | false => rw [trap_of_program h, core_setCore, if_neg hi]
  | true => rw [trap_of_monitor h, core_raise, core_setCore, if_neg hi]

theorem trap_eq_of_program {s : State} {c : Nat} (h : (s.core c).monitor = false) (cause : Nat) (tval : Word) :
    s.trap c cause tval = { s with cores := (s.trap c cause tval).cores } := by
  rw [trap_of_program h]
  rfl

/-- A double trap reaches the cores and the chaff alone. -/
theorem trap_eq_of_monitor {s : State} {c : Nat} (h : (s.core c).monitor = true) (cause : Nat) (tval : Word) :
    s.trap c cause tval =
      { s with cores := (s.trap c cause tval).cores, chf := (s.trap c cause tval).chf } := by
  rw [trap_of_monitor h, raise_eq]
  rfl

theorem errq_trap_of_monitor {s : State} {c : Nat} (h : (s.core c).monitor = true) (cause : Nat) (tval : Word) :
    ∃ e, mget dNil (s.trap c cause tval).chf.errq 4 = mget dNil s.chf.errq 4 ++ [e] ∧ e.code = 0x0508 ∧ e.inst = c := by
  rw [trap_of_monitor h]
  exact ⟨_, errq_raise_of_lasting _ (errRec 0x0508 _ 4 c 0) (sevLasting_le_doubleTrap c), rfl, rfl⟩

/-- Settles O9: both modes save the same three registers; monitor mode then halts the core and records it. -/
theorem trapIsTakenInOneStep : Obligations.TrapIsTakenInOneStep := by
  intro s c cause tval _ t k
  refine ⟨⟨fun hprog => ?_, fun hmon => ?_⟩, reg_trap s c cause tval, fun i => core_trap_ne s cause tval⟩
  · have hcore : t.core c = _ := core_trap_of_program hprog cause tval
    rw [hcore]
    exact ⟨trapSaved_ccr_epc k cause tval, trapSaved_ccr_cause k cause tval, trapSaved_ccr_tval k cause tval,
      rfl, rfl, rfl, fun n => trapSaved_ccr_other k cause tval, trap_eq_of_program hprog cause tval⟩
  · have hcore : t.core c = _ := core_trap_of_monitor hmon cause tval
    rw [state_bndStatus, hcore]
    exact ⟨rfl, rfl, hmon, trapSaved_ccr_epc k cause tval, trapSaved_ccr_cause k cause tval,
      trapSaved_ccr_tval k cause tval, fun n => trapSaved_ccr_other k cause tval,
      trap_eq_of_monitor hmon cause tval, errq_trap_of_monitor hmon cause tval⟩

end Sys2Proof.Proofs
